-- ==== Sys2Proof/Word.lean ====
section
/-! DEFINITION. The word types of the part: 64-bit registers (R6), bytes (R5), 32-bit floating-point encodings
and the 18-bit values of a block's message stay plain integers, as the spec computes them exactly. -/

namespace Sys2Proof

/-- A register or a scratch word: 64 bits (R6, R387). -/
abbrev Word := BitVec 64

/-- One byte (R5). -/
abbrev Byte := BitVec 8

end Sys2Proof
end

