-- ==== Sys2Proof/Syntax.lean ====
section
/-! DEFINITION. The commands of the part: one constructor of `Instr` for each row of spec/opcode_table.json, with
the operands the row's rules give it. What an operand means is said at its structure; its bounds that are no plain
range stand in WellFormed.lean. -/

namespace Sys2Proof

/-- The masters of R19 that reach the address map. -/
inductive Master where
  | host
  | core (n : Fin 4)
  | mover (region : Fin 52)
  | pair
  | parcel
  deriving DecidableEq, Repr

/-- The accepted sizes of a BAR0 access (R407): the whole register, or one aligned half of it. -/
inductive Half where
  | full | lower | upper
  deriving DecidableEq, Repr

/-- A write to one BAR0 register: who writes, which half, the data in register bit order (R407, R542). -/
structure Write where
  who : Master
  half : Half
  data : Word
  deriving DecidableEq, Repr

/-- A report a unit hands to the event unit (R444, R447, R454). `severity`: 0 trace, 1 info, 2 warning, 3 error,
4 alarm. `detail` are the 12 detail bytes, zero where shorter. -/
structure Report where
  cls : Fin 16
  severity : Fin 5
  code : BitVec 16
  unit : BitVec 16
  detail : List Byte
  deriving DecidableEq, Repr

/-- The reduction kinds of R99 and R111. -/
inductive Kind where
  | sum | max | min | and | or | xor
  deriving DecidableEq, Repr

/-- One MVM command as the engine issues it (R44, R124): the logical region and block that run it (R16), the logical array of the
generation (R209), the tag, one scale group of 32 elements as stored with its scale byte (R56, R59), the generation slot (4:
the Tin Soldier model), the tile that owns the output with its engine and context, the token column, the layer's output channel
at row 0 of the tile (c₀ of R98), and the key of the request whose token the column is. Width, format, layer, scale group and columns in
use follow from the slot's manifest and recipes. -/
structure MvmCmd where
  region : Fin 52
  block : Fin 1280
  array : Fin 512
  tag : BitVec 12
  elems : List Byte
  scale : Byte
  slot : Fin 5
  owner : Fin 52
  tile : Fin 64
  ctx : Fin 4096
  col : Nat
  chan0 : Nat
  key : Nat
  deriving DecidableEq, Repr

/-- What the engine holds for the lane sums of one token column (R88): the generation slot and the cell-weight tensor, the column, the
output channel at row 0, the FP16 values of outlier channels by input index, and the other inputs a patch entry may
name: element and scale byte by input index. -/
structure LaneInput where
  slot : Fin 5
  tensor : Nat
  col : Nat
  chan0 : Nat
  outliers : List (Nat × BitVec 16)
  elems : List (Nat × Byte × Byte)
  deriving DecidableEq, Repr

/-- One scale group the engines quantise in a step (R60, R123, R128): the region whose engine quantises it, generation slot and
layer, the group's number in the layer's input, the format code of its values (FP16, BF16, FP32 or ACC48 with its binary point)
with their encodings, the outlier mask. -/
structure GroupInput where
  region : Fin 52
  slot : Fin 5
  layer : Nat
  index : Nat
  format : Fin 16
  bp : Fin 64
  values : List (BitVec 64)
  outliers : BitVec 32
  deriving DecidableEq, Repr

/-- One group of 32 KV values of a position written in a step (R251), FP32 encodings; `seq` is the sequence id, plus 65,536 for a
keep sequence. -/
structure KvGroup where
  seq : Nat
  pos : Nat
  index : Nat
  values : List (BitVec 32)
  deriving DecidableEq, Repr

/-- What the engines deliver to the sampler for one request of the running step (R275): the main model's logits at its
k + 1 positions and the draft model's logits at its passes (FP32 encodings, index = token id). While both keep regions run a
step (R368), a second entry of the same request is what the other region delivered. -/
structure Logits where
  table : Nat
  slot : Nat
  main : List (List (BitVec 32))
  draft : List (List (BitVec 32))
  deriving DecidableEq, Repr

/-- What a step boundary brings with it: the logits of the ending step, the groups its engines quantised, the KV values
they wrote, the step's duration in µs, and for the coming step the scheduler's predictions (R143, R144): of the work at the
present stage and at the next lower one in µs, and of one prompt token in ns. -/
structure StepInput where
  logits : List Logits
  groups : List GroupInput
  kv : List KvGroup
  duration : Nat
  predicted : Nat
  predictedLower : Nat
  tokenCost : Nat
  deriving DecidableEq, Repr

/-- The three ports that share the link layer of R337. -/
inductive Port where
  | pair | parcelIn | parcelOut
  deriving DecidableEq, Repr

/-- What the partner tells in link training and handshake (R338, R341, R342, R354); `activeGen` is the id of its ACTIVE generation, 0
without one. -/
structure Partner where
  samePort : Bool
  isA1 : Bool
  role : Bool
  fwVersion : BitVec 32
  split : Bool
  gens : List (BitVec 16 × BitVec 512)
  kvFormat : Nat
  serial : BitVec 24
  state : Fin 4
  step : Nat
  activeGen : BitVec 16
  deriving DecidableEq, Repr

/-- One 16-byte record of a step's commit list (R343). -/
structure CommitRecord where
  table : Nat
  slot : Nat
  pos : Nat
  token : Nat
  step : Nat
  deriving DecidableEq, Repr

/-- What the partner reports with a commit hash (R142, R342): the recipe flags its firmware has popped since its last message (step the
change takes effect in, slot, layer), the slots of the plan (table, slot) that differ on it, the id of its ACTIVE generation. -/
structure PartnerReport where
  flags : List (Nat × Fin 4 × Nat)
  differ : List (Fin 5 × Fin 4096)
  activeGen : BitVec 16
  deriving DecidableEq, Repr

/-- The primary's plan of a step for the secondary (R342): the step, the slots to take in with their body digests, the
depth and chunk of each running slot, and the recipe changes (slot, layer, wide). -/
structure Plan where
  step : Nat
  named : List (Nat × Nat × BitVec 64)
  depths : List (Nat × Nat × Nat)
  chunks : List (Nat × Nat × Nat)
  recipes : List (Nat × Nat × Bool)
  activeGen : BitVec 16
  deriving DecidableEq, Repr

/-- HBM areas, numbered as MEM_ECC_UE_s.area numbers them (R396). -/
inductive HbmArea where
  | hdm | master | placement | keep | factors | costumes | histories | saves | step | firmware | kvPool
  deriving DecidableEq, Repr

/-- Where an uncorrectable HBM line lies and what it holds: the area; the object it belongs to (a byte offset in the
HDM range, a chunk of slot `unit`, a sequence id); whether the doubled area's other copy is lost as well; whether a bank
repair resource is left (R382, R383). -/
structure HbmHit where
  stack : Fin 12
  line : BitVec 34
  row : Nat
  area : HbmArea
  unit : Nat
  index : Nat
  bothCopies : Bool
  repairLeft : Bool
  deriving DecidableEq, Repr

/-- The areas of the address map that a memory access names (R19): the HDM range, the tile save areas, scratch, host memory. -/
inductive MemArea where
  | hdm | saves | scratch | hostMemory
  deriving DecidableEq, Repr

/-- An access of a master to one 64-byte line of an area (R19, R121, R410): a host access to the HDM range is one over CXL.mem. `data`
lists 64 bytes, absent where a byte enable is off; a read lists nothing. `poison` marks a poisoned write (R419). -/
structure MemAccess where
  who : Master
  area : MemArea
  line : Nat
  write : Bool
  data : List (Option Byte)
  poison : Bool
  deriving DecidableEq, Repr

/-- The configuration-space fields that act on the part (R403, R414): Bus Master Enable, the device state D3hot, ASPM L1 enabled in Link
Control. -/
structure PciConfig where
  bme : Bool
  d3hot : Bool
  aspmL1 : Bool
  deriving DecidableEq, Repr

/-- The tamper triggers of R526. -/
inductive TamperSource where
  | pin | volt | clock | temp | mesh
  deriving DecidableEq, Repr

/-- Why the part wakes (R488), in the codes of PWR_STATE.cause (R492). -/
inductive WakeCause where
  | postedSlot | memAccess | registerWrite | powerFloor | thermal | linkTraining
  deriving DecidableEq, Repr

/-- The kinds of pass of R177, in the order calibration slots serve them: immediate recalibration in the present band and its look-ahead
upward (R180), a scheduled or requested pass, a look-ahead. -/
inductive PassKind where
  | immediate | aheadNow | scheduled | lookAhead
  deriving DecidableEq, Repr

/-- What a Rattle test or qualification found (R312). -/
inductive RattleFinding where
  | clean
  | repaired (columns : List (Fin 1312 × Fin 512 × Fin 32)) (blocks : List (Fin 1312))
  | engine
  | otherFault
  deriving DecidableEq, Repr

/-- An upset of one copy of one hardened word (R319): word index, copy, the bits flipped. -/
structure Upset where
  word : Nat
  copy : Fin 3
  flips : Word
  deriving DecidableEq, Repr

/-- A KV group as the partner sends it (R346): position, group, element codes, scale byte. -/
structure MirrorRow where
  pos : Nat
  index : Nat
  elems : List Nat
  scale : Nat
  deriving DecidableEq, Repr

/-- A provisional result from the partner (R321, R346): the step, the sequence with its context and generation, token-history entries and
KV rows of the positions the step wrote. -/
structure Provisional where
  step : Nat
  seq : Nat
  ctx : Nat
  gen : BitVec 16
  tokens : List Nat
  rows : List MirrorRow
  deriving DecidableEq, Repr

/-- The commands. Each constructor is the row of spec/opcode_table.json that LAWS.json names. -/
inductive Instr where
  | stepBoundary (inp : StepInput)
  | commit
  | mvmCommand (c : MvmCmd)
  | calibrationSlot (region : Fin 52) (block : Fin 1312)
  | blockMessage (region : Fin 52) (block : Fin 1312) (parityError : Bool)
  | debugArm (region : Fin 52) (w : Write)
  | debugCancel (region : Fin 52) (w : Write)
  | debugDataRead (who : Master) (region : Fin 52) (half : Half)
  | tileClear (region : Fin 52) (tile : Fin 64) (ctx : Fin 4096) (shape : Fin 4) (bp : Fin 64) (kind : Kind) (layer : BitVec 16) (gen : BitVec 16)
  | tileRestore (region : Fin 52) (tile : Fin 64) (ctx : Fin 4096) (image : Nat)
  | tileSave (region : Fin 52) (tile : Fin 64) (ctx : Fin 4096) (image : Nat)
  | tileRelease (region : Fin 52) (tile : Fin 64) (ctx : Fin 4096)
  | tileReadOut (region : Fin 52) (tile : Fin 64) (ctx : Fin 4096) (format : Fin 16) (scales : List (BitVec 32)) (tensor : Nat) (group : Nat)
  | tileAdd (region : Fin 52) (tile : Fin 64) (ctx : Fin 4096) (srcRegion : Fin 52) (srcTile : Fin 64)
  | reduceOperation (region : Fin 52) (tile : Fin 64) (ctx : Fin 4096) (srcRegion : Fin 52) (srcTile : Fin 64)
  | elementWrite (region : Fin 52) (tile : Fin 64) (ctx : Fin 4096) (elems : List (Nat × Int))
  | costumeAddition (region : Fin 52) (tile : Fin 64) (ctx : Fin 4096) (version : Nat) (tensor : Nat) (col : Nat) (row0 : Nat) (chan0 : Nat) (channels : Nat) (x : List (BitVec 16))
  | accumulateDrained (region : Fin 52) (tile : Fin 64) (lane : List LaneInput)
  | sequencedModeEnd (region : Fin 52) (gen : BitVec 16) (layer : BitVec 16)
  | recipeWindowEval (region : Fin 52)
  | recipeFlagPop (region : Fin 52) (w : Write)
  | recipeRevert (slot : Fin 4) (layer : Nat)
  | zeroCntRead (who : Master) (region : Fin 52) (half : Half)
  | stageReturn
  | conversionResult (raw : Int) (outOfRange : Bool)
  | selfCalibration (w : Write)
  | selfCalComplete (zero : Int) (full : Int) (ground : Int)
  | scanRestart (w : Write)
  | refbufEnable (w : Write)
  | refbufSettled
  | fifoFlush (w : Write)
  | fifoRead (who : Master) (half : Half)
  | referenceCheck
  | recalPassStart (region : Fin 52) (block : Fin 1312)
  | recalPassComplete (region : Fin 52) (block : Fin 1312)
  | passRequest (w : Write)
  | deepPassComplete (region : Fin 52)
  | driftAgeLimit (region : Fin 52) (block : Fin 1312) (array : Fin 512)
  | rewriteComplete (region : Fin 52) (block : Fin 1312)
  | sweepComplete (region : Fin 52) (block : Fin 1312) (ms : Nat)
  | warmupEnd (region : Fin 52) (block : Fin 1312)
  | abacusVectorSet (region : Fin 52) (block : Fin 1312)
  | shadowComparison (region : Fin 52) (engineDev : List Int)
  | suspectWindowEnd (region : Fin 52) (unit : Option (Fin 1312))
  | engineTestEnd (region : Fin 52) (passed : Bool)
  | rattleTestStart
  | rattleTestEnd (finding : RattleFinding)
  | rattleRequest (region : Fin 52) (w : Write)
  | regionResetRequest (region : Fin 52) (w : Write)
  | sramEccError (region : Fin 52) (uncorrectable : Bool)
  | regionResetComplete (region : Fin 52)
  | spareQualified (spare : Fin 52) (passed : Bool) (failing : List (Fin 1312))
  | configScrub (region : Fin 52) (upsets : List Upset)
  | provisionalResult (p : Provisional)
  | commitNotice (step : Nat)
  | retractionToken (step : Nat)
  | load (who : Master) (slot : Fin 4) (activate : Bool) (dispEn : Bool) (dispSlot : Fin 4) (deadline : BitVec 16)
  | retire (who : Master) (slot : Fin 4) (deadline : BitVec 16)
  | unload (who : Master) (slot : Fin 4)
  | abort (who : Master) (slot : Fin 4)
  | reload (who : Master) (slot : Fin 4)
  | manifestFetched (header : List Byte) (manifest : List Byte) (pageBytes : Nat)
  | chunkFetched (index : Nat) (bytes : Option (List Byte))
  | blockProgramStart (region : Fin 52) (block : Fin 1312)
  | rowProgrammed (region : Fin 52) (block : Fin 1312) (array : Fin 512) (row : Fin 32) (excluded : BitVec 32)
  | blockProgramComplete (region : Fin 52) (block : Fin 1312)
  | wldActiveWrite (w : Write)
  | drainDeadline (slot : Fin 4)
  | parcelManifestFrame (frame : List Byte) (pageBytes : Nat)
  | parcelChunkFrame (frame : List Byte)
  | parcelReRequest (frame : List Byte)
  | parcelCompletion (frame : List Byte) (lastHop : Nat)
  | costumeInstall (w : Write)
  | costumeInstallComplete
  | costumeRemove (w : Write)
  | scan
  | opRun (table : Fin 5) (slot : Fin 4096)
  | opPause (table : Fin 5) (slot : Fin 4096)
  | opRelease (table : Fin 5) (slot : Fin 4096)
  | toyboxCopyComplete (seq : BitVec 16)
  | toyboxFetchComplete (seq : BitVec 16)
  | ttlExpiry (seq : BitVec 16)
  | specPauseEnd (table : Fin 5) (slot : Fin 4096)
  | linkTrained (port : Port) (lanes : Nat) (partner : Partner)
  | laneRetrain (port : Port) (trains : Bool)
  | flitRetry (port : Port) (uncorrectable : Bool)
  | pairLinkTimeout
  | stepPlan (plan : Plan)
  | commitHash (step : Nat) (hash : BitVec 64) (report : PartnerReport)
  | recordList (step : Nat) (records : List CommitRecord) (evidence : Bool)
  | leavingNotice
  | pairLeave (w : Write)
  | pairRejoin (w : Write) (partner : Option Partner)
  | rejoinCopyComplete (received : List Provisional)
  | enterTinSoldier (who : Master) (key : BitVec 16)
  | leaveTinSoldier (who : Master) (key : BitVec 16)
  | tempCauseClear
  | tinMasterCopyComplete
  | halt (who : Master) (key : BitVec 16)
  | warmResetCommand (who : Master) (key : BitVec 16)
  | hbmTraining (stack : Fin 12) (rate : Option (Fin 3))
  | hbmCorrected (stack : Fin 12) (line : BitVec 34) (row : Nat) (repairLeft : Bool) (inPool : Bool)
  | hbmUncorrectable (hit : HbmHit)
  | patrolScrub (stack : Fin 12) (line : BitVec 34) (row : Nat) (corrected : Bool) (repairLeft : Bool) (inPool : Bool)
  | refreshFall (stack : Fin 12)
  | scratchWrite (who : Master) (addr : Fin 134217728) (data : List (Option Byte)) (poison : Bool)
  | bitSetAliasWrite (who : Master) (addr : Fin 134217728) (data : List (Option Byte))
  | bitClearAliasWrite (who : Master) (addr : Fin 134217728) (data : List (Option Byte))
  | scratchEccError (word : Fin 16777216) (double : Bool) (storm : Bool)
  | scratchScrub (single : List (Fin 16777216)) (double : List (Fin 16777216)) (storm : Bool)
  | wipeComplete (tenNs : BitVec 16)
  | cxlLinkTrained (width : Fin 17) (speed : Fin 33)
  | linkDown
  | hotReset
  | perstNAssert
  | busMasterEnableChange (c : PciConfig)
  | loadPauseTimeout
  | cxlMemAccess (a : MemAccess)
  | hdmDecoderCommit (decoder : Fin 2) (base : Nat) (size : Nat) (ways : Nat) (skip : Nat) (lock : Bool)
  | barAccessAbort (bar2 : Bool) (offset : BitVec 32) (size : Nat) (write : Bool) (who : Master)
  | getInfo (who : Master) (inLen : Nat)
  | recipeSet (who : Master) (inLen : Nat)
  | nvmUpdateBegin (who : Master) (inLen : Nat)
  | nvmUpdateData (who : Master) (inLen : Nat) (nvmError : Bool)
  | nvmUpdateEnd (who : Master) (inLen : Nat) (nvmError : Bool) (pageBytes : Nat)
  | recovImageBegin (who : Master) (inLen : Nat)
  | recovImageData (who : Master) (inLen : Nat)
  | recovImageRun (who : Master) (inLen : Nat)
  | recovFetch (w : Write) (image : Option (List Byte))
  | icuClaim (who : Master) (target : Fin 5)
  | icuComplete (who : Master) (target : Fin 5) (half : Half) (data : Word)
  | icuPendSet (who : Master) (word : Fin 4) (half : Half) (data : Word)
  | icuClearPending (who : Master) (word : Fin 4) (half : Half) (data : Word)
  | icuSrcCfgWrite (n : Fin 256) (w : Write)
  | sourceInputChange (n : Fin 256)
  | eventReport (r : Option Report)
  | eventDrain (writeFails : Bool)
  | ringStart (w : Write)
  | evtTailWrite (w : Write)
  | pllLockLoss
  | pllRelock (micros : BitVec 16)
  | relockTimeout
  | throttleStepUp
  | throttleStepDown
  | sensorStale (n : Fin 53)
  | sensorSuspect (n : Fin 53)
  | sensorCleared (n : Fin 53)
  | thermalTrip (n : Fin 53)
  | ps4WakeComparator (n : Fin 53)
  | scheduledWake
  | wakeEvent (cause : WakeCause)
  | dueTime (ctx : Fin 4096)
  | dueWindowClose
  | supplyOutOfRange (rail : Fin 8)
  | supplyInRange
  | por
  | warmReset
  | calEnd
  | lcsRequest (w : Write)
  | lcsCommit (fuseReadsBack : Bool)
  | tamper (source : TamperSource)
  | meshCheck (passed : Bool)
  | attestationRequest (w : Write)
  | attestReportWritten (signature : List Byte)
  | smbusBlockRead (code : BitVec 8)
  | registerWrite (offset : BitVec 26) (w : Write) (poison : Bool)
  | porNAssert
  | warmResetRelease
  | watchdogExpiry (pair : Fin 2)
  | chunkReverified (slot : Fin 4) (index : Nat)
  | stackTemperatureCrossing (stack : Fin 12) (celsius : Int)
  deriving DecidableEq, Repr

end Sys2Proof
end

