-- ==== Sys2Proof/Decode.lean ====
section
/-! DEFINITION. Decoding. The rows of spec/opcode_table.json give their commands no bits, so no word spells a command. -/

namespace Sys2Proof

/-- The command that a word spells by the table's bits: no row of the table has bits. -/
def decodeTableWord (_nbits _w : Nat) : Option Instr := none

end Sys2Proof
end

