-- ==== Sys2Proof/Machine/Formats.lean ====
section
/-! DEFINITION. The number formats and their conversions (03_formats.md R52 to R74). Real values are exact fractions of
naturals with a sign; every rounding is one division to nearest, ties to even (R72). -/

namespace Sys2Proof.Machine

/-- A value of a floating-point format: not a number, an infinity, or a signed fraction (denominator not 0). -/
inductive Fp where
  | nan
  | inf (neg : Bool)
  | fin (neg : Bool) (num den : Nat)
  deriving DecidableEq, Repr

/-- How a format spends its highest exponent (R64): infinities and NaN, one NaN code, or neither. -/
inductive TopCodes where
  | ieee | oneNan | none
  deriving DecidableEq, Repr

/-- The layout of a floating-point format (R63, R64). -/
structure FFmt where
  expBits : Nat
  manBits : Nat
  bias : Nat
  top : TopCodes
  deriving DecidableEq, Repr

/-- E4M3 (R63). -/
def fmtE4M3 : FFmt := ⟨4, 3, 7, .oneNan⟩
/-- E5M2 (R63). -/
def fmtE5M2 : FFmt := ⟨5, 2, 15, .ieee⟩
/-- FP16 (R63). -/
def fmtFP16 : FFmt := ⟨5, 10, 15, .ieee⟩
/-- BF16 (R63). -/
def fmtBF16 : FFmt := ⟨8, 7, 127, .ieee⟩
/-- FP32 (R63). -/
def fmtFP32 : FFmt := ⟨8, 23, 127, .ieee⟩
/-- FP64 (R63). -/
def fmtFP64 : FFmt := ⟨11, 52, 1023, .ieee⟩
/-- E2M1, the MXFP4 element (R63). -/
def fmtE2M1 : FFmt := ⟨2, 1, 1, .none⟩

/-- A fraction times 2^k. -/
def scaleFrac (num den : Nat) (k : Int) : Nat × Nat :=
  if 0 ≤ k then (num * 2 ^ k.toNat, den) else (num, den * 2 ^ (-k).toNat)

/-- A value times 2^k. -/
def Fp.scale (v : Fp) (k : Int) : Fp :=
  match v with
  | .fin s n d => let p := scaleFrac n d k; .fin s p.1 p.2
  | v => v

/-- Division to the nearest natural, ties to even (R72). -/
def rneDiv (n d : Nat) : Nat :=
  let q := n / d
  let r := n % d
  if 2 * r < d then q else if d < 2 * r then q + 1 else q + q % 2

/-- floor(log2(num / den)) of a positive fraction. -/
def floorLog2 (num den : Nat) : Int :=
  let e : Int := (Nat.log2 num : Int) - (Nat.log2 den : Int)
  let p := scaleFrac num den (-e)
  if p.2 ≤ p.1 then e else e - 1

/-- The number of the largest finite magnitude's code (R64). -/
def FFmt.maxCode (f : FFmt) : Nat :=
  match f.top with
  | .ieee => (2 ^ f.expBits - 1) * 2 ^ f.manBits - 1
  | .oneNan => 2 ^ (f.expBits + f.manBits) - 2
  | .none => 2 ^ (f.expBits + f.manBits) - 1

/-- The sign bit of a format. -/
def FFmt.signBit (f : FFmt) : Nat := 2 ^ (f.expBits + f.manBits)

/-- The canonical NaN (R65); a format without NaN has none and gives zero. -/
def FFmt.canonNan (f : FFmt) : Nat :=
  match f.top with
  | .ieee => (2 ^ f.expBits - 1) * 2 ^ f.manBits + 2 ^ (f.manBits - 1)
  | .oneNan => 2 ^ (f.expBits + f.manBits) - 1
  | .none => 0

/-- The value an encoding stands for (R63, R64). -/
def FFmt.decode (f : FFmt) (code : Nat) : Fp :=
  let mag := code % f.signBit
  let neg := code / f.signBit % 2 == 1
  let ex := mag / 2 ^ f.manBits
  let ma := mag % 2 ^ f.manBits
  if f.maxCode < mag then (if f.top = .ieee ∧ ma = 0 then .inf neg else .nan)
  else if ex = 0 then (Fp.fin neg ma 1).scale (1 - (f.bias : Int) - f.manBits)
  else (Fp.fin neg (2 ^ f.manBits + ma) 1).scale ((ex : Int) - f.bias - f.manBits)

/-- The code of a magnitude rounded once to nearest, ties to even; beyond `maxCode` where it overflows (R72). -/
def FFmt.roundMag (f : FFmt) (num den : Nat) : Nat :=
  if num = 0 then 0
  else
    let emin : Int := 1 - (f.bias : Int)
    let ex := max (floorLog2 num den) emin
    let p := scaleFrac num den (f.manBits - ex)
    (ex - emin).toNat * 2 ^ f.manBits + rneDiv p.1 p.2

/-- What a magnitude beyond the largest finite value becomes (R74): an infinity for the IEEE formats, the largest finite
value for E4M3, E5M2 and E2M1. -/
def FFmt.overflow (f : FFmt) : Nat :=
  if f.top = .ieee ∧ f.expBits + f.manBits ≠ 7 then (2 ^ f.expBits - 1) * 2 ^ f.manBits else f.maxCode

/-- What an infinity becomes (R74): E5M2 keeps it, E4M3 and E2M1 saturate. -/
def FFmt.infCode (f : FFmt) : Nat :=
  if f.top = .ieee then (2 ^ f.expBits - 1) * 2 ^ f.manBits else f.maxCode

/-- A value encoded with one rounding (R72, R74); the sign of zero is kept (R65). -/
def FFmt.encode (f : FFmt) (v : Fp) : Nat :=
  match v with
  | .nan => f.canonNan
  | .inf neg => f.infCode + neg.toNat * f.signBit
  | .fin neg num den =>
    let c := f.roundMag num den
    (if f.maxCode < c then f.overflow else c) + neg.toNat * f.signBit

/-- A value rounded to the nearest integer, ties to even; not finite: none. -/
def Fp.toInt (v : Fp) : Option Int :=
  match v with
  | .fin neg n d => some (if neg then -(rneDiv n d : Int) else (rneDiv n d : Int))
  | _ => none

/-- An integer times 2^k as a value. -/
def Fp.ofInt (z : Int) (k : Int) : Fp := (Fp.fin (decide (z < 0)) z.natAbs 1).scale k

/-! ## INT32 -/

/-- A value converted to INT32 (R74). -/
def toInt32 (v : Fp) : Int :=
  match v with
  | .nan => 0
  | .inf true => -2 ^ 31
  | .inf false => 2 ^ 31 - 1
  | v => max (-2 ^ 31) (min ((v.toInt).getD 0) (2 ^ 31 - 1))

/-! ## FP32 arithmetic -/

/-- The value of an FP32 encoding. -/
def f32 (x : BitVec 32) : Fp := fmtFP32.decode x.toNat

/-- A value rounded to FP32. -/
def toF32 (v : Fp) : BitVec 32 := BitVec.ofNat 32 (fmtFP32.encode v)

/-- A finite value as a signed numerator over its denominator. -/
def Fp.snum : Fp → Int
  | .fin true n _ => -(n : Int)
  | .fin false n _ => n
  | _ => 0

/-- The denominator of a finite value. -/
def Fp.sden : Fp → Nat
  | .fin _ _ d => d
  | _ => 1

/-- The sum of two values; opposite infinities give NaN, an exact zero of unlike signs is positive. -/
def Fp.add (a b : Fp) : Fp :=
  match a, b with
  | .nan, _ => .nan
  | _, .nan => .nan
  | .inf s, .inf t => if s = t then .inf s else .nan
  | .inf s, _ => .inf s
  | _, .inf t => .inf t
  | .fin s n d, .fin t m e =>
    let z := (Fp.fin s n d).snum * e + (Fp.fin t m e).snum * d
    if z = 0 then .fin (s && t) 0 1 else .fin (decide (z < 0)) z.natAbs (d * e)

/-- The product of two values. -/
def Fp.mul (a b : Fp) : Fp :=
  match a, b with
  | .nan, _ => .nan
  | _, .nan => .nan
  | .inf s, .inf t => .inf (s != t)
  | .inf s, .fin t m _ => if m = 0 then .nan else .inf (s != t)
  | .fin s n _, .inf t => if n = 0 then .nan else .inf (s != t)
  | .fin s n d, .fin t m e => .fin (s != t) (n * m) (d * e)

/-- The quotient of two values. -/
def Fp.div (a b : Fp) : Fp :=
  match a, b with
  | .nan, _ => .nan
  | _, .nan => .nan
  | .inf _, .inf _ => .nan
  | .inf s, .fin t _ _ => .inf (s != t)
  | .fin s _ _, .inf t => .fin (s != t) 0 1
  | .fin s n d, .fin t m e =>
    if m = 0 then (if n = 0 then .nan else .inf (s != t)) else .fin (s != t) (n * e) (d * m)

/-- The opposite value. -/
def Fp.neg : Fp → Fp
  | .nan => .nan
  | .inf s => .inf !s
  | .fin s n d => .fin (!s) n d

/-- Strict order of values; false where one is NaN. -/
def Fp.lt (a b : Fp) : Bool :=
  match a, b with
  | .nan, _ => false
  | _, .nan => false
  | .inf s, .inf t => s && !t
  | .inf s, _ => s
  | _, .inf t => !t
  | .fin s n d, .fin t m e => decide ((Fp.fin s n d).snum * e < (Fp.fin t m e).snum * d)

/-- Equality of values (zeros of both signs are equal); false where one is NaN. -/
def Fp.eq (a b : Fp) : Bool :=
  match a, b with
  | .nan, _ => false
  | _, .nan => false
  | a, b => !a.lt b && !b.lt a

/-- Less or equal; false where one is NaN. -/
def Fp.le (a b : Fp) : Bool := a.lt b || a.eq b

/-- Whether a value is NaN. -/
def Fp.isNan : Fp → Bool
  | .nan => true
  | _ => false

/-- Whether a value is finite. -/
def Fp.isFin : Fp → Bool
  | .fin _ _ _ => true
  | _ => false

/-- FP32 addition, rounded to nearest even. -/
def f32add (a b : BitVec 32) : BitVec 32 := toF32 ((f32 a).add (f32 b))
/-- FP32 subtraction, rounded to nearest even. -/
def f32sub (a b : BitVec 32) : BitVec 32 := toF32 ((f32 a).add (f32 b).neg)
/-- FP32 multiplication, rounded to nearest even. -/
def f32mul (a b : BitVec 32) : BitVec 32 := toF32 ((f32 a).mul (f32 b))
/-- FP32 division, rounded to nearest even. -/
def f32div (a b : BitVec 32) : BitVec 32 := toF32 ((f32 a).div (f32 b))
/-- FP32 order. -/
def f32lt (a b : BitVec 32) : Bool := (f32 a).lt (f32 b)

/-! ## ACC48 -/

/-- The largest magnitude of an ACC48 element (R69, R70). -/
def accMax : Int := 2 ^ 47 - 1

/-- Clamping into ACC48; the flag says that the result was clamped (R70). -/
def accClamp (z : Int) : Int × Bool :=
  if accMax < z then (accMax, true) else if z < -accMax then (-accMax, true) else (z, false)

/-- What conversion into ACC48 gives (R71): the element, whether the tile's saturation flag is set, whether the addend
was NaN. -/
structure AccAdd where
  value : Int
  sat : Bool
  nan : Bool
  deriving DecidableEq, Repr

/-- A value converted into a tile with binary point `bp` (R71). -/
def toAcc (bp : Nat) (v : Fp) : AccAdd :=
  match v with
  | .nan => ⟨0, true, true⟩
  | .inf neg => ⟨if neg then -accMax else accMax, true, false⟩
  | v =>
    let c := accClamp (((v.scale bp).toInt).getD 0)
    ⟨c.1, c.2, false⟩

/-- The value of an ACC48 element under binary point `bp`. -/
def accVal (bp : Nat) (n : Int) : Fp := Fp.ofInt n (-(bp : Int))

/-- An ACC48 element as a 64-bit word, bits [63:48] equal to bit 47 (R69). -/
def accWord (n : Int) : Word := BitVec.ofInt 64 n

/-- The low `k` bits of a number in two's complement. -/
def signed (k : Nat) (n : Nat) : Int :=
  let m := n % 2 ^ k
  if m < 2 ^ (k - 1) then m else (m : Int) - 2 ^ k

/-- A 64-bit word loaded as an ACC48 element: bits [47:0], −2⁴⁷ taken as the lower limit with the flag (R69). -/
def accLoad (w : Word) : Int × Bool :=
  let n := signed 48 w.toNat
  if n = -2 ^ 47 then (-accMax, true) else (n, false)

/-! ## A8 and A4 -/

/-- The largest magnitude the quantiser produces (R60). -/
def qmax (a8 : Bool) : Nat := if a8 then 127 else 7

/-- The constant b of R61. -/
def qexp (a8 : Bool) : Int := if a8 then 6 else 2

/-- A scale byte's exponent X (R59): 0xFF is treated as 0x00 in A8 and A4. -/
def scaleExp (e : Nat) : Int := (if e = 255 then 0 else (e : Int)) - 127

/-- The larger of two magnitudes (numerator and denominator). -/
def magMax (a b : Nat × Nat) : Nat × Nat := if a.1 * b.2 < b.1 * a.2 then b else a

/-- The largest finite magnitude of the values not marked as outliers; zero where there is none (R61). -/
def groupMax : List (Fp × Bool) → Nat × Nat
  | [] => (0, 1)
  | (.fin _ n d, false) :: t => magMax (n, d) (groupMax t)
  | _ :: t => groupMax t

/-- The exponent of a dynamic scale (R61). -/
def dynExp (a8 : Bool) (m : Nat × Nat) : Int :=
  if m.1 = 0 then -127
  else
    let x := floorLog2 m.1 m.2 - qexp a8
    let p := scaleFrac m.1 m.2 (-x)
    let x := if (2 * qmax a8 + 1) * p.2 ≤ 2 * p.1 then x + 1 else x
    max (-127) (min x 127)

/-- One element quantised under exponent X: the code and whether it counts as saturated (R61, R74). -/
def quantOne (a8 : Bool) (x : Int) (v : Fp × Bool) : Int × Bool :=
  let q : Int := qmax a8
  match v with
  | (_, true) => (0, false)
  | (.nan, _) => (0, false)
  | (.inf neg, _) => (if neg then -q else q, true)
  | (.fin s n d, _) =>
    let z := (((Fp.fin s n d).scale (-x)).toInt).getD 0
    (max (-q) (min z q), decide (q < z) || decide (z < -q))

/-- A quantised scale group: codes, exponent X, saturated elements, whether a NaN was met (R61, R62). -/
structure Quant where
  codes : List Int
  exp : Int
  sat : Nat
  nan : Bool
  deriving DecidableEq, Repr

/-- One scale group quantised (R61): `static` is the recipe's scale byte, if the scale is static. -/
def quantise (a8 : Bool) (static : Option Nat) (vs : List (Fp × Bool)) : Quant :=
  let x := match static with
    | some e => scaleExp e
    | none => dynExp a8 (groupMax vs)
  let qs := vs.map (quantOne a8 x)
  ⟨qs.map Prod.fst, x, (qs.filter Prod.snd).length, vs.any fun v => v.1.isNan && !v.2⟩

/-- How one group counts (R128, R129): all-zero, all-saturating. -/
def classify (vs : List (Fp × Bool)) (q : Quant) : Bool × Bool :=
  let own := (List.zip vs q.codes).filter fun e => !e.1.2 && !e.1.1.isNan
  let some0 := own.any fun e => !(e.1.1.eq (.fin false 0 1))
  (!own.isEmpty && some0 && own.all (fun e => e.2 == 0), !own.isEmpty && q.sat == own.length)

/-! ## MXFP4 -/

/-- An encoded MXFP4 group: the 4-bit elements and the scale byte (R66). -/
structure MxGroup where
  elems : List Nat
  scale : Nat
  deriving DecidableEq, Repr

/-- One group encoded into MXFP4 (R66). -/
def mxEncode (vs : List Fp) : MxGroup :=
  if vs.any fun v => !v.isFin then ⟨vs.map fun _ => 0, 255⟩
  else
    let m := groupMax (vs.map fun v => (v, false))
    let x : Int := if m.1 = 0 then -127 else max (-127) (min (floorLog2 m.1 m.2 - 2) 127)
    ⟨vs.map fun v => fmtE2M1.encode (v.scale (-x)), (x + 127).toNat⟩

/-- One MXFP4 element decoded (R67): a NaN group decodes as NaN. -/
def mxValue (scale elem : Nat) : Fp :=
  if scale = 255 then .nan else (fmtE2M1.decode elem).scale ((scale : Int) - 127)

/-- A group of 32 KV values as a page stores it (R251): E4M3 codes with no scale byte, or an MXFP4 group. -/
def kvEncode (mx : Bool) (vs : List Fp) : MxGroup :=
  if mx then mxEncode vs else ⟨vs.map fmtE4M3.encode, 0⟩

/-! ## The table of formats and the conversions between them (R52, R73) -/

/-- A row of R52: the code, the stored width in bits, whether 32 elements share a scale byte. -/
structure FormatRow where
  code : Nat
  bits : Nat
  scaled : Bool
  deriving DecidableEq, Repr

/-- The fourteen formats with a code (R52); 0xF is reserved. An ACC48 element is stored in a 64-bit word. -/
def formatTable : List FormatRow :=
  [⟨0x0, 2, false⟩, ⟨0x1, 2, false⟩, ⟨0x2, 4, false⟩, ⟨0x3, 8, false⟩, ⟨0x4, 8, true⟩, ⟨0x5, 4, true⟩, ⟨0x6, 8, false⟩,
   ⟨0x7, 8, false⟩, ⟨0x8, 16, false⟩, ⟨0x9, 16, false⟩, ⟨0xA, 32, false⟩, ⟨0xB, 64, false⟩, ⟨0xC, 64, false⟩,
   ⟨0xD, 4, true⟩, ⟨0xE, 32, false⟩]

/-- The row of a code; absent for the reserved code (R53). -/
def formatRow (code : Nat) : Option FormatRow := formatTable.find? fun r => r.code == code

/-- Bits an element takes in a format (R52); none for the reserved code. -/
def storedBits (code : Nat) : Nat := match formatRow code with | some r => r.bits | none => 0

/-- Bytes of an unscaled element of at least eight bits. -/
def formatBytes (code : Nat) : Nat := storedBits code / 8

/-- Elements share scale bytes in this format (R56). -/
def isScaled (code : Nat) : Bool := match formatRow code with | some r => r.scaled | none => false

/-- Elements of a tensor as stored: a scaled one is padded to whole groups (R56). -/
def paddedCount (code n : Nat) : Nat := if isScaled code then (n + 31) / 32 * 32 else n

/-- Bytes of the element array of `n` elements (R55, R56). -/
def elemBytes (code n : Nat) : Nat := (paddedCount code n * storedBits code + 7) / 8

/-- Bytes of a stored tensor of `n` elements: the element array, then the scale array of a scaled format (R55, R56). -/
def tensorBytes (code n : Nat) : Nat := elemBytes code n + (if isScaled code then paddedCount code n / 32 else 0)

/-- Codes of `bits` = 2, 4 or 8 bits packed into bytes, the lowest element in the lowest bits; a byte that is not full is
padded with zero bits (R55). -/
def packBits (bits : Nat) (codes : List Nat) : List Byte :=
  let per := 8 / bits
  (List.range ((codes.length + per - 1) / per)).map fun i =>
    BitVec.ofNat 8 ((List.range per).foldl (fun a m => a + codes.getD (per * i + m) 0 % 2 ^ bits * 2 ^ (bits * m)) 0)

/-- Element `i` of packed codes of `bits` bits (R55). -/
def packedAt (bits : Nat) (bytes : List Byte) (i : Nat) : Nat :=
  (bytes.getD (i * bits / 8) 0).toNat / 2 ^ (i * bits % 8) % 2 ^ bits

/-- The element array followed by the scale array (R56). -/
def scaledBytes (bits : Nat) (codes scales : List Nat) : List Byte :=
  packBits bits codes ++ scales.map fun e => BitVec.ofNat 8 e

/-- The value of an element: its format, its code, its group's scale byte (scaled formats), its tile's binary point (ACC48). -/
def elemValue (fmt code scale bp : Nat) : Fp :=
  match fmt with
  | 0x0 => Fp.ofInt (signed 2 code) 0
  | 0x1 => Fp.ofInt (signed 2 code) 0
  | 0x2 => Fp.ofInt (signed 4 code) 0
  | 0x3 => Fp.ofInt (signed 8 code) 0
  | 0x4 => Fp.ofInt (signed 8 code) (scaleExp scale)
  | 0x5 => Fp.ofInt (signed 4 code) (scaleExp scale)
  | 0x6 => fmtE4M3.decode code
  | 0x7 => fmtE5M2.decode code
  | 0x8 => fmtFP16.decode code
  | 0x9 => fmtBF16.decode code
  | 0xA => fmtFP32.decode code
  | 0xB => fmtFP64.decode code
  | 0xC => accVal bp (signed 48 code)
  | 0xD => mxValue scale code
  | 0xE => Fp.ofInt (signed 32 code) 0
  | _ => .nan

/-- The floating-point layout of a code (R63). -/
def floatOf (fmt : Nat) : Option FFmt :=
  match fmt with
  | 0x6 => some fmtE4M3
  | 0x7 => some fmtE5M2
  | 0x8 => some fmtFP16
  | 0x9 => some fmtBF16
  | 0xA => some fmtFP32
  | 0xB => some fmtFP64
  | _ => none

/-- A conversion that R73 lists: source and destination by code. -/
def converts (src dst : Nat) : Bool :=
  let fps := [0x8, 0x9, 0xA]
  let small := [0x6, 0x7, 0x8, 0x9, 0xA]
  (decide (src ≤ 3) && [0xE, 0x8, 0x9, 0xA, 0xB, 0xC].contains dst)
    || ([0x8, 0x9, 0xA, 0xC].contains src && (dst == 0x4 || dst == 0x5))
    || ((src == 0x4 || src == 0x5) && [0x8, 0x9, 0xA, 0xC].contains dst)
    || (fps.contains src && dst == 0xD) || (src == 0xD && fps.contains dst)
    || (small.contains src && small.contains dst && src != dst)
    || (src == 0xB && (dst == 0xA || dst == 0xE)) || ((src == 0xA || src == 0xE) && dst == 0xB)
    || (src == 0xC && [0x6, 0x8, 0x9, 0xA, 0xB, 0xE].contains dst)
    || ([0x8, 0x9, 0xA, 0xB].contains src && dst == 0xC)
    || (src == 0xE && dst == 0xA) || (fps.contains src && dst == 0xE)

/-- One value converted into an element of a format that has no shared scale: rounded once, overflow by R74; ACC48 by R71
under the tile's binary point. Absent where R73 lists no such conversion. -/
def convertElem (src dst bp : Nat) (v : Fp) : Option Nat :=
  if !converts src dst then none
  else match floatOf dst with
    | some f => some (f.encode v)
    | none =>
      if dst = 0xE then some (toInt32 v % 2 ^ 32).toNat
      else if dst = 0xC then some (accWord (toAcc bp v).value).toNat
      else none

/-- A group of 32 elements converted into a scaled format (R61, R66): codes and the scale byte. `static` is a static scale's byte,
`outliers` the marked channels. -/
def convertGroup (src dst : Nat) (static : Option Nat) (outliers : BitVec 32) (vs : List Fp) : Option MxGroup :=
  if !converts src dst then none
  else if dst = 0xD then some (mxEncode vs)
  else if dst = 0x4 ∨ dst = 0x5 then
    let q := quantise (dst == 0x4) static (vs.zipIdx.map fun v => (v.1, outliers.getLsbD v.2))
    some ⟨q.codes.map fun z => (z % 2 ^ storedBits dst).toNat, (q.exp + 127).toNat⟩
  else none

/-- The value an outlier channel carries to the lane: FP16 (R62). -/
def outlierFp16 (v : Fp) : BitVec 16 := BitVec.ofNat 16 (fmtFP16.encode v)

/-- The code of an accumulator element read out in format `fmt`; absent where R73 lists no conversion to an unscaled format. -/
def accTo (fmt : Nat) (v : Fp) : Option Nat := convertElem 0xC fmt 0 v

end Sys2Proof.Machine
end

