-- ==== Sys2Proof/Machine/Registers.lean ====
section
/-! DEFINITION. The register map (20_register_map.md R553, R554): every BAR0 register with its offset, its reset
value, what a warm reset does to it, and its fields with their access codes (R7) as the owning chapters lay them out.
A field's place is named REGISTER.field, as R6 names it. -/

namespace Sys2Proof.Machine

/-- The access codes of R7. -/
inductive Access where
  | ro | rov | rw | rwl | w1c | w1s | wo
  deriving DecidableEq, Repr

/-- What a warm reset does to a register (R553). -/
inductive WarmKind where
  | kept | reset | reloaded | rebuilt
  deriving DecidableEq, Repr

/-- One field of a register: name, lowest bit, width, access code. Bits no field names are reserved (R6). -/
structure FieldRow where
  name : String
  lo : Nat
  width : Nat
  acc : Access
  deriving DecidableEq, Repr

/-- One row of the register index: `count` registers from `base`, `stride` bytes apart. -/
structure RegRow where
  name : String
  base : Nat
  stride : Nat
  count : Nat
  por : Word
  warm : WarmKind
  fields : List FieldRow
  deriving DecidableEq, Repr

/-- A field's place: the register's BAR0 offset, the lowest bit, the width. -/
structure Fld where
  off : Nat
  lo : Nat
  w : Nat
  deriving DecidableEq, Repr

/-- GLB_ID: BAR0 offset. 20_register_map.md R546 -/
abbrev GLB_ID : Nat := 0x0
abbrev GLB_ID.vendor : Fld := ⟨GLB_ID, 0, 16⟩
abbrev GLB_ID.device : Fld := ⟨GLB_ID, 16, 16⟩
abbrev GLB_ID.rev : Fld := ⟨GLB_ID, 32, 8⟩
abbrev GLB_ID.serial : Fld := ⟨GLB_ID, 40, 24⟩
/-- GLB_CAPS: BAR0 offset. 20_register_map.md R547 -/
abbrev GLB_CAPS : Nat := 0x8
abbrev GLB_CAPS.regions : Fld := ⟨GLB_CAPS, 0, 8⟩
abbrev GLB_CAPS.service : Fld := ⟨GLB_CAPS, 8, 8⟩
abbrev GLB_CAPS.stacks : Fld := ⟨GLB_CAPS, 16, 4⟩
abbrev GLB_CAPS.stack_gb : Fld := ⟨GLB_CAPS, 20, 8⟩
abbrev GLB_CAPS.gen_slots : Fld := ⟨GLB_CAPS, 28, 3⟩
abbrev GLB_CAPS.pair : Fld := ⟨GLB_CAPS, 31, 1⟩
abbrev GLB_CAPS.parcel : Fld := ⟨GLB_CAPS, 32, 1⟩
abbrev GLB_CAPS.formats : Fld := ⟨GLB_CAPS, 33, 15⟩
abbrev GLB_CAPS.tables : Fld := ⟨GLB_CAPS, 48, 4⟩
/-- GLB_STATE: BAR0 offset. 20_register_map.md R548 -/
abbrev GLB_STATE : Nat := 0x10
abbrev GLB_STATE.state : Fld := ⟨GLB_STATE, 0, 3⟩
abbrev GLB_STATE.rom_runner : Fld := ⟨GLB_STATE, 3, 1⟩
abbrev GLB_STATE.tin_cause : Fld := ⟨GLB_STATE, 8, 6⟩
abbrev GLB_STATE.debug : Fld := ⟨GLB_STATE, 16, 1⟩
abbrev GLB_STATE.halt_cause : Fld := ⟨GLB_STATE, 17, 3⟩
abbrev GLB_STATE.changes : Fld := ⟨GLB_STATE, 32, 32⟩
/-- GLB_SUMMARY: BAR0 offset. 20_register_map.md R549 -/
abbrev GLB_SUMMARY : Nat := 0x18
abbrev GLB_SUMMARY.groups : Fld := ⟨GLB_SUMMARY, 0, 15⟩
/-- GLB_CMD: BAR0 offset. 20_register_map.md R550 -/
abbrev GLB_CMD : Nat := 0x20
abbrev GLB_CMD.cmd : Fld := ⟨GLB_CMD, 0, 4⟩
abbrev GLB_CMD.key : Fld := ⟨GLB_CMD, 8, 16⟩
abbrev GLB_CMD.status : Fld := ⟨GLB_CMD, 24, 8⟩
/-- GLB_SCRATCH: BAR0 offset. 20_register_map.md R552 -/
abbrev GLB_SCRATCH : Nat := 0x28
abbrev GLB_SCRATCH.data : Fld := ⟨GLB_SCRATCH, 0, 64⟩
/-- GLB_STEP: BAR0 offset. 20_register_map.md R552 -/
abbrev GLB_STEP : Nat := 0x30
abbrev GLB_STEP.step : Fld := ⟨GLB_STEP, 0, 64⟩
/-- ICU_SRC_CFG_n: BAR0 offset. 17_interrupts_events.md R455 -/
abbrev ICU_SRC_CFG (n : Nat) : Nat := 0x100000 + 0x8 * n
abbrev ICU_SRC_CFG.en (n : Nat) : Fld := ⟨ICU_SRC_CFG n, 0, 1⟩
abbrev ICU_SRC_CFG.sense (n : Nat) : Fld := ⟨ICU_SRC_CFG n, 1, 3⟩
abbrev ICU_SRC_CFG.prio (n : Nat) : Fld := ⟨ICU_SRC_CFG n, 4, 3⟩
abbrev ICU_SRC_CFG.cores (n : Nat) : Fld := ⟨ICU_SRC_CFG n, 8, 4⟩
abbrev ICU_SRC_CFG.host (n : Nat) : Fld := ⟨ICU_SRC_CFG n, 12, 1⟩
abbrev ICU_SRC_CFG.raw (n : Nat) : Fld := ⟨ICU_SRC_CFG n, 13, 1⟩
abbrev ICU_SRC_CFG.owner (n : Nat) : Fld := ⟨ICU_SRC_CFG n, 15, 3⟩
/-- ICU_PEND_w: BAR0 offset. 17_interrupts_events.md R456 -/
abbrev ICU_PEND (w : Nat) : Nat := 0x100800 + 0x8 * w
abbrev ICU_PEND.pend (w : Nat) : Fld := ⟨ICU_PEND w, 0, 64⟩
/-- ICU_CLRPEND_w: BAR0 offset. 17_interrupts_events.md R456 -/
abbrev ICU_CLRPEND (w : Nat) : Nat := 0x100820 + 0x8 * w
abbrev ICU_CLRPEND.clr (w : Nat) : Fld := ⟨ICU_CLRPEND w, 0, 64⟩
/-- ICU_ACTIVE_w: BAR0 offset. 17_interrupts_events.md R456 -/
abbrev ICU_ACTIVE (w : Nat) : Nat := 0x100840 + 0x8 * w
abbrev ICU_ACTIVE.active (w : Nat) : Fld := ⟨ICU_ACTIVE w, 0, 64⟩
/-- ICU_TGT_CFG_t: BAR0 offset. 17_interrupts_events.md R457 -/
abbrev ICU_TGT_CFG (t : Nat) : Nat := 0x100900 + 0x20 * t
abbrev ICU_TGT_CFG.mask_all (t : Nat) : Fld := ⟨ICU_TGT_CFG t, 0, 1⟩
abbrev ICU_TGT_CFG.thr (t : Nat) : Fld := ⟨ICU_TGT_CFG t, 1, 3⟩
abbrev ICU_TGT_CFG.sleep (t : Nat) : Fld := ⟨ICU_TGT_CFG t, 4, 1⟩
abbrev ICU_TGT_CFG.waiting (t : Nat) : Fld := ⟨ICU_TGT_CFG t, 5, 1⟩
/-- ICU_CLAIM_t: BAR0 offset. 17_interrupts_events.md R458 -/
abbrev ICU_CLAIM (t : Nat) : Nat := 0x100908 + 0x20 * t
abbrev ICU_CLAIM.source (t : Nat) : Fld := ⟨ICU_CLAIM t, 0, 8⟩
abbrev ICU_CLAIM.valid (t : Nat) : Fld := ⟨ICU_CLAIM t, 8, 1⟩
abbrev ICU_CLAIM.prio (t : Nat) : Fld := ⟨ICU_CLAIM t, 9, 3⟩
/-- ICU_COMPLETE_t: BAR0 offset. 17_interrupts_events.md R458 -/
abbrev ICU_COMPLETE (t : Nat) : Nat := 0x100910 + 0x20 * t
abbrev ICU_COMPLETE.source (t : Nat) : Fld := ⟨ICU_COMPLETE t, 0, 8⟩
/-- ICU_CAUSE_g: BAR0 offset. 17_interrupts_events.md R459 -/
abbrev ICU_CAUSE (g : Nat) : Nat := 0x100A00 + 0x8 * g
abbrev ICU_CAUSE.cause (g : Nat) : Fld := ⟨ICU_CAUSE g, 0, 64⟩
/-- EVT_CFG: BAR0 offset. 17_interrupts_events.md R460 -/
abbrev EVT_CFG : Nat := 0x200000
abbrev EVT_CFG.en : Fld := ⟨EVT_CFG, 0, 1⟩
abbrev EVT_CFG.lost : Fld := ⟨EVT_CFG, 1, 1⟩
abbrev EVT_CFG.ring_err : Fld := ⟨EVT_CFG, 2, 1⟩
abbrev EVT_CFG.thr : Fld := ⟨EVT_CFG, 8, 16⟩
/-- EVT_BASE: BAR0 offset. 17_interrupts_events.md R461 -/
abbrev EVT_BASE : Nat := 0x200008
abbrev EVT_BASE.addr : Fld := ⟨EVT_BASE, 12, 52⟩
/-- EVT_SIZE: BAR0 offset. 17_interrupts_events.md R461 -/
abbrev EVT_SIZE : Nat := 0x200010
abbrev EVT_SIZE.log2_entries : Fld := ⟨EVT_SIZE, 0, 5⟩
/-- EVT_HEAD: BAR0 offset. 17_interrupts_events.md R462 -/
abbrev EVT_HEAD : Nat := 0x200018
abbrev EVT_HEAD.head : Fld := ⟨EVT_HEAD, 0, 32⟩
/-- EVT_TAIL: BAR0 offset. 17_interrupts_events.md R462 -/
abbrev EVT_TAIL : Nat := 0x200020
abbrev EVT_TAIL.tail : Fld := ⟨EVT_TAIL, 0, 32⟩
/-- EVT_LOST_s: BAR0 offset. 17_interrupts_events.md R463 -/
abbrev EVT_LOST (s : Nat) : Nat := 0x200100 + 0x8 * s
abbrev EVT_LOST.run (s : Nat) : Fld := ⟨EVT_LOST s, 0, 16⟩
abbrev EVT_LOST.first (s : Nat) : Fld := ⟨EVT_LOST s, 16, 24⟩
abbrev EVT_LOST.last (s : Nat) : Fld := ⟨EVT_LOST s, 40, 24⟩
/-- EVT_TRACE_CFG: BAR0 offset. 17_interrupts_events.md R464 -/
abbrev EVT_TRACE_CFG : Nat := 0x200200
abbrev EVT_TRACE_CFG.classes : Fld := ⟨EVT_TRACE_CFG, 0, 16⟩
/-- EVT_TRACE_DROP: BAR0 offset. 17_interrupts_events.md R464 -/
abbrev EVT_TRACE_DROP : Nat := 0x200208
abbrev EVT_TRACE_DROP.dropped : Fld := ⟨EVT_TRACE_DROP, 0, 32⟩
/-- EVT_TELEM_CAP: BAR0 offset. 17_interrupts_events.md R465 -/
abbrev EVT_TELEM_CAP : Nat := 0x200210
abbrev EVT_TELEM_CAP.cap : Fld := ⟨EVT_TELEM_CAP, 0, 16⟩
abbrev EVT_TELEM_CAP.rate : Fld := ⟨EVT_TELEM_CAP, 32, 16⟩
abbrev EVT_TELEM_CAP.staged : Fld := ⟨EVT_TELEM_CAP, 48, 16⟩
/-- CLK_ROOT_STAT: BAR0 offset. 18_clocks_power_thermal.md R490 -/
abbrev CLK_ROOT_STAT : Nat := 0x300000
abbrev CLK_ROOT_STAT.lock : Fld := ⟨CLK_ROOT_STAT, 0, 1⟩
abbrev CLK_ROOT_STAT.ref_ok : Fld := ⟨CLK_ROOT_STAT, 1, 1⟩
abbrev CLK_ROOT_STAT.ssc : Fld := ⟨CLK_ROOT_STAT, 2, 1⟩
abbrev CLK_ROOT_STAT.unlocks : Fld := ⟨CLK_ROOT_STAT, 16, 16⟩
abbrev CLK_ROOT_STAT.lock_us : Fld := ⟨CLK_ROOT_STAT, 32, 16⟩
/-- CLK_DIV: BAR0 offset. 18_clocks_power_thermal.md R491 -/
abbrev CLK_DIV : Nat := 0x300008
abbrev CLK_DIV.core : Fld := ⟨CLK_DIV, 0, 4⟩
abbrev CLK_DIV.net : Fld := ⟨CLK_DIV, 4, 4⟩
abbrev CLK_DIV.mgmt : Fld := ⟨CLK_DIV, 8, 4⟩
abbrev CLK_DIV.phase : Fld := ⟨CLK_DIV, 12, 7⟩
abbrev CLK_DIV.mcv : Fld := ⟨CLK_DIV, 19, 10⟩
/-- PWR_STATE: BAR0 offset. 18_clocks_power_thermal.md R492 -/
abbrev PWR_STATE : Nat := 0x300010
abbrev PWR_STATE.state : Fld := ⟨PWR_STATE, 0, 3⟩
abbrev PWR_STATE.target : Fld := ⟨PWR_STATE, 3, 3⟩
abbrev PWR_STATE.late : Fld := ⟨PWR_STATE, 6, 1⟩
abbrev PWR_STATE.clk_err : Fld := ⟨PWR_STATE, 7, 1⟩
abbrev PWR_STATE.cause : Fld := ⟨PWR_STATE, 8, 4⟩
abbrev PWR_STATE.due_open : Fld := ⟨PWR_STATE, 12, 1⟩
abbrev PWR_STATE.tin : Fld := ⟨PWR_STATE, 13, 1⟩
abbrev PWR_STATE.wakes : Fld := ⟨PWR_STATE, 16, 32⟩
/-- PWR_POLICY: BAR0 offset. 18_clocks_power_thermal.md R493 -/
abbrev PWR_POLICY : Nat := 0x300018
abbrev PWR_POLICY.auto : Fld := ⟨PWR_POLICY, 0, 1⟩
abbrev PWR_POLICY.maint_wake : Fld := ⟨PWR_POLICY, 1, 1⟩
abbrev PWR_POLICY.guard_us : Fld := ⟨PWR_POLICY, 8, 16⟩
abbrev PWR_POLICY.assume_ms : Fld := ⟨PWR_POLICY, 24, 16⟩
abbrev PWR_POLICY.hold_ms : Fld := ⟨PWR_POLICY, 40, 16⟩
/-- PWR_NEXT_EVENT: BAR0 offset. 18_clocks_power_thermal.md R494 -/
abbrev PWR_NEXT_EVENT : Nat := 0x300020
abbrev PWR_NEXT_EVENT.time_us : Fld := ⟨PWR_NEXT_EVENT, 0, 40⟩
abbrev PWR_NEXT_EVENT.kind : Fld := ⟨PWR_NEXT_EVENT, 40, 3⟩
abbrev PWR_NEXT_EVENT.id : Fld := ⟨PWR_NEXT_EVENT, 48, 16⟩
/-- PWR_FLOOR: BAR0 offset. 18_clocks_power_thermal.md R495 -/
abbrev PWR_FLOOR : Nat := 0x300028
abbrev PWR_FLOOR.max_state : Fld := ⟨PWR_FLOOR, 0, 3⟩
/-- PWR_RESID_k: BAR0 offset. 18_clocks_power_thermal.md R496 -/
abbrev PWR_RESID (k : Nat) : Nat := 0x300030 + 0x8 * k
abbrev PWR_RESID.us (k : Nat) : Fld := ⟨PWR_RESID k, 0, 64⟩
/-- THM_SENSOR_n: BAR0 offset. 18_clocks_power_thermal.md R497 -/
abbrev THM_SENSOR (n : Nat) : Nat := 0x400000 + 0x8 * n
abbrev THM_SENSOR.temp (n : Nat) : Fld := ⟨THM_SENSOR n, 0, 16⟩
abbrev THM_SENSOR.eff (n : Nat) : Fld := ⟨THM_SENSOR n, 16, 16⟩
abbrev THM_SENSOR.rate (n : Nat) : Fld := ⟨THM_SENSOR n, 32, 12⟩
abbrev THM_SENSOR.suspect (n : Nat) : Fld := ⟨THM_SENSOR n, 44, 1⟩
abbrev THM_SENSOR.valid (n : Nat) : Fld := ⟨THM_SENSOR n, 45, 1⟩
abbrev THM_SENSOR.trip (n : Nat) : Fld := ⟨THM_SENSOR n, 46, 1⟩
abbrev THM_SENSOR.seq (n : Nat) : Fld := ⟨THM_SENSOR n, 48, 16⟩
/-- THM_BAND: BAR0 offset. 18_clocks_power_thermal.md R498 -/
abbrev THM_BAND : Nat := 0x400200
abbrev THM_BAND.die_band : Fld := ⟨THM_BAND, 0, 3⟩
abbrev THM_BAND.region : Fld := ⟨THM_BAND, 3, 6⟩
abbrev THM_BAND.tj : Fld := ⟨THM_BAND, 16, 16⟩
abbrev THM_BAND.bands : Fld := ⟨THM_BAND, 32, 5⟩
/-- THM_CFG: BAR0 offset. 18_clocks_power_thermal.md R499 -/
abbrev THM_CFG : Nat := 0x400208
abbrev THM_CFG.warn_rate : Fld := ⟨THM_CFG, 0, 8⟩
abbrev THM_CFG.recal_rate : Fld := ⟨THM_CFG, 8, 8⟩
abbrev THM_CFG.throttle_c : Fld := ⟨THM_CFG, 16, 8⟩
abbrev THM_CFG.tin_c : Fld := ⟨THM_CFG, 24, 8⟩
abbrev THM_CFG.trip_c : Fld := ⟨THM_CFG, 32, 8⟩
abbrev THM_CFG.hyst : Fld := ⟨THM_CFG, 40, 4⟩
abbrev THM_CFG.susp_delta : Fld := ⟨THM_CFG, 44, 4⟩
abbrev THM_CFG.susp_time : Fld := ⟨THM_CFG, 48, 4⟩
/-- THM_STAT: BAR0 offset. 18_clocks_power_thermal.md R500 -/
abbrev THM_STAT : Nat := 0x400210
abbrev THM_STAT.rise_warn : Fld := ⟨THM_STAT, 0, 1⟩
abbrev THM_STAT.throttled : Fld := ⟨THM_STAT, 1, 1⟩
abbrev THM_STAT.tin_temp : Fld := ⟨THM_STAT, 2, 1⟩
abbrev THM_STAT.suspect : Fld := ⟨THM_STAT, 3, 1⟩
abbrev THM_STAT.uncal : Fld := ⟨THM_STAT, 4, 1⟩
abbrev THM_STAT.trip : Fld := ⟨THM_STAT, 5, 1⟩
abbrev THM_STAT.below40 : Fld := ⟨THM_STAT, 6, 1⟩
abbrev THM_STAT.level : Fld := ⟨THM_STAT, 8, 2⟩
abbrev THM_STAT.guard : Fld := ⟨THM_STAT, 10, 1⟩
abbrev THM_STAT.rate_on : Fld := ⟨THM_STAT, 11, 1⟩
abbrev THM_STAT.tj_max : Fld := ⟨THM_STAT, 16, 16⟩
/-- THM_SUSPECT_0: BAR0 offset. 18_clocks_power_thermal.md R501 -/
abbrev THM_SUSPECT_0 : Nat := 0x400300
abbrev THM_SUSPECT_0.now : Fld := ⟨THM_SUSPECT_0, 0, 53⟩
/-- THM_SUSPECT_1: BAR0 offset. 18_clocks_power_thermal.md R501 -/
abbrev THM_SUSPECT_1 : Nat := 0x400308
abbrev THM_SUSPECT_1.since : Fld := ⟨THM_SUSPECT_1, 0, 53⟩
/-- MCV_CTL: BAR0 offset. 07_measurement_converter.md R161 -/
abbrev MCV_CTL : Nat := 0x500000
abbrev MCV_CTL.run : Fld := ⟨MCV_CTL, 0, 1⟩
abbrev MCV_CTL.fw_fifo : Fld := ⟨MCV_CTL, 1, 1⟩
abbrev MCV_CTL.flush : Fld := ⟨MCV_CTL, 2, 1⟩
abbrev MCV_CTL.fifo_thr : Fld := ⟨MCV_CTL, 4, 7⟩
/-- MCV_CMD: BAR0 offset. 07_measurement_converter.md R162 -/
abbrev MCV_CMD : Nat := 0x500008
abbrev MCV_CMD.cmd : Fld := ⟨MCV_CMD, 0, 4⟩
/-- MCV_STAT: BAR0 offset. 07_measurement_converter.md R163 -/
abbrev MCV_STAT : Nat := 0x500010
abbrev MCV_STAT.cal_busy : Fld := ⟨MCV_STAT, 0, 1⟩
abbrev MCV_STAT.cal_ok : Fld := ⟨MCV_STAT, 1, 1⟩
abbrev MCV_STAT.cal_fail : Fld := ⟨MCV_STAT, 2, 1⟩
abbrev MCV_STAT.ref_settled : Fld := ⟨MCV_STAT, 3, 1⟩
abbrev MCV_STAT.overflow : Fld := ⟨MCV_STAT, 4, 1⟩
abbrev MCV_STAT.depth : Fld := ⟨MCV_STAT, 5, 7⟩
abbrev MCV_STAT.entry : Fld := ⟨MCV_STAT, 12, 5⟩
abbrev MCV_STAT.channel : Fld := ⟨MCV_STAT, 17, 6⟩
abbrev MCV_STAT.lost : Fld := ⟨MCV_STAT, 24, 16⟩
abbrev MCV_STAT.cycles : Fld := ⟨MCV_STAT, 40, 24⟩
/-- MCV_REFBUF: BAR0 offset. 07_measurement_converter.md R164 -/
abbrev MCV_REFBUF : Nat := 0x500018
abbrev MCV_REFBUF.en : Fld := ⟨MCV_REFBUF, 0, 1⟩
abbrev MCV_REFBUF.settled : Fld := ⟨MCV_REFBUF, 1, 1⟩
abbrev MCV_REFBUF.since : Fld := ⟨MCV_REFBUF, 8, 16⟩
/-- MCV_OFS: BAR0 offset. 07_measurement_converter.md R165 -/
abbrev MCV_OFS : Nat := 0x500020
abbrev MCV_OFS.ofs : Fld := ⟨MCV_OFS, 0, 32⟩
/-- MCV_GAIN: BAR0 offset. 07_measurement_converter.md R165 -/
abbrev MCV_GAIN : Nat := 0x500028
abbrev MCV_GAIN.gain : Fld := ⟨MCV_GAIN, 0, 32⟩
/-- MCV_SCAN_i: BAR0 offset. 07_measurement_converter.md R166 -/
abbrev MCV_SCAN (i : Nat) : Nat := 0x500100 + 0x8 * i
abbrev MCV_SCAN.first (i : Nat) : Fld := ⟨MCV_SCAN i, 0, 6⟩
abbrev MCV_SCAN.last (i : Nat) : Fld := ⟨MCV_SCAN i, 6, 6⟩
abbrev MCV_SCAN.rate (i : Nat) : Fld := ⟨MCV_SCAN i, 12, 3⟩
abbrev MCV_SCAN.en (i : Nat) : Fld := ⟨MCV_SCAN i, 15, 1⟩
abbrev MCV_SCAN.fifo (i : Nat) : Fld := ⟨MCV_SCAN i, 16, 1⟩
/-- MCV_FIFO: BAR0 offset. 07_measurement_converter.md R167 -/
abbrev MCV_FIFO : Nat := 0x500300
abbrev MCV_FIFO.entry : Fld := ⟨MCV_FIFO, 0, 64⟩
/-- MCV_RESULT_c: BAR0 offset. 07_measurement_converter.md R167 -/
abbrev MCV_RESULT (c : Nat) : Nat := 0x500400 + 0x8 * c
abbrev MCV_RESULT.result (c : Nat) : Fld := ⟨MCV_RESULT c, 0, 64⟩
/-- CAL_CTL: BAR0 offset. 08_calibration.md R189 -/
abbrev CAL_CTL : Nat := 0x600000
abbrev CAL_CTL.sched_en : Fld := ⟨CAL_CTL, 0, 1⟩
abbrev CAL_CTL.la_en : Fld := ⟨CAL_CTL, 1, 1⟩
abbrev CAL_CTL.rise_en : Fld := ⟨CAL_CTL, 2, 1⟩
abbrev CAL_CTL.la_margin : Fld := ⟨CAL_CTL, 4, 8⟩
abbrev CAL_CTL.req_region : Fld := ⟨CAL_CTL, 16, 6⟩
abbrev CAL_CTL.req : Fld := ⟨CAL_CTL, 22, 1⟩
/-- CAL_STAT: BAR0 offset. 08_calibration.md R190 -/
abbrev CAL_STAT : Nat := 0x600008
abbrev CAL_STAT.busy : Fld := ⟨CAL_STAT, 0, 1⟩
abbrev CAL_STAT.staged : Fld := ⟨CAL_STAT, 1, 1⟩
abbrev CAL_STAT.ref_warn : Fld := ⟨CAL_STAT, 2, 1⟩
abbrev CAL_STAT.ref_fail : Fld := ⟨CAL_STAT, 3, 1⟩
abbrev CAL_STAT.fit_fail : Fld := ⟨CAL_STAT, 4, 1⟩
abbrev CAL_STAT.immediate : Fld := ⟨CAL_STAT, 5, 1⟩
abbrev CAL_STAT.region : Fld := ⟨CAL_STAT, 6, 6⟩
abbrev CAL_STAT.passes : Fld := ⟨CAL_STAT, 16, 32⟩
abbrev CAL_STAT.rewrites : Fld := ⟨CAL_STAT, 48, 16⟩
/-- CAL_REF: BAR0 offset. 08_calibration.md R191 -/
abbrev CAL_REF : Nat := 0x600010
abbrev CAL_REF.vref_uv : Fld := ⟨CAL_REF, 0, 24⟩
abbrev CAL_REF.buf_dev : Fld := ⟨CAL_REF, 24, 16⟩
abbrev CAL_REF.warn : Fld := ⟨CAL_REF, 40, 1⟩
abbrev CAL_REF.fail : Fld := ⟨CAL_REF, 41, 1⟩
abbrev CAL_REF.fails : Fld := ⟨CAL_REF, 42, 2⟩
/-- CAL_COMMIT: BAR0 offset. 08_calibration.md R192 -/
abbrev CAL_COMMIT : Nat := 0x600018
abbrev CAL_COMMIT.step : Fld := ⟨CAL_COMMIT, 0, 32⟩
abbrev CAL_COMMIT.blocks : Fld := ⟨CAL_COMMIT, 32, 17⟩
abbrev CAL_COMMIT.pending : Fld := ⟨CAL_COMMIT, 49, 1⟩
/-- CAL_SCHED_b: BAR0 offset. 08_calibration.md R193 -/
abbrev CAL_SCHED (b : Nat) : Nat := 0x600020 + 0x8 * b
abbrev CAL_SCHED.interval (b : Nat) : Fld := ⟨CAL_SCHED b, 0, 16⟩
abbrev CAL_SCHED.drift_thr (b : Nat) : Fld := ⟨CAL_SCHED b, 16, 8⟩
abbrev CAL_SCHED.tint (b : Nat) : Fld := ⟨CAL_SCHED b, 24, 8⟩
abbrev CAL_SCHED.trim (b : Nat) : Fld := ⟨CAL_SCHED b, 32, 3⟩
abbrev CAL_SCHED.refresh (b : Nat) : Fld := ⟨CAL_SCHED b, 35, 3⟩
/-- CAL_WARMUP: BAR0 offset. 08_calibration.md R194 -/
abbrev CAL_WARMUP : Nat := 0x600048
abbrev CAL_WARMUP.active : Fld := ⟨CAL_WARMUP, 0, 1⟩
abbrev CAL_WARMUP.sweep_done : Fld := ⟨CAL_WARMUP, 1, 1⟩
abbrev CAL_WARMUP.elapsed : Fld := ⟨CAL_WARMUP, 2, 10⟩
abbrev CAL_WARMUP.warm_blocks : Fld := ⟨CAL_WARMUP, 12, 17⟩
abbrev CAL_WARMUP.sweep_ms : Fld := ⟨CAL_WARMUP, 29, 16⟩
/-- CAL_QUALITY: BAR0 offset. 08_calibration.md R195 -/
abbrev CAL_QUALITY : Nat := 0x600050
abbrev CAL_QUALITY.worst_r : Fld := ⟨CAL_QUALITY, 0, 16⟩
abbrev CAL_QUALITY.worst_region : Fld := ⟨CAL_QUALITY, 16, 6⟩
abbrev CAL_QUALITY.worst_block : Fld := ⟨CAL_QUALITY, 22, 11⟩
abbrev CAL_QUALITY.mean_r : Fld := ⟨CAL_QUALITY, 33, 16⟩
abbrev CAL_QUALITY.over : Fld := ⟨CAL_QUALITY, 49, 15⟩
/-- SEC_LCS: BAR0 offset. 19_boot_security.md R535 -/
abbrev SEC_LCS : Nat := 0x700000
abbrev SEC_LCS.state : Fld := ⟨SEC_LCS, 0, 3⟩
abbrev SEC_LCS.debug_entries : Fld := ⟨SEC_LCS, 3, 4⟩
abbrev SEC_LCS.identity : Fld := ⟨SEC_LCS, 7, 1⟩
abbrev SEC_LCS.cfg_key : Fld := ⟨SEC_LCS, 8, 1⟩
abbrev SEC_LCS.tin_key : Fld := ⟨SEC_LCS, 9, 1⟩
abbrev SEC_LCS.debug : Fld := ⟨SEC_LCS, 10, 1⟩
abbrev SEC_LCS.nonce : Fld := ⟨SEC_LCS, 32, 32⟩
/-- SEC_LCS_REQ: BAR0 offset. 19_boot_security.md R535 -/
abbrev SEC_LCS_REQ : Nat := 0x700008
abbrev SEC_LCS_REQ.target : Fld := ⟨SEC_LCS_REQ, 0, 3⟩
abbrev SEC_LCS_REQ.go : Fld := ⟨SEC_LCS_REQ, 3, 1⟩
abbrev SEC_LCS_REQ.busy : Fld := ⟨SEC_LCS_REQ, 4, 1⟩
abbrev SEC_LCS_REQ.done : Fld := ⟨SEC_LCS_REQ, 5, 1⟩
abbrev SEC_LCS_REQ.err : Fld := ⟨SEC_LCS_REQ, 6, 1⟩
abbrev SEC_LCS_REQ.code : Fld := ⟨SEC_LCS_REQ, 8, 8⟩
abbrev SEC_LCS_REQ.tok : Fld := ⟨SEC_LCS_REQ, 16, 21⟩
/-- SEC_TAMPER_STAT: BAR0 offset. 19_boot_security.md R536 -/
abbrev SEC_TAMPER_STAT : Nat := 0x700010
abbrev SEC_TAMPER_STAT.pin : Fld := ⟨SEC_TAMPER_STAT, 0, 1⟩
abbrev SEC_TAMPER_STAT.volt : Fld := ⟨SEC_TAMPER_STAT, 1, 1⟩
abbrev SEC_TAMPER_STAT.clock : Fld := ⟨SEC_TAMPER_STAT, 2, 1⟩
abbrev SEC_TAMPER_STAT.temp : Fld := ⟨SEC_TAMPER_STAT, 3, 1⟩
abbrev SEC_TAMPER_STAT.mesh : Fld := ⟨SEC_TAMPER_STAT, 4, 1⟩
abbrev SEC_TAMPER_STAT.pin_now : Fld := ⟨SEC_TAMPER_STAT, 8, 1⟩
abbrev SEC_TAMPER_STAT.mesh_ok : Fld := ⟨SEC_TAMPER_STAT, 9, 1⟩
/-- SEC_TAMPER_CNT: BAR0 offset. 19_boot_security.md R536 -/
abbrev SEC_TAMPER_CNT : Nat := 0x700018
abbrev SEC_TAMPER_CNT.count : Fld := ⟨SEC_TAMPER_CNT, 0, 32⟩
abbrev SEC_TAMPER_CNT.last : Fld := ⟨SEC_TAMPER_CNT, 32, 3⟩
/-- SEC_WIPE_STAT: BAR0 offset. 19_boot_security.md R537 -/
abbrev SEC_WIPE_STAT : Nat := 0x700020
abbrev SEC_WIPE_STAT.wiping : Fld := ⟨SEC_WIPE_STAT, 0, 1⟩
abbrev SEC_WIPE_STAT.cause : Fld := ⟨SEC_WIPE_STAT, 1, 3⟩
abbrev SEC_WIPE_STAT.last_10ns : Fld := ⟨SEC_WIPE_STAT, 16, 16⟩
abbrev SEC_WIPE_STAT.wipes : Fld := ⟨SEC_WIPE_STAT, 32, 32⟩
/-- SEC_ATTEST_CMD: BAR0 offset. 19_boot_security.md R538 -/
abbrev SEC_ATTEST_CMD : Nat := 0x700028
abbrev SEC_ATTEST_CMD.go : Fld := ⟨SEC_ATTEST_CMD, 0, 1⟩
abbrev SEC_ATTEST_CMD.busy : Fld := ⟨SEC_ATTEST_CMD, 1, 1⟩
abbrev SEC_ATTEST_CMD.done : Fld := ⟨SEC_ATTEST_CMD, 2, 1⟩
abbrev SEC_ATTEST_CMD.err : Fld := ⟨SEC_ATTEST_CMD, 3, 1⟩
abbrev SEC_ATTEST_CMD.code : Fld := ⟨SEC_ATTEST_CMD, 4, 4⟩
/-- SEC_ATTEST_ADDR: BAR0 offset. 19_boot_security.md R538 -/
abbrev SEC_ATTEST_ADDR : Nat := 0x700030
abbrev SEC_ATTEST_ADDR.addr : Fld := ⟨SEC_ATTEST_ADDR, 6, 21⟩
/-- SEC_KEYHASH: BAR0 offset. 19_boot_security.md R538 -/
abbrev SEC_KEYHASH : Nat := 0x700038
abbrev SEC_KEYHASH.fw : Fld := ⟨SEC_KEYHASH, 0, 16⟩
abbrev SEC_KEYHASH.cfg : Fld := ⟨SEC_KEYHASH, 16, 16⟩
abbrev SEC_KEYHASH.tin : Fld := ⟨SEC_KEYHASH, 32, 16⟩
abbrev SEC_KEYHASH.identity : Fld := ⟨SEC_KEYHASH, 48, 16⟩
/-- BOOT_STAT: BAR0 offset. 19_boot_security.md R531 -/
abbrev BOOT_STAT : Nat := 0x800000
abbrev BOOT_STAT.stage : Fld := ⟨BOOT_STAT, 0, 3⟩
abbrev BOOT_STAT.src : Fld := ⟨BOOT_STAT, 3, 2⟩
abbrev BOOT_STAT.img_ok : Fld := ⟨BOOT_STAT, 5, 1⟩
abbrev BOOT_STAT.cfg_ok : Fld := ⟨BOOT_STAT, 6, 1⟩
abbrev BOOT_STAT.tin_err : Fld := ⟨BOOT_STAT, 7, 1⟩
abbrev BOOT_STAT.no_tin : Fld := ⟨BOOT_STAT, 8, 1⟩
abbrev BOOT_STAT.lock : Fld := ⟨BOOT_STAT, 9, 1⟩
abbrev BOOT_STAT.img_fail : Fld := ⟨BOOT_STAT, 10, 1⟩
abbrev BOOT_STAT.cfg_fail : Fld := ⟨BOOT_STAT, 11, 1⟩
abbrev BOOT_STAT.recov_ready : Fld := ⟨BOOT_STAT, 12, 1⟩
abbrev BOOT_STAT.nvm_done : Fld := ⟨BOOT_STAT, 13, 1⟩
abbrev BOOT_STAT.nvm_err : Fld := ⟨BOOT_STAT, 14, 1⟩
abbrev BOOT_STAT.code : Fld := ⟨BOOT_STAT, 16, 8⟩
abbrev BOOT_STAT.boot_ms : Fld := ⟨BOOT_STAT, 32, 32⟩
/-- BOOT_IMG_INFO: BAR0 offset. 19_boot_security.md R532 -/
abbrev BOOT_IMG_INFO : Nat := 0x800008
abbrev BOOT_IMG_INFO.fw_version : Fld := ⟨BOOT_IMG_INFO, 0, 32⟩
abbrev BOOT_IMG_INFO.len_kib : Fld := ⟨BOOT_IMG_INFO, 32, 16⟩
abbrev BOOT_IMG_INFO.digest : Fld := ⟨BOOT_IMG_INFO, 48, 16⟩
/-- BOOT_CFG_INFO: BAR0 offset. 19_boot_security.md R532 -/
abbrev BOOT_CFG_INFO : Nat := 0x800010
abbrev BOOT_CFG_INFO.cfg_version : Fld := ⟨BOOT_CFG_INFO, 0, 32⟩
abbrev BOOT_CFG_INFO.params : Fld := ⟨BOOT_CFG_INFO, 32, 12⟩
abbrev BOOT_CFG_INFO.keys : Fld := ⟨BOOT_CFG_INFO, 44, 4⟩
abbrev BOOT_CFG_INFO.digest : Fld := ⟨BOOT_CFG_INFO, 48, 16⟩
/-- BOOT_RECOV_CTL: BAR0 offset. 19_boot_security.md R533 -/
abbrev BOOT_RECOV_CTL : Nat := 0x800018
abbrev BOOT_RECOV_CTL.state : Fld := ⟨BOOT_RECOV_CTL, 0, 3⟩
abbrev BOOT_RECOV_CTL.fetch : Fld := ⟨BOOT_RECOV_CTL, 3, 1⟩
abbrev BOOT_RECOV_CTL.err : Fld := ⟨BOOT_RECOV_CTL, 8, 8⟩
abbrev BOOT_RECOV_CTL.bytes : Fld := ⟨BOOT_RECOV_CTL, 32, 32⟩
/-- BOOT_RECOV_ADDR: BAR0 offset. 19_boot_security.md R533 -/
abbrev BOOT_RECOV_ADDR : Nat := 0x800020
abbrev BOOT_RECOV_ADDR.addr : Fld := ⟨BOOT_RECOV_ADDR, 12, 52⟩
/-- BOOT_NVM_CTL: BAR0 offset. 19_boot_security.md R534 -/
abbrev BOOT_NVM_CTL : Nat := 0x800028
abbrev BOOT_NVM_CTL.ready : Fld := ⟨BOOT_NVM_CTL, 0, 1⟩
abbrev BOOT_NVM_CTL.busy : Fld := ⟨BOOT_NVM_CTL, 1, 1⟩
abbrev BOOT_NVM_CTL.item : Fld := ⟨BOOT_NVM_CTL, 2, 2⟩
abbrev BOOT_NVM_CTL.size : Fld := ⟨BOOT_NVM_CTL, 8, 8⟩
abbrev BOOT_NVM_CTL.clk_mhz : Fld := ⟨BOOT_NVM_CTL, 16, 8⟩
abbrev BOOT_NVM_CTL.writes : Fld := ⟨BOOT_NVM_CTL, 32, 32⟩
/-- SRV_CTL: BAR0 offset. 10_serving.md R266 -/
abbrev SRV_CTL : Nat := 0x900000
abbrev SRV_CTL.tbl_en : Fld := ⟨SRV_CTL, 0, 4⟩
abbrev SRV_CTL.hold : Fld := ⟨SRV_CTL, 4, 1⟩
/-- SRV_TBL_BASE_k: BAR0 offset. 10_serving.md R267 -/
abbrev SRV_TBL_BASE (k : Nat) : Nat := 0x900010 + 0x10 * k
abbrev SRV_TBL_BASE.off (k : Nat) : Fld := ⟨SRV_TBL_BASE k, 12, 21⟩
/-- SRV_TBL_SIZE_k: BAR0 offset. 10_serving.md R267 -/
abbrev SRV_TBL_SIZE (k : Nat) : Nat := 0x900018 + 0x10 * k
abbrev SRV_TBL_SIZE.slots (k : Nat) : Fld := ⟨SRV_TBL_SIZE k, 0, 13⟩
/-- SRV_SCAN: BAR0 offset. 10_serving.md R268 -/
abbrev SRV_SCAN : Nat := 0x900050
abbrev SRV_SCAN.interval : Fld := ⟨SRV_SCAN, 0, 16⟩
abbrev SRV_SCAN.scans : Fld := ⟨SRV_SCAN, 32, 32⟩
/-- SRV_STEP_BUDGET: BAR0 offset. 10_serving.md R269 -/
abbrev SRV_STEP_BUDGET : Nat := 0x900058
abbrev SRV_STEP_BUDGET.budget : Fld := ⟨SRV_STEP_BUDGET, 0, 20⟩
abbrev SRV_STEP_BUDGET.last : Fld := ⟨SRV_STEP_BUDGET, 32, 20⟩
/-- SRV_CHUNK: BAR0 offset. 10_serving.md R270 -/
abbrev SRV_CHUNK : Nat := 0x900060
abbrev SRV_CHUNK.min : Fld := ⟨SRV_CHUNK, 0, 12⟩
abbrev SRV_CHUNK.max : Fld := ⟨SRV_CHUNK, 16, 12⟩
/-- SRV_STAT: BAR0 offset. 10_serving.md R271 -/
abbrev SRV_STAT : Nat := 0x900068
abbrev SRV_STAT.stage : Fld := ⟨SRV_STAT, 0, 2⟩
abbrev SRV_STAT.storm : Fld := ⟨SRV_STAT, 2, 1⟩
abbrev SRV_STAT.req_irq : Fld := ⟨SRV_STAT, 3, 1⟩
abbrev SRV_STAT.scan_err : Fld := ⟨SRV_STAT, 4, 1⟩
abbrev SRV_STAT.kv_low : Fld := ⟨SRV_STAT, 5, 1⟩
abbrev SRV_STAT.tbx_full : Fld := ⟨SRV_STAT, 6, 1⟩
abbrev SRV_STAT.tbx_exp : Fld := ⟨SRV_STAT, 7, 1⟩
abbrev SRV_STAT.tbl_live : Fld := ⟨SRV_STAT, 8, 4⟩
abbrev SRV_STAT.running : Fld := ⟨SRV_STAT, 16, 11⟩
abbrev SRV_STAT.taken : Fld := ⟨SRV_STAT, 27, 13⟩
abbrev SRV_STAT.live : Fld := ⟨SRV_STAT, 40, 15⟩
/-- SRV_TOYBOX_BASE: BAR0 offset. 10_serving.md R272 -/
abbrev SRV_TOYBOX_BASE : Nat := 0x900070
abbrev SRV_TOYBOX_BASE.en : Fld := ⟨SRV_TOYBOX_BASE, 0, 1⟩
abbrev SRV_TOYBOX_BASE.addr : Fld := ⟨SRV_TOYBOX_BASE, 12, 52⟩
/-- SRV_TOYBOX_SIZE: BAR0 offset. 10_serving.md R272 -/
abbrev SRV_TOYBOX_SIZE : Nat := 0x900078
abbrev SRV_TOYBOX_SIZE.size : Fld := ⟨SRV_TOYBOX_SIZE, 0, 32⟩
abbrev SRV_TOYBOX_SIZE.used : Fld := ⟨SRV_TOYBOX_SIZE, 32, 32⟩
/-- SRV_KV_STAT: BAR0 offset. 10_serving.md R273 -/
abbrev SRV_KV_STAT : Nat := 0x900080
abbrev SRV_KV_STAT.free_mib : Fld := ⟨SRV_KV_STAT, 0, 28⟩
abbrev SRV_KV_STAT.total_mib : Fld := ⟨SRV_KV_STAT, 28, 28⟩
/-- SMP_CTL: BAR0 offset. 11_sampling.md R293 -/
abbrev SMP_CTL : Nat := 0xA00000
abbrev SMP_CTL.mask_en : Fld := ⟨SMP_CTL, 0, 1⟩
abbrev SMP_CTL.mask_off : Fld := ⟨SMP_CTL, 12, 21⟩
abbrev SMP_CTL.mask_count : Fld := ⟨SMP_CTL, 33, 16⟩
abbrev SMP_CTL.rep_window : Fld := ⟨SMP_CTL, 49, 15⟩
/-- SMP_SPEC: BAR0 offset. 11_sampling.md R294 -/
abbrev SMP_SPEC : Nat := 0xA00008
abbrev SMP_SPEC.k_default : Fld := ⟨SMP_SPEC, 0, 4⟩
abbrev SMP_SPEC.en : Fld := ⟨SMP_SPEC, 4, 1⟩
abbrev SMP_SPEC.draft_kind : Fld := ⟨SMP_SPEC, 5, 2⟩
abbrev SMP_SPEC.draft_slot : Fld := ⟨SMP_SPEC, 7, 2⟩
abbrev SMP_SPEC.draft_layers : Fld := ⟨SMP_SPEC, 9, 8⟩
abbrev SMP_SPEC.reject_limit : Fld := ⟨SMP_SPEC, 17, 4⟩
abbrev SMP_SPEC.pause_steps : Fld := ⟨SMP_SPEC, 21, 8⟩
/-- SMP_STAT: BAR0 offset. 11_sampling.md R295 -/
abbrev SMP_STAT : Nat := 0xA00010
abbrev SMP_STAT.nan : Fld := ⟨SMP_STAT, 0, 1⟩
abbrev SMP_STAT.nodraft : Fld := ⟨SMP_STAT, 1, 1⟩
abbrev SMP_STAT.mask_err : Fld := ⟨SMP_STAT, 2, 1⟩
abbrev SMP_STAT.paused : Fld := ⟨SMP_STAT, 4, 15⟩
abbrev SMP_STAT.proposed : Fld := ⟨SMP_STAT, 20, 14⟩
abbrev SMP_STAT.accepted : Fld := ⟨SMP_STAT, 34, 14⟩
/-- WLD_CMD: BAR0 offset. 09_weights.md R224 -/
abbrev WLD_CMD : Nat := 0xB00000
abbrev WLD_CMD.cmd : Fld := ⟨WLD_CMD, 0, 4⟩
abbrev WLD_CMD.slot : Fld := ⟨WLD_CMD, 4, 2⟩
abbrev WLD_CMD.activate : Fld := ⟨WLD_CMD, 6, 1⟩
abbrev WLD_CMD.disp_en : Fld := ⟨WLD_CMD, 7, 1⟩
abbrev WLD_CMD.disp_slot : Fld := ⟨WLD_CMD, 8, 2⟩
abbrev WLD_CMD.deadline : Fld := ⟨WLD_CMD, 10, 16⟩
/-- WLD_SRC: BAR0 offset. 09_weights.md R225 -/
abbrev WLD_SRC : Nat := 0xB00008
abbrev WLD_SRC.kind : Fld := ⟨WLD_SRC, 0, 2⟩
abbrev WLD_SRC.rate : Fld := ⟨WLD_SRC, 4, 8⟩
abbrev WLD_SRC.addr : Fld := ⟨WLD_SRC, 12, 52⟩
/-- WLD_STAT: BAR0 offset. 09_weights.md R226 -/
abbrev WLD_STAT : Nat := 0xB00010
abbrev WLD_STAT.busy : Fld := ⟨WLD_STAT, 0, 1⟩
abbrev WLD_STAT.slot : Fld := ⟨WLD_STAT, 1, 2⟩
abbrev WLD_STAT.phase : Fld := ⟨WLD_STAT, 3, 3⟩
abbrev WLD_STAT.done : Fld := ⟨WLD_STAT, 6, 1⟩
abbrev WLD_STAT.err : Fld := ⟨WLD_STAT, 7, 1⟩
abbrev WLD_STAT.code : Fld := ⟨WLD_STAT, 8, 8⟩
abbrev WLD_STAT.chunks_done : Fld := ⟨WLD_STAT, 16, 16⟩
abbrev WLD_STAT.chunks_total : Fld := ⟨WLD_STAT, 32, 16⟩
abbrev WLD_STAT.pcl_done : Fld := ⟨WLD_STAT, 48, 1⟩
abbrev WLD_STAT.cos_done : Fld := ⟨WLD_STAT, 49, 1⟩
/-- WLD_GEN_g: BAR0 offset. 09_weights.md R227 -/
abbrev WLD_GEN (g : Nat) : Nat := 0xB00020 + 0x8 * g
abbrev WLD_GEN.gen (g : Nat) : Fld := ⟨WLD_GEN g, 0, 16⟩
abbrev WLD_GEN.state (g : Nat) : Fld := ⟨WLD_GEN g, 16, 3⟩
abbrev WLD_GEN.footprint (g : Nat) : Fld := ⟨WLD_GEN g, 19, 2⟩
abbrev WLD_GEN.offset (g : Nat) : Fld := ⟨WLD_GEN g, 21, 2⟩
abbrev WLD_GEN.resident (g : Nat) : Fld := ⟨WLD_GEN g, 23, 1⟩
abbrev WLD_GEN.master (g : Nat) : Fld := ⟨WLD_GEN g, 24, 1⟩
abbrev WLD_GEN.pins (g : Nat) : Fld := ⟨WLD_GEN g, 25, 16⟩
/-- WLD_ACTIVE: BAR0 offset. 09_weights.md R228 -/
abbrev WLD_ACTIVE : Nat := 0xB00040
abbrev WLD_ACTIVE.slot : Fld := ⟨WLD_ACTIVE, 0, 2⟩
abbrev WLD_ACTIVE.none : Fld := ⟨WLD_ACTIVE, 2, 1⟩
abbrev WLD_ACTIVE.pending : Fld := ⟨WLD_ACTIVE, 3, 1⟩
abbrev WLD_ACTIVE.gen : Fld := ⟨WLD_ACTIVE, 4, 16⟩
abbrev WLD_ACTIVE.step : Fld := ⟨WLD_ACTIVE, 20, 32⟩
/-- WLD_PROG: BAR0 offset. 09_weights.md R229 -/
abbrev WLD_PROG : Nat := 0xB00048
abbrev WLD_PROG.max_blocks : Fld := ⟨WLD_PROG, 0, 15⟩
abbrev WLD_PROG.active : Fld := ⟨WLD_PROG, 16, 15⟩
abbrev WLD_PROG.rows : Fld := ⟨WLD_PROG, 32, 32⟩
/-- WLD_COSTUME_CTL: BAR0 offset. 09_weights.md R230 -/
abbrev WLD_COSTUME_CTL : Nat := 0xB00050
abbrev WLD_COSTUME_CTL.cmd : Fld := ⟨WLD_COSTUME_CTL, 0, 2⟩
abbrev WLD_COSTUME_CTL.busy : Fld := ⟨WLD_COSTUME_CTL, 2, 1⟩
abbrev WLD_COSTUME_CTL.err : Fld := ⟨WLD_COSTUME_CTL, 3, 1⟩
abbrev WLD_COSTUME_CTL.context : Fld := ⟨WLD_COSTUME_CTL, 4, 12⟩
abbrev WLD_COSTUME_CTL.hdm_off : Fld := ⟨WLD_COSTUME_CTL, 16, 27⟩
abbrev WLD_COSTUME_CTL.code : Fld := ⟨WLD_COSTUME_CTL, 43, 8⟩
abbrev WLD_COSTUME_CTL.version : Fld := ⟨WLD_COSTUME_CTL, 51, 12⟩
/-- WLD_PARCEL_CTL: BAR0 offset. 09_weights.md R231 -/
abbrev WLD_PARCEL_CTL : Nat := 0xB00058
abbrev WLD_PARCEL_CTL.fwd : Fld := ⟨WLD_PARCEL_CTL, 0, 1⟩
abbrev WLD_PARCEL_CTL.max_resend : Fld := ⟨WLD_PARCEL_CTL, 8, 8⟩
/-- WLD_PARCEL_STAT: BAR0 offset. 09_weights.md R232 -/
abbrev WLD_PARCEL_STAT : Nat := 0xB00060
abbrev WLD_PARCEL_STAT.in_up : Fld := ⟨WLD_PARCEL_STAT, 0, 1⟩
abbrev WLD_PARCEL_STAT.out_up : Fld := ⟨WLD_PARCEL_STAT, 1, 1⟩
abbrev WLD_PARCEL_STAT.last : Fld := ⟨WLD_PARCEL_STAT, 2, 1⟩
abbrev WLD_PARCEL_STAT.done : Fld := ⟨WLD_PARCEL_STAT, 3, 1⟩
abbrev WLD_PARCEL_STAT.ok : Fld := ⟨WLD_PARCEL_STAT, 4, 1⟩
abbrev WLD_PARCEL_STAT.hop : Fld := ⟨WLD_PARCEL_STAT, 5, 16⟩
abbrev WLD_PARCEL_STAT.chain_len : Fld := ⟨WLD_PARCEL_STAT, 21, 16⟩
abbrev WLD_PARCEL_STAT.resends : Fld := ⟨WLD_PARCEL_STAT, 37, 16⟩
/-- CHK_SHADOW_RATE: BAR0 offset. 12_integrity.md R324 -/
abbrev CHK_SHADOW_RATE : Nat := 0xC00000
abbrev CHK_SHADOW_RATE.log2_rate : Fld := ⟨CHK_SHADOW_RATE, 0, 4⟩
abbrev CHK_SHADOW_RATE.warm_log2 : Fld := ⟨CHK_SHADOW_RATE, 4, 4⟩
abbrev CHK_SHADOW_RATE.window : Fld := ⟨CHK_SHADOW_RATE, 8, 8⟩
/-- CHK_TOL: BAR0 offset. 12_integrity.md R325 -/
abbrev CHK_TOL : Nat := 0xC00008
abbrev CHK_TOL.mult : Fld := ⟨CHK_TOL, 0, 8⟩
abbrev CHK_TOL.floor : Fld := ⟨CHK_TOL, 8, 8⟩
/-- CHK_STAT: BAR0 offset. 12_integrity.md R326 -/
abbrev CHK_STAT : Nat := 0xC00010
abbrev CHK_STAT.mismatch : Fld := ⟨CHK_STAT, 0, 1⟩
abbrev CHK_STAT.blk_retired : Fld := ⟨CHK_STAT, 1, 1⟩
abbrev CHK_STAT.rgn_retired : Fld := ⟨CHK_STAT, 2, 1⟩
abbrev CHK_STAT.rgn_reset : Fld := ⟨CHK_STAT, 3, 1⟩
abbrev CHK_STAT.vote : Fld := ⟨CHK_STAT, 4, 1⟩
abbrev CHK_STAT.prov : Fld := ⟨CHK_STAT, 5, 1⟩
abbrev CHK_STAT.rattle_fail : Fld := ⟨CHK_STAT, 6, 1⟩
abbrev CHK_STAT.shadows : Fld := ⟨CHK_STAT, 16, 32⟩
abbrev CHK_STAT.mismatches : Fld := ⟨CHK_STAT, 48, 16⟩
/-- CHK_COMMIT_LAG: BAR0 offset. 12_integrity.md R327 -/
abbrev CHK_COMMIT_LAG : Nat := 0xC00018
abbrev CHK_COMMIT_LAG.step : Fld := ⟨CHK_COMMIT_LAG, 0, 32⟩
abbrev CHK_COMMIT_LAG.lag : Fld := ⟨CHK_COMMIT_LAG, 32, 1⟩
abbrev CHK_COMMIT_LAG.held : Fld := ⟨CHK_COMMIT_LAG, 33, 15⟩
abbrev CHK_COMMIT_LAG.replays : Fld := ⟨CHK_COMMIT_LAG, 48, 16⟩
/-- CHK_ABACUS_CTL: BAR0 offset. 12_integrity.md R328 -/
abbrev CHK_ABACUS_CTL : Nat := 0xC00020
abbrev CHK_ABACUS_CTL.en : Fld := ⟨CHK_ABACUS_CTL, 0, 1⟩
abbrev CHK_ABACUS_CTL.arrays : Fld := ⟨CHK_ABACUS_CTL, 8, 8⟩
abbrev CHK_ABACUS_CTL.vectors : Fld := ⟨CHK_ABACUS_CTL, 16, 8⟩
abbrev CHK_ABACUS_CTL.sets : Fld := ⟨CHK_ABACUS_CTL, 32, 32⟩
/-- CHK_RATTLE_CTL: BAR0 offset. 12_integrity.md R329 -/
abbrev CHK_RATTLE_CTL : Nat := 0xC00028
abbrev CHK_RATTLE_CTL.en : Fld := ⟨CHK_RATTLE_CTL, 0, 1⟩
abbrev CHK_RATTLE_CTL.interval : Fld := ⟨CHK_RATTLE_CTL, 4, 11⟩
abbrev CHK_RATTLE_CTL.vdd_pct : Fld := ⟨CHK_RATTLE_CTL, 16, 4⟩
abbrev CHK_RATTLE_CTL.clk_pct : Fld := ⟨CHK_RATTLE_CTL, 20, 4⟩
abbrev CHK_RATTLE_CTL.dur_ms : Fld := ⟨CHK_RATTLE_CTL, 24, 12⟩
abbrev CHK_RATTLE_CTL.next : Fld := ⟨CHK_RATTLE_CTL, 36, 6⟩
/-- CHK_RATTLE_STAT: BAR0 offset. 12_integrity.md R330 -/
abbrev CHK_RATTLE_STAT : Nat := 0xC00030
abbrev CHK_RATTLE_STAT.region : Fld := ⟨CHK_RATTLE_STAT, 0, 6⟩
abbrev CHK_RATTLE_STAT.result : Fld := ⟨CHK_RATTLE_STAT, 6, 2⟩
abbrev CHK_RATTLE_STAT.running : Fld := ⟨CHK_RATTLE_STAT, 8, 1⟩
abbrev CHK_RATTLE_STAT.deferred : Fld := ⟨CHK_RATTLE_STAT, 9, 1⟩
abbrev CHK_RATTLE_STAT.tests : Fld := ⟨CHK_RATTLE_STAT, 10, 32⟩
abbrev CHK_RATTLE_STAT.fails : Fld := ⟨CHK_RATTLE_STAT, 42, 16⟩
/-- CHK_RETIRED: BAR0 offset. 12_integrity.md R331 -/
abbrev CHK_RETIRED : Nat := 0xC00038
abbrev CHK_RETIRED.s0_serves : Fld := ⟨CHK_RETIRED, 0, 6⟩
abbrev CHK_RETIRED.s1_serves : Fld := ⟨CHK_RETIRED, 6, 6⟩
abbrev CHK_RETIRED.fail0 : Fld := ⟨CHK_RETIRED, 12, 6⟩
abbrev CHK_RETIRED.fail1 : Fld := ⟨CHK_RETIRED, 18, 6⟩
abbrev CHK_RETIRED.fail2 : Fld := ⟨CHK_RETIRED, 24, 6⟩
abbrev CHK_RETIRED.keep0_bad : Fld := ⟨CHK_RETIRED, 30, 1⟩
abbrev CHK_RETIRED.keep1_bad : Fld := ⟨CHK_RETIRED, 31, 1⟩
abbrev CHK_RETIRED.blocks : Fld := ⟨CHK_RETIRED, 32, 16⟩
abbrev CHK_RETIRED.resets : Fld := ⟨CHK_RETIRED, 48, 16⟩
/-- CHK_SUSPECT: BAR0 offset. 12_integrity.md R332 -/
abbrev CHK_SUSPECT : Nat := 0xC00040
abbrev CHK_SUSPECT.region : Fld := ⟨CHK_SUSPECT, 0, 6⟩
abbrev CHK_SUSPECT.block : Fld := ⟨CHK_SUSPECT, 6, 11⟩
abbrev CHK_SUSPECT.left : Fld := ⟨CHK_SUSPECT, 17, 7⟩
abbrev CHK_SUSPECT.hits : Fld := ⟨CHK_SUSPECT, 24, 2⟩
abbrev CHK_SUSPECT.now : Fld := ⟨CHK_SUSPECT, 26, 17⟩
abbrev CHK_SUSPECT.total : Fld := ⟨CHK_SUSPECT, 43, 21⟩
/-- PAIR_CTL: BAR0 offset. 13_pair.md R352 -/
abbrev PAIR_CTL : Nat := 0xD00000
abbrev PAIR_CTL.en : Fld := ⟨PAIR_CTL, 0, 1⟩
abbrev PAIR_CTL.mode : Fld := ⟨PAIR_CTL, 1, 1⟩
abbrev PAIR_CTL.mirror_pct : Fld := ⟨PAIR_CTL, 2, 6⟩
abbrev PAIR_CTL.timeout : Fld := ⟨PAIR_CTL, 8, 14⟩
abbrev PAIR_CTL.leave : Fld := ⟨PAIR_CTL, 22, 1⟩
abbrev PAIR_CTL.rejoin : Fld := ⟨PAIR_CTL, 23, 1⟩
/-- PAIR_STAT: BAR0 offset. 13_pair.md R353 -/
abbrev PAIR_STAT : Nat := 0xD00008
abbrev PAIR_STAT.state : Fld := ⟨PAIR_STAT, 0, 3⟩
abbrev PAIR_STAT.refuse : Fld := ⟨PAIR_STAT, 3, 3⟩
abbrev PAIR_STAT.lost : Fld := ⟨PAIR_STAT, 6, 1⟩
abbrev PAIR_STAT.mismatch : Fld := ⟨PAIR_STAT, 7, 1⟩
abbrev PAIR_STAT.slot_diff : Fld := ⟨PAIR_STAT, 8, 1⟩
abbrev PAIR_STAT.diverge : Fld := ⟨PAIR_STAT, 9, 1⟩
abbrev PAIR_STAT.stage : Fld := ⟨PAIR_STAT, 10, 2⟩
abbrev PAIR_STAT.link : Fld := ⟨PAIR_STAT, 12, 2⟩
abbrev PAIR_STAT.adopted : Fld := ⟨PAIR_STAT, 32, 32⟩
/-- PAIR_ROLE: BAR0 offset. 13_pair.md R354 -/
abbrev PAIR_ROLE : Nat := 0xD00010
abbrev PAIR_ROLE.role : Fld := ⟨PAIR_ROLE, 0, 1⟩
abbrev PAIR_ROLE.partner_role : Fld := ⟨PAIR_ROLE, 1, 1⟩
abbrev PAIR_ROLE.partner_glb : Fld := ⟨PAIR_ROLE, 2, 2⟩
abbrev PAIR_ROLE.partner_id : Fld := ⟨PAIR_ROLE, 32, 32⟩
/-- PAIR_LINK_STAT: BAR0 offset. 13_pair.md R355 -/
abbrev PAIR_LINK_STAT : Nat := 0xD00018
abbrev PAIR_LINK_STAT.up : Fld := ⟨PAIR_LINK_STAT, 0, 1⟩
abbrev PAIR_LINK_STAT.lanes : Fld := ⟨PAIR_LINK_STAT, 1, 5⟩
abbrev PAIR_LINK_STAT.retrains : Fld := ⟨PAIR_LINK_STAT, 16, 16⟩
abbrev PAIR_LINK_STAT.retries : Fld := ⟨PAIR_LINK_STAT, 32, 16⟩
abbrev PAIR_LINK_STAT.uncorr : Fld := ⟨PAIR_LINK_STAT, 48, 16⟩
/-- PAIR_MISMATCH_CNT: BAR0 offset. 13_pair.md R356 -/
abbrev PAIR_MISMATCH_CNT : Nat := 0xD00020
abbrev PAIR_MISMATCH_CNT.stage1 : Fld := ⟨PAIR_MISMATCH_CNT, 0, 16⟩
abbrev PAIR_MISMATCH_CNT.stage2 : Fld := ⟨PAIR_MISMATCH_CNT, 16, 16⟩
abbrev PAIR_MISMATCH_CNT.stage3 : Fld := ⟨PAIR_MISMATCH_CNT, 32, 8⟩
abbrev PAIR_MISMATCH_CNT.ended : Fld := ⟨PAIR_MISMATCH_CNT, 40, 8⟩
abbrev PAIR_MISMATCH_CNT.step : Fld := ⟨PAIR_MISMATCH_CNT, 48, 16⟩
/-- MEM_HBM_STAT_s: BAR0 offset. 15_memory.md R394 -/
abbrev MEM_HBM_STAT (s : Nat) : Nat := 0xE00000 + 0x20 * s
abbrev MEM_HBM_STAT.state (s : Nat) : Fld := ⟨MEM_HBM_STAT s, 0, 2⟩
abbrev MEM_HBM_STAT.sr (s : Nat) : Fld := ⟨MEM_HBM_STAT s, 2, 1⟩
abbrev MEM_HBM_STAT.rate (s : Nat) : Fld := ⟨MEM_HBM_STAT s, 3, 2⟩
abbrev MEM_HBM_STAT.refresh (s : Nat) : Fld := ⟨MEM_HBM_STAT s, 5, 3⟩
abbrev MEM_HBM_STAT.temp (s : Nat) : Fld := ⟨MEM_HBM_STAT s, 8, 8⟩
abbrev MEM_HBM_STAT.ue (s : Nat) : Fld := ⟨MEM_HBM_STAT s, 16, 1⟩
abbrev MEM_HBM_STAT.ce_hi (s : Nat) : Fld := ⟨MEM_HBM_STAT s, 17, 1⟩
abbrev MEM_HBM_STAT.fail (s : Nat) : Fld := ⟨MEM_HBM_STAT s, 18, 1⟩
abbrev MEM_HBM_STAT.trains (s : Nat) : Fld := ⟨MEM_HBM_STAT s, 20, 16⟩
abbrev MEM_HBM_STAT.repairs (s : Nat) : Fld := ⟨MEM_HBM_STAT s, 36, 8⟩
/-- MEM_ECC_CE_s: BAR0 offset. 15_memory.md R395 -/
abbrev MEM_ECC_CE (s : Nat) : Nat := 0xE00008 + 0x20 * s
abbrev MEM_ECC_CE.count (s : Nat) : Fld := ⟨MEM_ECC_CE s, 0, 28⟩
abbrev MEM_ECC_CE.line (s : Nat) : Fld := ⟨MEM_ECC_CE s, 30, 34⟩
/-- MEM_ECC_UE_s: BAR0 offset. 15_memory.md R396 -/
abbrev MEM_ECC_UE (s : Nat) : Nat := 0xE00010 + 0x20 * s
abbrev MEM_ECC_UE.count (s : Nat) : Fld := ⟨MEM_ECC_UE s, 0, 16⟩
abbrev MEM_ECC_UE.area (s : Nat) : Fld := ⟨MEM_ECC_UE s, 16, 4⟩
abbrev MEM_ECC_UE.line (s : Nat) : Fld := ⟨MEM_ECC_UE s, 30, 34⟩
/-- MEM_REFRESH_MODE: BAR0 offset. 15_memory.md R397 -/
abbrev MEM_REFRESH_MODE : Nat := 0xE00200
abbrev MEM_REFRESH_MODE.mode : Fld := ⟨MEM_REFRESH_MODE, 0, 3⟩
abbrev MEM_REFRESH_MODE.floor : Fld := ⟨MEM_REFRESH_MODE, 3, 3⟩
abbrev MEM_REFRESH_MODE.band : Fld := ⟨MEM_REFRESH_MODE, 6, 3⟩
abbrev MEM_REFRESH_MODE.hold_ms : Fld := ⟨MEM_REFRESH_MODE, 16, 16⟩
/-- MEM_SCR_ECC: BAR0 offset. 15_memory.md R398 -/
abbrev MEM_SCR_ECC : Nat := 0xE00208
abbrev MEM_SCR_ECC.ce : Fld := ⟨MEM_SCR_ECC, 0, 20⟩
abbrev MEM_SCR_ECC.ue_count : Fld := ⟨MEM_SCR_ECC, 20, 16⟩
abbrev MEM_SCR_ECC.last_ue : Fld := ⟨MEM_SCR_ECC, 36, 1⟩
abbrev MEM_SCR_ECC.ue : Fld := ⟨MEM_SCR_ECC, 37, 1⟩
abbrev MEM_SCR_ECC.ce_storm : Fld := ⟨MEM_SCR_ECC, 38, 1⟩
abbrev MEM_SCR_ECC.addr : Fld := ⟨MEM_SCR_ECC, 40, 24⟩
/-- MEM_SECURE_BASE: BAR0 offset. 15_memory.md R399 -/
abbrev MEM_SECURE_BASE : Nat := 0xE00210
abbrev MEM_SECURE_BASE.base : Fld := ⟨MEM_SECURE_BASE, 0, 27⟩
abbrev MEM_SECURE_BASE.host_start : Fld := ⟨MEM_SECURE_BASE, 32, 8⟩
abbrev MEM_SECURE_BASE.wiping : Fld := ⟨MEM_SECURE_BASE, 40, 1⟩
/-- MBX_CMD: BAR0 offset. 16_cxl.md R422 -/
abbrev MBX_CMD : Nat := 0xF00000
abbrev MBX_CMD.opcode : Fld := ⟨MBX_CMD, 0, 16⟩
abbrev MBX_CMD.in_len : Fld := ⟨MBX_CMD, 16, 13⟩
/-- MBX_STAT: BAR0 offset. 16_cxl.md R423 -/
abbrev MBX_STAT : Nat := 0xF00008
abbrev MBX_STAT.busy : Fld := ⟨MBX_STAT, 0, 1⟩
abbrev MBX_STAT.done : Fld := ⟨MBX_STAT, 1, 1⟩
abbrev MBX_STAT.ready : Fld := ⟨MBX_STAT, 2, 1⟩
abbrev MBX_STAT.overrun : Fld := ⟨MBX_STAT, 3, 1⟩
abbrev MBX_STAT.status : Fld := ⟨MBX_STAT, 8, 8⟩
abbrev MBX_STAT.out_len : Fld := ⟨MBX_STAT, 16, 13⟩
abbrev MBX_STAT.count : Fld := ⟨MBX_STAT, 32, 16⟩
/-- MBX_DATA: BAR0 offset. 16_cxl.md R424 -/
abbrev MBX_DATA (w : Nat) : Nat := 0xF01000 + 0x8 * w
abbrev MBX_DATA.data (w : Nat) : Fld := ⟨MBX_DATA w, 0, 64⟩
/-- RGN_STATE: BAR0 offset. 12_integrity.md R333 -/
abbrev RGN_STATE (n : Nat) : Nat := 0x1000000 + 0x10000 * n
abbrev RGN_STATE.state (n : Nat) : Fld := ⟨RGN_STATE n, 0, 3⟩
abbrev RGN_STATE.logical (n : Nat) : Fld := ⟨RGN_STATE n, 3, 6⟩
abbrev RGN_STATE.band (n : Nat) : Fld := ⟨RGN_STATE n, 9, 3⟩
abbrev RGN_STATE.warm (n : Nat) : Fld := ⟨RGN_STATE n, 12, 1⟩
abbrev RGN_STATE.unusable (n : Nat) : Fld := ⟨RGN_STATE n, 13, 1⟩
abbrev RGN_STATE.spares_left (n : Nat) : Fld := ⟨RGN_STATE n, 14, 6⟩
abbrev RGN_STATE.resets (n : Nat) : Fld := ⟨RGN_STATE n, 20, 16⟩
/-- RGN_CTL: BAR0 offset. 12_integrity.md R334 -/
abbrev RGN_CTL (n : Nat) : Nat := 0x1000008 + 0x10000 * n
abbrev RGN_CTL.rattle (n : Nat) : Fld := ⟨RGN_CTL n, 0, 1⟩
abbrev RGN_CTL.reset (n : Nat) : Fld := ⟨RGN_CTL n, 1, 1⟩
/-- RGN_RESID_BASE: BAR0 offset. 04_correction.md R96 -/
abbrev RGN_RESID_BASE (n : Nat) : Nat := 0x1000010 + 0x10000 * n
abbrev RGN_RESID_BASE.addr (n : Nat) : Fld := ⟨RGN_RESID_BASE n, 0, 27⟩
abbrev RGN_RESID_BASE.entries (n : Nat) : Fld := ⟨RGN_RESID_BASE n, 32, 11⟩
/-- RGN_SAT_CNT: BAR0 offset. 06_recipes.md R137 -/
abbrev RGN_SAT_CNT (n : Nat) : Nat := 0x1000018 + 0x10000 * n
abbrev RGN_SAT_CNT.sat (n : Nat) : Fld := ⟨RGN_SAT_CNT n, 0, 32⟩
abbrev RGN_SAT_CNT.groups (n : Nat) : Fld := ⟨RGN_SAT_CNT n, 32, 32⟩
/-- RGN_ZERO_CNT: BAR0 offset. 06_recipes.md R136 -/
abbrev RGN_ZERO_CNT (n : Nat) : Nat := 0x1000020 + 0x10000 * n
abbrev RGN_ZERO_CNT.layer (n : Nat) : Fld := ⟨RGN_ZERO_CNT n, 0, 16⟩
abbrev RGN_ZERO_CNT.slot (n : Nat) : Fld := ⟨RGN_ZERO_CNT n, 16, 2⟩
abbrev RGN_ZERO_CNT.which (n : Nat) : Fld := ⟨RGN_ZERO_CNT n, 18, 2⟩
abbrev RGN_ZERO_CNT.valid (n : Nat) : Fld := ⟨RGN_ZERO_CNT n, 20, 1⟩
abbrev RGN_ZERO_CNT.zero (n : Nat) : Fld := ⟨RGN_ZERO_CNT n, 32, 32⟩
/-- RGN_TILE_SAT: BAR0 offset. 05_accumulation.md R109 -/
abbrev RGN_TILE_SAT (n : Nat) : Nat := 0x1000028 + 0x10000 * n
abbrev RGN_TILE_SAT.sat (n : Nat) : Fld := ⟨RGN_TILE_SAT n, 0, 64⟩
/-- RGN_RECIPE_FLAG: BAR0 offset. 06_recipes.md R135 -/
abbrev RGN_RECIPE_FLAG (n : Nat) : Nat := 0x1000030 + 0x10000 * n
abbrev RGN_RECIPE_FLAG.layer (n : Nat) : Fld := ⟨RGN_RECIPE_FLAG n, 0, 16⟩
abbrev RGN_RECIPE_FLAG.slot (n : Nat) : Fld := ⟨RGN_RECIPE_FLAG n, 16, 2⟩
abbrev RGN_RECIPE_FLAG.zero (n : Nat) : Fld := ⟨RGN_RECIPE_FLAG n, 18, 1⟩
abbrev RGN_RECIPE_FLAG.sat (n : Nat) : Fld := ⟨RGN_RECIPE_FLAG n, 19, 1⟩
abbrev RGN_RECIPE_FLAG.valid (n : Nat) : Fld := ⟨RGN_RECIPE_FLAG n, 20, 1⟩
abbrev RGN_RECIPE_FLAG.overflow (n : Nat) : Fld := ⟨RGN_RECIPE_FLAG n, 21, 1⟩
abbrev RGN_RECIPE_FLAG.depth (n : Nat) : Fld := ⟨RGN_RECIPE_FLAG n, 22, 7⟩
abbrev RGN_RECIPE_FLAG.pop (n : Nat) : Fld := ⟨RGN_RECIPE_FLAG n, 29, 1⟩
abbrev RGN_RECIPE_FLAG.nowide (n : Nat) : Fld := ⟨RGN_RECIPE_FLAG n, 30, 1⟩
abbrev RGN_RECIPE_FLAG.step (n : Nat) : Fld := ⟨RGN_RECIPE_FLAG n, 32, 32⟩
/-- RGN_SPARE_MAP: BAR0 offset. 12_integrity.md R335 -/
abbrev RGN_SPARE_MAP (n : Nat) : Nat := 0x1000038 + 0x10000 * n
abbrev RGN_SPARE_MAP.block (n : Nat) : Fld := ⟨RGN_SPARE_MAP n, 0, 11⟩
abbrev RGN_SPARE_MAP.phys (n : Nat) : Fld := ⟨RGN_SPARE_MAP n, 11, 11⟩
abbrev RGN_SPARE_MAP.remapped (n : Nat) : Fld := ⟨RGN_SPARE_MAP n, 22, 1⟩
abbrev RGN_SPARE_MAP.columns (n : Nat) : Fld := ⟨RGN_SPARE_MAP n, 23, 11⟩
/-- RGN_CFG_VOTE: BAR0 offset. 12_integrity.md R336 -/
abbrev RGN_CFG_VOTE (n : Nat) : Nat := 0x1000040 + 0x10000 * n
abbrev RGN_CFG_VOTE.corrected (n : Nat) : Fld := ⟨RGN_CFG_VOTE n, 0, 24⟩
abbrev RGN_CFG_VOTE.scrubs (n : Nat) : Fld := ⟨RGN_CFG_VOTE n, 24, 16⟩
abbrev RGN_CFG_VOTE.last_word (n : Nat) : Fld := ⟨RGN_CFG_VOTE n, 40, 16⟩
/-- RGN_DEBUG_CTL: BAR0 offset. 02_arrays.md R49 -/
abbrev RGN_DEBUG_CTL (n : Nat) : Nat := 0x1000100 + 0x10000 * n
abbrev RGN_DEBUG_CTL.arm (n : Nat) : Fld := ⟨RGN_DEBUG_CTL n, 0, 1⟩
abbrev RGN_DEBUG_CTL.done (n : Nat) : Fld := ⟨RGN_DEBUG_CTL n, 1, 1⟩
abbrev RGN_DEBUG_CTL.avail (n : Nat) : Fld := ⟨RGN_DEBUG_CTL n, 2, 1⟩
abbrev RGN_DEBUG_CTL.sel (n : Nat) : Fld := ⟨RGN_DEBUG_CTL n, 4, 2⟩
abbrev RGN_DEBUG_CTL.block (n : Nat) : Fld := ⟨RGN_DEBUG_CTL n, 6, 11⟩
abbrev RGN_DEBUG_CTL.array (n : Nat) : Fld := ⟨RGN_DEBUG_CTL n, 17, 9⟩
abbrev RGN_DEBUG_CTL.tile (n : Nat) : Fld := ⟨RGN_DEBUG_CTL n, 26, 6⟩
abbrev RGN_DEBUG_CTL.count (n : Nat) : Fld := ⟨RGN_DEBUG_CTL n, 32, 16⟩
abbrev RGN_DEBUG_CTL.rdptr (n : Nat) : Fld := ⟨RGN_DEBUG_CTL n, 48, 16⟩
/-- RGN_DEBUG_DATA: BAR0 offset. 02_arrays.md R50 -/
abbrev RGN_DEBUG_DATA (n : Nat) : Nat := 0x1000108 + 0x10000 * n
abbrev RGN_DEBUG_DATA.data (n : Nat) : Fld := ⟨RGN_DEBUG_DATA n, 0, 64⟩

/-- The registers of the GLB window (R553, R554). -/
def regRowsGlb : List RegRow :=
  [
   ⟨"GLB_ID", 0x0, 0x8, 1, 0x0#64, .kept,
     [⟨"vendor", 0, 16, .ro⟩,
      ⟨"device", 16, 16, .ro⟩,
      ⟨"rev", 32, 8, .ro⟩,
      ⟨"serial", 40, 24, .ro⟩]⟩,
   ⟨"GLB_CAPS", 0x8, 0x8, 1, 0x4FFFFC30C3034#64, .kept,
     [⟨"regions", 0, 8, .ro⟩,
      ⟨"service", 8, 8, .ro⟩,
      ⟨"stacks", 16, 4, .ro⟩,
      ⟨"stack_gb", 20, 8, .ro⟩,
      ⟨"gen_slots", 28, 3, .ro⟩,
      ⟨"pair", 31, 1, .ro⟩,
      ⟨"parcel", 32, 1, .ro⟩,
      ⟨"formats", 33, 15, .ro⟩,
      ⟨"tables", 48, 4, .ro⟩]⟩,
   ⟨"GLB_STATE", 0x10, 0x8, 1, 0x0#64, .rebuilt,
     [⟨"state", 0, 3, .rov⟩,
      ⟨"rom_runner", 3, 1, .rov⟩,
      ⟨"tin_cause", 8, 6, .rov⟩,
      ⟨"debug", 16, 1, .rov⟩,
      ⟨"halt_cause", 17, 3, .rov⟩,
      ⟨"changes", 32, 32, .rov⟩]⟩,
   ⟨"GLB_SUMMARY", 0x18, 0x8, 1, 0x0#64, .rebuilt,
     [⟨"groups", 0, 15, .rov⟩]⟩,
   ⟨"GLB_CMD", 0x20, 0x8, 1, 0x0#64, .reset,
     [⟨"cmd", 0, 4, .wo⟩,
      ⟨"key", 8, 16, .wo⟩,
      ⟨"status", 24, 8, .rov⟩]⟩,
   ⟨"GLB_SCRATCH", 0x28, 0x8, 1, 0x0#64, .kept,
     [⟨"data", 0, 64, .rw⟩]⟩,
   ⟨"GLB_STEP", 0x30, 0x8, 1, 0x0#64, .kept,
     [⟨"step", 0, 64, .rov⟩]⟩]

/-- The registers of the ICU window (R553, R554). -/
def regRowsIcu : List RegRow :=
  [
   ⟨"ICU_SRC_CFG", 0x100000, 0x8, 256, 0x0#64, .reset,
     [⟨"en", 0, 1, .rw⟩,
      ⟨"sense", 1, 3, .rw⟩,
      ⟨"prio", 4, 3, .rw⟩,
      ⟨"cores", 8, 4, .rw⟩,
      ⟨"host", 12, 1, .rw⟩,
      ⟨"raw", 13, 1, .rov⟩,
      ⟨"owner", 15, 3, .rov⟩]⟩,
   ⟨"ICU_PEND", 0x100800, 0x8, 4, 0x0#64, .reset,
     [⟨"pend", 0, 64, .w1s⟩]⟩,
   ⟨"ICU_CLRPEND", 0x100820, 0x8, 4, 0x0#64, .reset,
     [⟨"clr", 0, 64, .wo⟩]⟩,
   ⟨"ICU_ACTIVE", 0x100840, 0x8, 4, 0x0#64, .reset,
     [⟨"active", 0, 64, .rov⟩]⟩,
   ⟨"ICU_TGT_CFG", 0x100900, 0x20, 5, 0x0#64, .reset,
     [⟨"mask_all", 0, 1, .rw⟩,
      ⟨"thr", 1, 3, .rw⟩,
      ⟨"sleep", 4, 1, .rov⟩,
      ⟨"waiting", 5, 1, .rov⟩]⟩,
   ⟨"ICU_CLAIM", 0x100908, 0x20, 5, 0x0#64, .reset,
     [⟨"source", 0, 8, .rov⟩,
      ⟨"valid", 8, 1, .rov⟩,
      ⟨"prio", 9, 3, .rov⟩]⟩,
   ⟨"ICU_COMPLETE", 0x100910, 0x20, 5, 0x0#64, .reset,
     [⟨"source", 0, 8, .wo⟩]⟩,
   ⟨"ICU_CAUSE", 0x100A00, 0x8, 16, 0x0#64, .reset,
     [⟨"cause", 0, 64, .rov⟩]⟩]

/-- The registers of the EVT window (R553, R554). -/
def regRowsEvt : List RegRow :=
  [
   ⟨"EVT_CFG", 0x200000, 0x8, 1, 0x0#64, .reset,
     [⟨"en", 0, 1, .rw⟩,
      ⟨"lost", 1, 1, .w1c⟩,
      ⟨"ring_err", 2, 1, .w1c⟩,
      ⟨"thr", 8, 16, .rw⟩]⟩,
   ⟨"EVT_BASE", 0x200008, 0x8, 1, 0x0#64, .reset,
     [⟨"addr", 12, 52, .rw⟩]⟩,
   ⟨"EVT_SIZE", 0x200010, 0x8, 1, 0xF#64, .reset,
     [⟨"log2_entries", 0, 5, .rw⟩]⟩,
   ⟨"EVT_HEAD", 0x200018, 0x8, 1, 0x0#64, .reset,
     [⟨"head", 0, 32, .rov⟩]⟩,
   ⟨"EVT_TAIL", 0x200020, 0x8, 1, 0x0#64, .reset,
     [⟨"tail", 0, 32, .rw⟩]⟩,
   ⟨"EVT_LOST", 0x200100, 0x8, 16, 0x0#64, .kept,
     [⟨"run", 0, 16, .rov⟩,
      ⟨"first", 16, 24, .rov⟩,
      ⟨"last", 40, 24, .rov⟩]⟩,
   ⟨"EVT_TRACE_CFG", 0x200200, 0x8, 1, 0x0#64, .reset,
     [⟨"classes", 0, 16, .rw⟩]⟩,
   ⟨"EVT_TRACE_DROP", 0x200208, 0x8, 1, 0x0#64, .reset,
     [⟨"dropped", 0, 32, .rov⟩]⟩,
   ⟨"EVT_TELEM_CAP", 0x200210, 0x8, 1, 0x40#64, .reset,
     [⟨"cap", 0, 16, .rw⟩,
      ⟨"rate", 32, 16, .rov⟩,
      ⟨"staged", 48, 16, .rov⟩]⟩]

/-- The registers of the PWR window (R553, R554). -/
def regRowsPwr : List RegRow :=
  [
   ⟨"CLK_ROOT_STAT", 0x300000, 0x8, 1, 0x0#64, .kept,
     [⟨"lock", 0, 1, .rov⟩,
      ⟨"ref_ok", 1, 1, .rov⟩,
      ⟨"ssc", 2, 1, .rov⟩,
      ⟨"unlocks", 16, 16, .rov⟩,
      ⟨"lock_us", 32, 16, .rov⟩]⟩,
   ⟨"CLK_DIV", 0x300008, 0x8, 1, 0x1F478823#64, .kept,
     [⟨"core", 0, 4, .rov⟩,
      ⟨"net", 4, 4, .ro⟩,
      ⟨"mgmt", 8, 4, .ro⟩,
      ⟨"phase", 12, 7, .ro⟩,
      ⟨"mcv", 19, 10, .ro⟩]⟩,
   ⟨"PWR_STATE", 0x300010, 0x8, 1, 0x0#64, .kept,
     [⟨"state", 0, 3, .rov⟩,
      ⟨"target", 3, 3, .rov⟩,
      ⟨"late", 6, 1, .w1c⟩,
      ⟨"clk_err", 7, 1, .w1c⟩,
      ⟨"cause", 8, 4, .rov⟩,
      ⟨"due_open", 12, 1, .rov⟩,
      ⟨"tin", 13, 1, .w1c⟩,
      ⟨"wakes", 16, 32, .rov⟩]⟩,
   ⟨"PWR_POLICY", 0x300018, 0x8, 1, 0x64001403E803#64, .kept,
     [⟨"auto", 0, 1, .rw⟩,
      ⟨"maint_wake", 1, 1, .rw⟩,
      ⟨"guard_us", 8, 16, .rw⟩,
      ⟨"assume_ms", 24, 16, .rw⟩,
      ⟨"hold_ms", 40, 16, .rw⟩]⟩,
   ⟨"PWR_NEXT_EVENT", 0x300020, 0x8, 1, 0xFFFFFFFFFF#64, .kept,
     [⟨"time_us", 0, 40, .rov⟩,
      ⟨"kind", 40, 3, .rov⟩,
      ⟨"id", 48, 16, .rov⟩]⟩,
   ⟨"PWR_FLOOR", 0x300028, 0x8, 1, 0x4#64, .kept,
     [⟨"max_state", 0, 3, .rw⟩]⟩,
   ⟨"PWR_RESID", 0x300030, 0x8, 5, 0x0#64, .kept,
     [⟨"us", 0, 64, .rov⟩]⟩]

/-- The registers of the THM window (R553, R554). -/
def regRowsThm : List RegRow :=
  [
   ⟨"THM_SENSOR", 0x400000, 0x8, 53, 0x0#64, .kept,
     [⟨"temp", 0, 16, .rov⟩,
      ⟨"eff", 16, 16, .rov⟩,
      ⟨"rate", 32, 12, .rov⟩,
      ⟨"suspect", 44, 1, .rov⟩,
      ⟨"valid", 45, 1, .rov⟩,
      ⟨"trip", 46, 1, .rov⟩,
      ⟨"seq", 48, 16, .rov⟩]⟩,
   ⟨"THM_BAND", 0x400200, 0x8, 1, 0x0#64, .kept,
     [⟨"die_band", 0, 3, .rov⟩,
      ⟨"region", 3, 6, .rov⟩,
      ⟨"tj", 16, 16, .rov⟩,
      ⟨"bands", 32, 5, .rov⟩]⟩,
   ⟨"THM_CFG", 0x400208, 0x8, 1, 0x362786E698030#64, .kept,
     [⟨"warn_rate", 0, 8, .rwl⟩,
      ⟨"recal_rate", 8, 8, .rwl⟩,
      ⟨"throttle_c", 16, 8, .rwl⟩,
      ⟨"tin_c", 24, 8, .ro⟩,
      ⟨"trip_c", 32, 8, .ro⟩,
      ⟨"hyst", 40, 4, .ro⟩,
      ⟨"susp_delta", 44, 4, .ro⟩,
      ⟨"susp_time", 48, 4, .ro⟩]⟩,
   ⟨"THM_STAT", 0x400210, 0x8, 1, 0x0#64, .kept,
     [⟨"rise_warn", 0, 1, .w1c⟩,
      ⟨"throttled", 1, 1, .w1c⟩,
      ⟨"tin_temp", 2, 1, .w1c⟩,
      ⟨"suspect", 3, 1, .w1c⟩,
      ⟨"uncal", 4, 1, .w1c⟩,
      ⟨"trip", 5, 1, .w1c⟩,
      ⟨"below40", 6, 1, .w1c⟩,
      ⟨"level", 8, 2, .rov⟩,
      ⟨"guard", 10, 1, .rov⟩,
      ⟨"rate_on", 11, 1, .rov⟩,
      ⟨"tj_max", 16, 16, .rov⟩]⟩,
   ⟨"THM_SUSPECT_0", 0x400300, 0x8, 1, 0x0#64, .kept,
     [⟨"now", 0, 53, .rov⟩]⟩,
   ⟨"THM_SUSPECT_1", 0x400308, 0x8, 1, 0x0#64, .kept,
     [⟨"since", 0, 53, .w1c⟩]⟩]

/-- The registers of the MCV window (R553, R554). -/
def regRowsMcv : List RegRow :=
  [
   ⟨"MCV_CTL", 0x500000, 0x8, 1, 0x0#64, .reset,
     [⟨"run", 0, 1, .rov⟩,
      ⟨"fw_fifo", 1, 1, .rw⟩,
      ⟨"flush", 2, 1, .wo⟩,
      ⟨"fifo_thr", 4, 7, .rw⟩]⟩,
   ⟨"MCV_CMD", 0x500008, 0x8, 1, 0x0#64, .reset,
     [⟨"cmd", 0, 4, .wo⟩]⟩,
   ⟨"MCV_STAT", 0x500010, 0x8, 1, 0x0#64, .reset,
     [⟨"cal_busy", 0, 1, .rov⟩,
      ⟨"cal_ok", 1, 1, .rov⟩,
      ⟨"cal_fail", 2, 1, .w1c⟩,
      ⟨"ref_settled", 3, 1, .rov⟩,
      ⟨"overflow", 4, 1, .w1c⟩,
      ⟨"depth", 5, 7, .rov⟩,
      ⟨"entry", 12, 5, .rov⟩,
      ⟨"channel", 17, 6, .rov⟩,
      ⟨"lost", 24, 16, .rov⟩,
      ⟨"cycles", 40, 24, .rov⟩]⟩,
   ⟨"MCV_REFBUF", 0x500018, 0x8, 1, 0x0#64, .reset,
     [⟨"en", 0, 1, .rw⟩,
      ⟨"settled", 1, 1, .rov⟩,
      ⟨"since", 8, 16, .rov⟩]⟩,
   ⟨"MCV_OFS", 0x500020, 0x8, 1, 0x0#64, .kept,
     [⟨"ofs", 0, 32, .rov⟩]⟩,
   ⟨"MCV_GAIN", 0x500028, 0x8, 1, 0x40000000#64, .kept,
     [⟨"gain", 0, 32, .rov⟩]⟩,
   ⟨"MCV_SCAN", 0x500100, 0x8, 32, 0x0#64, .rebuilt,
     [⟨"first", 0, 6, .rw⟩,
      ⟨"last", 6, 6, .rw⟩,
      ⟨"rate", 12, 3, .rw⟩,
      ⟨"en", 15, 1, .rw⟩,
      ⟨"fifo", 16, 1, .rw⟩]⟩,
   ⟨"MCV_FIFO", 0x500300, 0x8, 1, 0x0#64, .reset,
     [⟨"entry", 0, 64, .rov⟩]⟩,
   ⟨"MCV_RESULT", 0x500400, 0x8, 64, 0x0#64, .reset,
     [⟨"result", 0, 64, .rov⟩]⟩]

/-- The registers of the CAL window (R553, R554). -/
def regRowsCal : List RegRow :=
  [
   ⟨"CAL_CTL", 0x600000, 0x8, 1, 0x147#64, .reloaded,
     [⟨"sched_en", 0, 1, .rwl⟩,
      ⟨"la_en", 1, 1, .rwl⟩,
      ⟨"rise_en", 2, 1, .rwl⟩,
      ⟨"la_margin", 4, 8, .rwl⟩,
      ⟨"req_region", 16, 6, .wo⟩,
      ⟨"req", 22, 1, .wo⟩]⟩,
   ⟨"CAL_STAT", 0x600008, 0x8, 1, 0x0#64, .reset,
     [⟨"busy", 0, 1, .rov⟩,
      ⟨"staged", 1, 1, .rov⟩,
      ⟨"ref_warn", 2, 1, .w1c⟩,
      ⟨"ref_fail", 3, 1, .w1c⟩,
      ⟨"fit_fail", 4, 1, .w1c⟩,
      ⟨"immediate", 5, 1, .rov⟩,
      ⟨"region", 6, 6, .rov⟩,
      ⟨"passes", 16, 32, .rov⟩,
      ⟨"rewrites", 48, 16, .rov⟩]⟩,
   ⟨"CAL_REF", 0x600010, 0x8, 1, 0x0#64, .reset,
     [⟨"vref_uv", 0, 24, .rov⟩,
      ⟨"buf_dev", 24, 16, .rov⟩,
      ⟨"warn", 40, 1, .rov⟩,
      ⟨"fail", 41, 1, .rov⟩,
      ⟨"fails", 42, 2, .rov⟩]⟩,
   ⟨"CAL_COMMIT", 0x600018, 0x8, 1, 0x0#64, .reset,
     [⟨"step", 0, 32, .rov⟩,
      ⟨"blocks", 32, 17, .rov⟩,
      ⟨"pending", 49, 1, .rov⟩]⟩,
   ⟨"CAL_SCHED", 0x600020, 0x8, 1, 0x3C1F0258#64, .reloaded,
     [⟨"interval", 0, 16, .rwl⟩,
      ⟨"drift_thr", 16, 8, .rwl⟩,
      ⟨"tint", 24, 8, .ro⟩,
      ⟨"trim", 32, 3, .ro⟩,
      ⟨"refresh", 35, 3, .ro⟩]⟩,
   ⟨"CAL_SCHED", 0x600028, 0x8, 1, 0x13C1F012C#64, .reloaded,
     [⟨"interval", 0, 16, .rwl⟩,
      ⟨"drift_thr", 16, 8, .rwl⟩,
      ⟨"tint", 24, 8, .ro⟩,
      ⟨"trim", 32, 3, .ro⟩,
      ⟨"refresh", 35, 3, .ro⟩]⟩,
   ⟨"CAL_SCHED", 0x600030, 0x8, 1, 0x2401F0078#64, .reloaded,
     [⟨"interval", 0, 16, .rwl⟩,
      ⟨"drift_thr", 16, 8, .rwl⟩,
      ⟨"tint", 24, 8, .ro⟩,
      ⟨"trim", 32, 3, .ro⟩,
      ⟨"refresh", 35, 3, .ro⟩]⟩,
   ⟨"CAL_SCHED", 0x600038, 0x8, 1, 0xB481F003C#64, .reloaded,
     [⟨"interval", 0, 16, .rwl⟩,
      ⟨"drift_thr", 16, 8, .rwl⟩,
      ⟨"tint", 24, 8, .ro⟩,
      ⟨"trim", 32, 3, .ro⟩,
      ⟨"refresh", 35, 3, .ro⟩]⟩,
   ⟨"CAL_SCHED", 0x600040, 0x8, 1, 0x14501F001E#64, .reloaded,
     [⟨"interval", 0, 16, .rwl⟩,
      ⟨"drift_thr", 16, 8, .rwl⟩,
      ⟨"tint", 24, 8, .ro⟩,
      ⟨"trim", 32, 3, .ro⟩,
      ⟨"refresh", 35, 3, .ro⟩]⟩,
   ⟨"CAL_WARMUP", 0x600048, 0x8, 1, 0x0#64, .rebuilt,
     [⟨"active", 0, 1, .rov⟩,
      ⟨"sweep_done", 1, 1, .rov⟩,
      ⟨"elapsed", 2, 10, .rov⟩,
      ⟨"warm_blocks", 12, 17, .rov⟩,
      ⟨"sweep_ms", 29, 16, .rov⟩]⟩,
   ⟨"CAL_QUALITY", 0x600050, 0x8, 1, 0x0#64, .reset,
     [⟨"worst_r", 0, 16, .rov⟩,
      ⟨"worst_region", 16, 6, .rov⟩,
      ⟨"worst_block", 22, 11, .rov⟩,
      ⟨"mean_r", 33, 16, .rov⟩,
      ⟨"over", 49, 15, .rov⟩]⟩]

/-- The registers of the SEC window (R553, R554). -/
def regRowsSec : List RegRow :=
  [
   ⟨"SEC_LCS", 0x700000, 0x8, 1, 0x0#64, .kept,
     [⟨"state", 0, 3, .rov⟩,
      ⟨"debug_entries", 3, 4, .rov⟩,
      ⟨"identity", 7, 1, .rov⟩,
      ⟨"cfg_key", 8, 1, .rov⟩,
      ⟨"tin_key", 9, 1, .rov⟩,
      ⟨"debug", 10, 1, .rov⟩,
      ⟨"nonce", 32, 32, .rov⟩]⟩,
   ⟨"SEC_LCS_REQ", 0x700008, 0x8, 1, 0x0#64, .reset,
     [⟨"target", 0, 3, .rw⟩,
      ⟨"go", 3, 1, .wo⟩,
      ⟨"busy", 4, 1, .rov⟩,
      ⟨"done", 5, 1, .w1c⟩,
      ⟨"err", 6, 1, .w1c⟩,
      ⟨"code", 8, 8, .rov⟩,
      ⟨"tok", 16, 21, .rw⟩]⟩,
   ⟨"SEC_TAMPER_STAT", 0x700010, 0x8, 1, 0x0#64, .reset,
     [⟨"pin", 0, 1, .w1c⟩,
      ⟨"volt", 1, 1, .w1c⟩,
      ⟨"clock", 2, 1, .w1c⟩,
      ⟨"temp", 3, 1, .w1c⟩,
      ⟨"mesh", 4, 1, .w1c⟩,
      ⟨"pin_now", 8, 1, .rov⟩,
      ⟨"mesh_ok", 9, 1, .rov⟩]⟩,
   ⟨"SEC_TAMPER_CNT", 0x700018, 0x8, 1, 0x0#64, .kept,
     [⟨"count", 0, 32, .rov⟩,
      ⟨"last", 32, 3, .rov⟩]⟩,
   ⟨"SEC_WIPE_STAT", 0x700020, 0x8, 1, 0x0#64, .kept,
     [⟨"wiping", 0, 1, .rov⟩,
      ⟨"cause", 1, 3, .rov⟩,
      ⟨"last_10ns", 16, 16, .rov⟩,
      ⟨"wipes", 32, 32, .rov⟩]⟩,
   ⟨"SEC_ATTEST_CMD", 0x700028, 0x8, 1, 0x0#64, .reset,
     [⟨"go", 0, 1, .wo⟩,
      ⟨"busy", 1, 1, .rov⟩,
      ⟨"done", 2, 1, .w1c⟩,
      ⟨"err", 3, 1, .w1c⟩,
      ⟨"code", 4, 4, .rov⟩]⟩,
   ⟨"SEC_ATTEST_ADDR", 0x700030, 0x8, 1, 0x0#64, .reset,
     [⟨"addr", 6, 21, .rw⟩]⟩,
   ⟨"SEC_KEYHASH", 0x700038, 0x8, 1, 0x0#64, .kept,
     [⟨"fw", 0, 16, .ro⟩,
      ⟨"cfg", 16, 16, .rov⟩,
      ⟨"tin", 32, 16, .rov⟩,
      ⟨"identity", 48, 16, .rov⟩]⟩]

/-- The registers of the BOOT window (R553, R554). -/
def regRowsBoot : List RegRow :=
  [
   ⟨"BOOT_STAT", 0x800000, 0x8, 1, 0x0#64, .rebuilt,
     [⟨"stage", 0, 3, .rov⟩,
      ⟨"src", 3, 2, .rov⟩,
      ⟨"img_ok", 5, 1, .rov⟩,
      ⟨"cfg_ok", 6, 1, .rov⟩,
      ⟨"tin_err", 7, 1, .rov⟩,
      ⟨"no_tin", 8, 1, .rov⟩,
      ⟨"lock", 9, 1, .rov⟩,
      ⟨"img_fail", 10, 1, .w1c⟩,
      ⟨"cfg_fail", 11, 1, .w1c⟩,
      ⟨"recov_ready", 12, 1, .w1c⟩,
      ⟨"nvm_done", 13, 1, .w1c⟩,
      ⟨"nvm_err", 14, 1, .w1c⟩,
      ⟨"code", 16, 8, .rov⟩,
      ⟨"boot_ms", 32, 32, .rov⟩]⟩,
   ⟨"BOOT_IMG_INFO", 0x800008, 0x8, 1, 0x0#64, .rebuilt,
     [⟨"fw_version", 0, 32, .rov⟩,
      ⟨"len_kib", 32, 16, .rov⟩,
      ⟨"digest", 48, 16, .rov⟩]⟩,
   ⟨"BOOT_CFG_INFO", 0x800010, 0x8, 1, 0x0#64, .rebuilt,
     [⟨"cfg_version", 0, 32, .rov⟩,
      ⟨"params", 32, 12, .rov⟩,
      ⟨"keys", 44, 4, .rov⟩,
      ⟨"digest", 48, 16, .rov⟩]⟩,
   ⟨"BOOT_RECOV_CTL", 0x800018, 0x8, 1, 0x0#64, .reset,
     [⟨"state", 0, 3, .rov⟩,
      ⟨"fetch", 3, 1, .rw⟩,
      ⟨"err", 8, 8, .rov⟩,
      ⟨"bytes", 32, 32, .rov⟩]⟩,
   ⟨"BOOT_RECOV_ADDR", 0x800020, 0x8, 1, 0x0#64, .reset,
     [⟨"addr", 12, 52, .rw⟩]⟩,
   ⟨"BOOT_NVM_CTL", 0x800028, 0x8, 1, 0x0#64, .rebuilt,
     [⟨"ready", 0, 1, .rov⟩,
      ⟨"busy", 1, 1, .rov⟩,
      ⟨"item", 2, 2, .rov⟩,
      ⟨"size", 8, 8, .rov⟩,
      ⟨"clk_mhz", 16, 8, .rov⟩,
      ⟨"writes", 32, 32, .rov⟩]⟩]

/-- The registers of the SRV window (R553, R554). -/
def regRowsSrv : List RegRow :=
  [
   ⟨"SRV_CTL", 0x900000, 0x8, 1, 0x0#64, .kept,
     [⟨"tbl_en", 0, 4, .rw⟩,
      ⟨"hold", 4, 1, .rw⟩]⟩,
   ⟨"SRV_TBL_BASE", 0x900010, 0x10, 4, 0x0#64, .kept,
     [⟨"off", 12, 21, .rw⟩]⟩,
   ⟨"SRV_TBL_SIZE", 0x900018, 0x10, 4, 0x0#64, .kept,
     [⟨"slots", 0, 13, .rw⟩]⟩,
   ⟨"SRV_SCAN", 0x900050, 0x8, 1, 0x32#64, .kept,
     [⟨"interval", 0, 16, .rw⟩,
      ⟨"scans", 32, 32, .rov⟩]⟩,
   ⟨"SRV_STEP_BUDGET", 0x900058, 0x8, 1, 0x4E20#64, .kept,
     [⟨"budget", 0, 20, .rw⟩,
      ⟨"last", 32, 20, .rov⟩]⟩,
   ⟨"SRV_CHUNK", 0x900060, 0x8, 1, 0x8000040#64, .kept,
     [⟨"min", 0, 12, .rw⟩,
      ⟨"max", 16, 12, .rw⟩]⟩,
   ⟨"SRV_STAT", 0x900068, 0x8, 1, 0x0#64, .reset,
     [⟨"stage", 0, 2, .rov⟩,
      ⟨"storm", 2, 1, .rov⟩,
      ⟨"req_irq", 3, 1, .w1c⟩,
      ⟨"scan_err", 4, 1, .w1c⟩,
      ⟨"kv_low", 5, 1, .w1c⟩,
      ⟨"tbx_full", 6, 1, .w1c⟩,
      ⟨"tbx_exp", 7, 1, .w1c⟩,
      ⟨"tbl_live", 8, 4, .rov⟩,
      ⟨"running", 16, 11, .rov⟩,
      ⟨"taken", 27, 13, .rov⟩,
      ⟨"live", 40, 15, .rov⟩]⟩,
   ⟨"SRV_TOYBOX_BASE", 0x900070, 0x8, 1, 0x0#64, .kept,
     [⟨"en", 0, 1, .rw⟩,
      ⟨"addr", 12, 52, .rw⟩]⟩,
   ⟨"SRV_TOYBOX_SIZE", 0x900078, 0x8, 1, 0x0#64, .kept,
     [⟨"size", 0, 32, .rw⟩,
      ⟨"used", 32, 32, .rov⟩]⟩,
   ⟨"SRV_KV_STAT", 0x900080, 0x8, 1, 0x0#64, .rebuilt,
     [⟨"free_mib", 0, 28, .rov⟩,
      ⟨"total_mib", 28, 28, .rov⟩]⟩]

/-- The registers of the SMP window (R553, R554). -/
def regRowsSmp : List RegRow :=
  [
   ⟨"SMP_CTL", 0xA00000, 0x8, 1, 0x800000000000000#64, .kept,
     [⟨"mask_en", 0, 1, .rw⟩,
      ⟨"mask_off", 12, 21, .rw⟩,
      ⟨"mask_count", 33, 16, .rw⟩,
      ⟨"rep_window", 49, 15, .rw⟩]⟩,
   ⟨"SMP_SPEC", 0xA00008, 0x8, 1, 0x8100012#64, .kept,
     [⟨"k_default", 0, 4, .rw⟩,
      ⟨"en", 4, 1, .rw⟩,
      ⟨"draft_kind", 5, 2, .rw⟩,
      ⟨"draft_slot", 7, 2, .rw⟩,
      ⟨"draft_layers", 9, 8, .rw⟩,
      ⟨"reject_limit", 17, 4, .ro⟩,
      ⟨"pause_steps", 21, 8, .ro⟩]⟩,
   ⟨"SMP_STAT", 0xA00010, 0x8, 1, 0x0#64, .reset,
     [⟨"nan", 0, 1, .w1c⟩,
      ⟨"nodraft", 1, 1, .w1c⟩,
      ⟨"mask_err", 2, 1, .w1c⟩,
      ⟨"paused", 4, 15, .rov⟩,
      ⟨"proposed", 20, 14, .rov⟩,
      ⟨"accepted", 34, 14, .rov⟩]⟩]

/-- The registers of the WLD window (R553, R554). -/
def regRowsWld : List RegRow :=
  [
   ⟨"WLD_CMD", 0xB00000, 0x8, 1, 0x0#64, .reset,
     [⟨"cmd", 0, 4, .wo⟩,
      ⟨"slot", 4, 2, .wo⟩,
      ⟨"activate", 6, 1, .wo⟩,
      ⟨"disp_en", 7, 1, .wo⟩,
      ⟨"disp_slot", 8, 2, .wo⟩,
      ⟨"deadline", 10, 16, .wo⟩]⟩,
   ⟨"WLD_SRC", 0xB00008, 0x8, 1, 0x0#64, .kept,
     [⟨"kind", 0, 2, .rw⟩,
      ⟨"rate", 4, 8, .rw⟩,
      ⟨"addr", 12, 52, .rw⟩]⟩,
   ⟨"WLD_STAT", 0xB00010, 0x8, 1, 0x0#64, .reset,
     [⟨"busy", 0, 1, .rov⟩,
      ⟨"slot", 1, 2, .rov⟩,
      ⟨"phase", 3, 3, .rov⟩,
      ⟨"done", 6, 1, .w1c⟩,
      ⟨"err", 7, 1, .w1c⟩,
      ⟨"code", 8, 8, .rov⟩,
      ⟨"chunks_done", 16, 16, .rov⟩,
      ⟨"chunks_total", 32, 16, .rov⟩,
      ⟨"pcl_done", 48, 1, .w1c⟩,
      ⟨"cos_done", 49, 1, .w1c⟩]⟩,
   ⟨"WLD_GEN", 0xB00020, 0x8, 4, 0x0#64, .rebuilt,
     [⟨"gen", 0, 16, .rov⟩,
      ⟨"state", 16, 3, .rov⟩,
      ⟨"footprint", 19, 2, .rov⟩,
      ⟨"offset", 21, 2, .rov⟩,
      ⟨"resident", 23, 1, .rov⟩,
      ⟨"master", 24, 1, .rov⟩,
      ⟨"pins", 25, 16, .rov⟩]⟩,
   ⟨"WLD_ACTIVE", 0xB00040, 0x8, 1, 0x4#64, .rebuilt,
     [⟨"slot", 0, 2, .rw⟩,
      ⟨"none", 2, 1, .rw⟩,
      ⟨"pending", 3, 1, .rov⟩,
      ⟨"gen", 4, 16, .rov⟩,
      ⟨"step", 20, 32, .rov⟩]⟩,
   ⟨"WLD_PROG", 0xB00048, 0x8, 1, 0x4000#64, .reloaded,
     [⟨"max_blocks", 0, 15, .rwl⟩,
      ⟨"active", 16, 15, .rov⟩,
      ⟨"rows", 32, 32, .rov⟩]⟩,
   ⟨"WLD_COSTUME_CTL", 0xB00050, 0x8, 1, 0x0#64, .reset,
     [⟨"cmd", 0, 2, .wo⟩,
      ⟨"busy", 2, 1, .rov⟩,
      ⟨"err", 3, 1, .w1c⟩,
      ⟨"context", 4, 12, .rw⟩,
      ⟨"hdm_off", 16, 27, .rw⟩,
      ⟨"code", 43, 8, .rov⟩,
      ⟨"version", 51, 12, .rov⟩]⟩,
   ⟨"WLD_PARCEL_CTL", 0xB00058, 0x8, 1, 0x401#64, .kept,
     [⟨"fwd", 0, 1, .rw⟩,
      ⟨"max_resend", 8, 8, .rw⟩]⟩,
   ⟨"WLD_PARCEL_STAT", 0xB00060, 0x8, 1, 0x0#64, .rebuilt,
     [⟨"in_up", 0, 1, .rov⟩,
      ⟨"out_up", 1, 1, .rov⟩,
      ⟨"last", 2, 1, .rov⟩,
      ⟨"done", 3, 1, .rov⟩,
      ⟨"ok", 4, 1, .rov⟩,
      ⟨"hop", 5, 16, .rov⟩,
      ⟨"chain_len", 21, 16, .rov⟩,
      ⟨"resends", 37, 16, .rov⟩]⟩]

/-- The registers of the CHK window (R553, R554). -/
def regRowsChk : List RegRow :=
  [
   ⟨"CHK_SHADOW_RATE", 0xC00000, 0x8, 1, 0x4068#64, .kept,
     [⟨"log2_rate", 0, 4, .rw⟩,
      ⟨"warm_log2", 4, 4, .ro⟩,
      ⟨"window", 8, 8, .ro⟩]⟩,
   ⟨"CHK_TOL", 0xC00008, 0x8, 1, 0x4060#64, .reloaded,
     [⟨"mult", 0, 8, .rwl⟩,
      ⟨"floor", 8, 8, .ro⟩]⟩,
   ⟨"CHK_STAT", 0xC00010, 0x8, 1, 0x0#64, .rebuilt,
     [⟨"mismatch", 0, 1, .w1c⟩,
      ⟨"blk_retired", 1, 1, .w1c⟩,
      ⟨"rgn_retired", 2, 1, .w1c⟩,
      ⟨"rgn_reset", 3, 1, .w1c⟩,
      ⟨"vote", 4, 1, .w1c⟩,
      ⟨"prov", 5, 1, .w1c⟩,
      ⟨"rattle_fail", 6, 1, .w1c⟩,
      ⟨"shadows", 16, 32, .rov⟩,
      ⟨"mismatches", 48, 16, .rov⟩]⟩,
   ⟨"CHK_COMMIT_LAG", 0xC00018, 0x8, 1, 0x0#64, .rebuilt,
     [⟨"step", 0, 32, .rov⟩,
      ⟨"lag", 32, 1, .rov⟩,
      ⟨"held", 33, 15, .rov⟩,
      ⟨"replays", 48, 16, .rov⟩]⟩,
   ⟨"CHK_ABACUS_CTL", 0xC00020, 0x8, 1, 0x100401#64, .reloaded,
     [⟨"en", 0, 1, .rwl⟩,
      ⟨"arrays", 8, 8, .ro⟩,
      ⟨"vectors", 16, 8, .ro⟩,
      ⟨"sets", 32, 32, .rov⟩]⟩,
   ⟨"CHK_RATTLE_CTL", 0xC00028, 0x8, 1, 0x7D0A600F1#64, .reloaded,
     [⟨"en", 0, 1, .rwl⟩,
      ⟨"interval", 4, 11, .rwl⟩,
      ⟨"vdd_pct", 16, 4, .ro⟩,
      ⟨"clk_pct", 20, 4, .ro⟩,
      ⟨"dur_ms", 24, 12, .ro⟩,
      ⟨"next", 36, 6, .rov⟩]⟩,
   ⟨"CHK_RATTLE_STAT", 0xC00030, 0x8, 1, 0x0#64, .rebuilt,
     [⟨"region", 0, 6, .rov⟩,
      ⟨"result", 6, 2, .rov⟩,
      ⟨"running", 8, 1, .rov⟩,
      ⟨"deferred", 9, 1, .rov⟩,
      ⟨"tests", 10, 32, .rov⟩,
      ⟨"fails", 42, 16, .rov⟩]⟩,
   ⟨"CHK_RETIRED", 0xC00038, 0x8, 1, 0x3FFFFFFF#64, .rebuilt,
     [⟨"s0_serves", 0, 6, .rov⟩,
      ⟨"s1_serves", 6, 6, .rov⟩,
      ⟨"fail0", 12, 6, .rov⟩,
      ⟨"fail1", 18, 6, .rov⟩,
      ⟨"fail2", 24, 6, .rov⟩,
      ⟨"keep0_bad", 30, 1, .rov⟩,
      ⟨"keep1_bad", 31, 1, .rov⟩,
      ⟨"blocks", 32, 16, .rov⟩,
      ⟨"resets", 48, 16, .rov⟩]⟩,
   ⟨"CHK_SUSPECT", 0xC00040, 0x8, 1, 0x0#64, .kept,
     [⟨"region", 0, 6, .rov⟩,
      ⟨"block", 6, 11, .rov⟩,
      ⟨"left", 17, 7, .rov⟩,
      ⟨"hits", 24, 2, .rov⟩,
      ⟨"now", 26, 17, .rov⟩,
      ⟨"total", 43, 21, .rov⟩]⟩]

/-- The registers of the PAIR window (R553, R554). -/
def regRowsPair : List RegRow :=
  [
   ⟨"PAIR_CTL", 0xD00000, 0x8, 1, 0x64C8#64, .reloaded,
     [⟨"en", 0, 1, .rwl⟩,
      ⟨"mode", 1, 1, .rwl⟩,
      ⟨"mirror_pct", 2, 6, .rwl⟩,
      ⟨"timeout", 8, 14, .rwl⟩,
      ⟨"leave", 22, 1, .wo⟩,
      ⟨"rejoin", 23, 1, .wo⟩]⟩,
   ⟨"PAIR_STAT", 0xD00008, 0x8, 1, 0x0#64, .reset,
     [⟨"state", 0, 3, .rov⟩,
      ⟨"refuse", 3, 3, .rov⟩,
      ⟨"lost", 6, 1, .w1c⟩,
      ⟨"mismatch", 7, 1, .w1c⟩,
      ⟨"slot_diff", 8, 1, .w1c⟩,
      ⟨"diverge", 9, 1, .w1c⟩,
      ⟨"stage", 10, 2, .rov⟩,
      ⟨"link", 12, 2, .rov⟩,
      ⟨"adopted", 32, 32, .rov⟩]⟩,
   ⟨"PAIR_ROLE", 0xD00010, 0x8, 1, 0x0#64, .rebuilt,
     [⟨"role", 0, 1, .ro⟩,
      ⟨"partner_role", 1, 1, .rov⟩,
      ⟨"partner_glb", 2, 2, .rov⟩,
      ⟨"partner_id", 32, 32, .rov⟩]⟩,
   ⟨"PAIR_LINK_STAT", 0xD00018, 0x8, 1, 0x0#64, .rebuilt,
     [⟨"up", 0, 1, .rov⟩,
      ⟨"lanes", 1, 5, .rov⟩,
      ⟨"retrains", 16, 16, .rov⟩,
      ⟨"retries", 32, 16, .rov⟩,
      ⟨"uncorr", 48, 16, .rov⟩]⟩,
   ⟨"PAIR_MISMATCH_CNT", 0xD00020, 0x8, 1, 0x0#64, .kept,
     [⟨"stage1", 0, 16, .rov⟩,
      ⟨"stage2", 16, 16, .rov⟩,
      ⟨"stage3", 32, 8, .rov⟩,
      ⟨"ended", 40, 8, .rov⟩,
      ⟨"step", 48, 16, .rov⟩]⟩]

/-- The registers of the MEM window (R553, R554). -/
def regRowsMem : List RegRow :=
  [
   ⟨"MEM_HBM_STAT", 0xE00000, 0x20, 12, 0x0#64, .kept,
     [⟨"state", 0, 2, .rov⟩,
      ⟨"sr", 2, 1, .rov⟩,
      ⟨"rate", 3, 2, .rov⟩,
      ⟨"refresh", 5, 3, .rov⟩,
      ⟨"temp", 8, 8, .rov⟩,
      ⟨"ue", 16, 1, .w1c⟩,
      ⟨"ce_hi", 17, 1, .w1c⟩,
      ⟨"fail", 18, 1, .w1c⟩,
      ⟨"trains", 20, 16, .rov⟩,
      ⟨"repairs", 36, 8, .rov⟩]⟩,
   ⟨"MEM_ECC_CE", 0xE00008, 0x20, 12, 0x0#64, .kept,
     [⟨"count", 0, 28, .rov⟩,
      ⟨"line", 30, 34, .rov⟩]⟩,
   ⟨"MEM_ECC_UE", 0xE00010, 0x20, 12, 0x0#64, .kept,
     [⟨"count", 0, 16, .rov⟩,
      ⟨"area", 16, 4, .rov⟩,
      ⟨"line", 30, 34, .rov⟩]⟩,
   ⟨"MEM_REFRESH_MODE", 0xE00200, 0x8, 1, 0x0#64, .kept,
     [⟨"mode", 0, 3, .rov⟩,
      ⟨"floor", 3, 3, .rw⟩,
      ⟨"band", 6, 3, .rov⟩,
      ⟨"hold_ms", 16, 16, .rov⟩]⟩,
   ⟨"MEM_SCR_ECC", 0xE00208, 0x8, 1, 0x0#64, .reset,
     [⟨"ce", 0, 20, .rov⟩,
      ⟨"ue_count", 20, 16, .rov⟩,
      ⟨"last_ue", 36, 1, .rov⟩,
      ⟨"ue", 37, 1, .w1c⟩,
      ⟨"ce_storm", 38, 1, .w1c⟩,
      ⟨"addr", 40, 24, .rov⟩]⟩,
   ⟨"MEM_SECURE_BASE", 0xE00210, 0x8, 1, 0x4007800000#64, .reloaded,
     [⟨"base", 0, 27, .ro⟩,
      ⟨"host_start", 32, 8, .rwl⟩,
      ⟨"wiping", 40, 1, .rov⟩]⟩]

/-- The registers of the MBX window (R553, R554). -/
def regRowsMbx : List RegRow :=
  [
   ⟨"MBX_CMD", 0xF00000, 0x8, 1, 0x0#64, .reset,
     [⟨"opcode", 0, 16, .rw⟩,
      ⟨"in_len", 16, 13, .rw⟩]⟩,
   ⟨"MBX_STAT", 0xF00008, 0x8, 1, 0x0#64, .reset,
     [⟨"busy", 0, 1, .rov⟩,
      ⟨"done", 1, 1, .w1c⟩,
      ⟨"ready", 2, 1, .rov⟩,
      ⟨"overrun", 3, 1, .w1c⟩,
      ⟨"status", 8, 8, .rov⟩,
      ⟨"out_len", 16, 13, .rov⟩,
      ⟨"count", 32, 16, .rov⟩]⟩,
   ⟨"MBX_DATA", 0xF01000, 0x8, 512, 0x0#64, .reset,
     [⟨"data", 0, 64, .rw⟩]⟩]

/-- The registers of the RGN window (R553, R554). -/
def regRowsRgn : List RegRow :=
  [
   ⟨"RGN_STATE", 0x1000000, 0x10000, 52, 0x801F8#64, .rebuilt,
     [⟨"state", 0, 3, .rov⟩,
      ⟨"logical", 3, 6, .rov⟩,
      ⟨"band", 9, 3, .rov⟩,
      ⟨"warm", 12, 1, .rov⟩,
      ⟨"unusable", 13, 1, .rov⟩,
      ⟨"spares_left", 14, 6, .rov⟩,
      ⟨"resets", 20, 16, .rov⟩]⟩,
   ⟨"RGN_CTL", 0x1000008, 0x10000, 52, 0x0#64, .reset,
     [⟨"rattle", 0, 1, .wo⟩,
      ⟨"reset", 1, 1, .wo⟩]⟩,
   ⟨"RGN_RESID_BASE", 0x1000010, 0x10000, 52, 0x52000000000#64, .rebuilt,
     [⟨"addr", 0, 27, .rov⟩,
      ⟨"entries", 32, 11, .ro⟩]⟩,
   ⟨"RGN_SAT_CNT", 0x1000018, 0x10000, 52, 0x0#64, .reset,
     [⟨"sat", 0, 32, .rov⟩,
      ⟨"groups", 32, 32, .rov⟩]⟩,
   ⟨"RGN_ZERO_CNT", 0x1000020, 0x10000, 52, 0x0#64, .reset,
     [⟨"layer", 0, 16, .rw⟩,
      ⟨"slot", 16, 2, .rw⟩,
      ⟨"which", 18, 2, .rw⟩,
      ⟨"valid", 20, 1, .rov⟩,
      ⟨"zero", 32, 32, .rov⟩]⟩,
   ⟨"RGN_TILE_SAT", 0x1000028, 0x10000, 52, 0x0#64, .reset,
     [⟨"sat", 0, 64, .w1c⟩]⟩,
   ⟨"RGN_RECIPE_FLAG", 0x1000030, 0x10000, 52, 0x0#64, .reset,
     [⟨"layer", 0, 16, .rov⟩,
      ⟨"slot", 16, 2, .rov⟩,
      ⟨"zero", 18, 1, .rov⟩,
      ⟨"sat", 19, 1, .rov⟩,
      ⟨"valid", 20, 1, .rov⟩,
      ⟨"overflow", 21, 1, .rov⟩,
      ⟨"depth", 22, 7, .rov⟩,
      ⟨"pop", 29, 1, .wo⟩,
      ⟨"nowide", 30, 1, .rov⟩,
      ⟨"step", 32, 32, .rov⟩]⟩,
   ⟨"RGN_SPARE_MAP", 0x1000038, 0x10000, 52, 0x0#64, .rebuilt,
     [⟨"block", 0, 11, .rw⟩,
      ⟨"phys", 11, 11, .rov⟩,
      ⟨"remapped", 22, 1, .rov⟩,
      ⟨"columns", 23, 11, .rov⟩]⟩,
   ⟨"RGN_CFG_VOTE", 0x1000040, 0x10000, 52, 0x0#64, .reset,
     [⟨"corrected", 0, 24, .rov⟩,
      ⟨"scrubs", 24, 16, .rov⟩,
      ⟨"last_word", 40, 16, .rov⟩]⟩,
   ⟨"RGN_DEBUG_CTL", 0x1000100, 0x10000, 52, 0x4#64, .reset,
     [⟨"arm", 0, 1, .rw⟩,
      ⟨"done", 1, 1, .rov⟩,
      ⟨"avail", 2, 1, .rov⟩,
      ⟨"sel", 4, 2, .rw⟩,
      ⟨"block", 6, 11, .rw⟩,
      ⟨"array", 17, 9, .rw⟩,
      ⟨"tile", 26, 6, .rw⟩,
      ⟨"count", 32, 16, .rov⟩,
      ⟨"rdptr", 48, 16, .rw⟩]⟩,
   ⟨"RGN_DEBUG_DATA", 0x1000108, 0x10000, 52, 0x0#64, .reset,
     [⟨"data", 0, 64, .rov⟩]⟩]

/-- The register index as a whole. -/
def regTable : List RegRow :=
  regRowsGlb ++ regRowsIcu ++ regRowsEvt ++ regRowsPwr ++ regRowsThm ++ regRowsMcv ++ regRowsCal ++ regRowsSec ++ regRowsBoot ++ regRowsSrv ++ regRowsSmp ++ regRowsWld ++ regRowsChk ++ regRowsPair ++ regRowsMem ++ regRowsMbx ++ regRowsRgn

end Sys2Proof.Machine
end

