-- ==== Sys2Proof/Machine/Sparse.lean ====
section
/-! DEFINITION. Sparse data by key: a list of key and value pairs in one canonical form (keys strictly rising, no
entry equal to what an unlisted key reads as). Registers, the three memories and the per-unit tables use it. -/

namespace Sys2Proof.Machine

/-- What key `k` holds: its entry, or `d k` where nothing is listed. -/
def sget {α : Type} (d : Nat → α) : List (Nat × α) → Nat → α
  | [], k => d k
  | (j, v) :: t, k => if k = j then v else sget d t k

/-- The entry of key `k` put into its place among rising keys. -/
def sinsert {α : Type} (k : Nat) (v : α) : List (Nat × α) → List (Nat × α)
  | [] => [(k, v)]
  | (j, w) :: t => if k < j then (k, v) :: (j, w) :: t else (j, w) :: sinsert k v t

/-- The list without any entry of key `k`. -/
def serase {α : Type} (k : Nat) : List (Nat × α) → List (Nat × α)
  | [] => []
  | (j, w) :: t => if k = j then serase k t else (j, w) :: serase k t

/-- Key `k` set to `v`: an entry equal to the default is removed, so that equal contents are equal lists. -/
def sset {α : Type} [DecidableEq α] (d : Nat → α) (m : List (Nat × α)) (k : Nat) (v : α) : List (Nat × α) :=
  if v = d k then serase k m else sinsert k v (serase k m)

/-- The keys of a sparse list, as they stand. -/
def skeys {α : Type} (m : List (Nat × α)) : List Nat := m.map Prod.fst

/-- The canonical form: keys strictly rising, no entry equal to the default. -/
abbrev SparseWf {α : Type} [DecidableEq α] (d : Nat → α) (m : List (Nat × α)) : Prop :=
  m.Pairwise (fun a b => a.1 < b.1) ∧ ∀ p ∈ m, p.2 ≠ d p.1

end Sys2Proof.Machine
end

