-- ==== Sys2Proof/Machine/State.lean ====
section
/-! DEFINITION. The state of the part: the register file, the memories, the units' own state behind the registers, the
non-volatile stores, the pins, and the queue of commands that wait. Plain data throughout. Tables are sparse lists in
one canonical form (Sparse.lean), with one default record for what is not listed. -/

namespace Sys2Proof.Machine

/-- No command of this model stops with a fault: every row of the table has an effect, and an event that names nothing
pending leaves the state as it is. The constructor is kept for a stop no rule describes; no meaning raises it. Safe. -/
inductive Fault where
  | none
  deriving DecidableEq, Repr

/-- Refusals. `notModelled` is raised only by an arm of Dispatch.lean that has no meaning yet, with the row's mnemonic.
Safe: the run stops. -/
inductive Refusal where
  | notModelled (mnemonic : String)
  deriving DecidableEq, Repr

/-! ## Containers, images and records as the part reads them -/

/-- Input width of an MVM and its recipe (R31, R125): A8 or A4. -/
inductive Width where
  | a8 | a4
  deriving DecidableEq, Repr

/-- The weight formats that live in cells (R52). -/
inductive WFmt where
  | tw | sw2 | sw4 | sw8
  deriving DecidableEq, Repr

/-- The Luson container header (R196); `reserved`: a reserved byte is not zero. -/
structure LusonHeader where
  magic : Nat
  version : Nat
  kind : Nat
  footprint : Nat
  gen : Nat
  reserved : Bool
  chunks : Nat
  manOff : Nat
  manLen : Nat
  payOff : Nat
  payLen : Nat
  deriving DecidableEq, Repr

/-- The factors of a physical column (R79): gain in 2⁻²², offset in 2⁻⁸ code, coefficient in 2⁻²⁴ per °C. -/
structure Fit where
  gain : Nat
  offset : Int
  kappa : Int
  deriving DecidableEq, Repr

/-- A recipe entry (R125); `reserved`: a reserved bit is not zero. -/
structure Recipe where
  layer : Nat
  width : Width
  static : Bool
  reads : Nat
  lane : Bool
  reserved : Bool
  scale : Byte
  zeroThr : Nat
  satThr : Nat
  wide : Nat
  revert : Nat
  deriving DecidableEq, Repr

/-- A tensor-table entry (R199); `format` is the whole byte. -/
structure Tensor where
  id : Nat
  layer : Nat
  role : Nat
  format : Nat
  rows : Nat
  cols : Nat
  payOff : Nat
  length : Nat
  bp : Nat
  reserved : Bool
  scale : Nat
  outl : Nat
  patch : Nat
  deriving DecidableEq, Repr

/-- A placement-table entry (R200). -/
structure Run where
  tensor : Nat
  kg0 : Nat
  cg0 : Nat
  nk : Nat
  nc : Nat
  region : Nat
  block0 : Nat
  array0 : Nat
  reserved : Bool
  deriving DecidableEq, Repr

/-- A manifest (R197): its length, the header's fields, its tables, the offsets of the sections, the hashes of the chunks; the SHA-512 of
its bytes, of its body (R528) and of its key, whether its signature verifies (R198); the bytes of a KV page of the model, which the page
layout inside the part fixes (R251). -/
structure Manifest where
  bytes : Nat
  magic : Nat
  bodyLen : Nat
  gen : Nat
  kind : Nat
  footprint : Nat
  layers : Nat
  chunks : Nat
  reserved : Bool
  tensOff : Nat
  runOff : Nat
  recOff : Nat
  hashOff : Nat
  cells : Nat
  tensors : List Tensor
  runs : List Run
  recipes : List Recipe
  hashes : List (BitVec 512)
  digest : BitVec 512
  bodyDigest : BitVec 512
  keyHash : BitVec 512
  signatureOk : Bool
  pageBytes : Nat
  deriving DecidableEq, Repr

/-- A Parcel frame header (R217); `flags` beside the resend bit and the reserved bytes are kept as they stand. -/
structure ParcelFrame where
  type : Nat
  flags : Nat
  hop : Nat
  gen : Nat
  reserved : Nat
  digest : BitVec 64
  index : Nat
  length : Nat
  ok : Nat
  reserved2 : Nat
  deriving DecidableEq, Repr

/-- A configuration record as the part reads it (R510 to R512): key hash, whether its signature verifies, header fields, model-key
hashes, parameter entries (id, aux, value), whether every reserved field is zero, the SHA-512 of the record and of its body. -/
structure ConfigRecord where
  keyHash : BitVec 512
  signatureOk : Bool
  magicOk : Bool
  reservedZero : Bool
  cfgVersion : BitVec 32
  serial : BitVec 64
  tinKey : BitVec 512
  keys : List (BitVec 512)
  params : List (Nat × Nat × Nat)
  digest : BitVec 512
  bodyDigest : BitVec 512
  deriving DecidableEq, Repr

/-- A firmware image (R505): key hash, whether its signature verifies, version, length in KiB, the SHA-512 of its body. -/
structure FwImage where
  keyHash : BitVec 512
  signatureOk : Bool
  magicOk : Bool
  fwVersion : BitVec 32
  lenKib : Nat
  digest : BitVec 512
  deriving DecidableEq, Repr

/-- A life-cycle token as read from host scratch (R523). -/
structure Token where
  wellFormed : Bool
  target : Nat
  serial : BitVec 64
  nonce : BitVec 32
  keyHash : BitVec 512
  signatureOk : Bool
  deriving DecidableEq, Repr

/-- What the last reading command answered (R50, R136, R167, R407, R410, R435, R577). -/
inductive Answer where
  | none
  | word (w : Word)
  | bytes (b : List Byte)
  | poison (b : List Byte)
  | abort
  | nack
  deriving DecidableEq, Repr

/-- Messages the part sends: to the pair partner (R321, R343 to R350), along the Parcel chain (R217 to R219). -/
inductive Sent where
  | leavingNotice
  | handshake
  | provisional (p : Provisional)
  | commitNotice (step : Nat)
  | retraction (step : Nat)
  | stepPlan (p : Plan)
  | commitHash (step : Nat) (h : BitVec 64) (activeGen : BitVec 16)
  | recordList (step : Nat) (records : List CommitRecord)
  | liveCopy (seqs : List Nat)
  | parcelFrame (f : ParcelFrame) (content : List Byte)
  | flitRequest (port : Port)
  | recipeFlag (step slot layer : Nat)
  | slotDiff (table slot : Nat)
  deriving DecidableEq, Repr

/-- The input pins as last driven and the THERM_TRIP_N latch (R557, R565, R483). `true` is the electrical high. -/
structure Pins where
  porN : Bool
  wrstN : Bool
  perstN : Bool
  tamperN : Bool
  tripLatch : Bool
  railsOut : List Nat        -- monitored rails out of range (R561)
  deriving DecidableEq, Repr

/-- The interrupt controller beside its registers (R433 to R436): the sampled inputs, the software latches, the active
bits. Bit n belongs to source n. Owners stand in ICU_SRC_CFG_n.owner. -/
structure Icu where
  input : BitVec 256
  latch : BitVec 256
  active : BitVec 256
  deriving DecidableEq, Repr

/-- An entry of the event log (R444). -/
structure Entry where
  seq : Nat
  cls : Nat
  severity : Nat
  cycles : Bool
  code : Nat
  stamp : Nat
  unit : Nat
  count : Nat
  detail : List Byte
  deriving DecidableEq, Repr

/-- A report handed to the event unit, with the stamp of the instant it arose (R443). -/
structure Handed where
  report : Report
  stamp : Nat
  deriving DecidableEq, Repr

/-- A class's lost run (R448, R449): reports lost, first and last sequence number. -/
structure LostRun where
  run : Nat
  first : Nat
  last : Nat
  deriving DecidableEq, Repr

/-- The event unit (R442 to R452): next sequence numbers and cycle counters per class, the staging ring and the
management-domain buffer (oldest first), lost runs, whether the ring-start entry is still to be written, the 1 ms window
of the drain cap with the bytes written in it, and the bytes written in the running second. -/
structure Evt where
  seqs : List (Nat × Nat)
  clocks : List (Nat × Nat)
  staged : List Entry
  buffer : List Entry
  lost : List (Nat × LostRun)
  startDue : Bool
  window : Nat
  windowBytes : Nat
  second : Nat
  secondBytes : Nat
  deriving DecidableEq, Repr

/-- One temperature sample used for rise rates (R478): the instant and the effective temperature in 2⁻⁶ °C. -/
structure Sample where
  time : Nat
  temp : Int
  deriving DecidableEq, Repr

/-- Thermal control beside its registers: samples of the last second per region (R478), how often self-calibration failed in a row (R477),
the instant of the last wake or POR (R478), the instant of each sensor's last valid sample (R473, R497), since when each stack's inputs
have held a lower refresh mode (R385, R397). -/
structure Thermal where
  samples : List (Nat × List Sample)
  calFails : Nat
  ratesFrom : Nat
  validAt : List (Nat × Nat)
  holds : List (Nat × Nat)
  deriving DecidableEq, Repr

/-- Power-state control (R485 to R489): idle scans in a row, the known event a wake is scheduled for, due times by context (instants in
cycles), open due windows (context, the instant each closes), the instant the present state was entered, the start of the last Rattle
test, the cycles of operation in SERVICE and TIN but for PS4, and their number when the last warm-up began (R187, R194). -/
structure Power where
  idleScans : Nat
  scheduled : Option Nat
  dues : List (Nat × Nat)
  open_ : List (Nat × Nat)
  since : Nat
  rattleAt : Nat
  operated : Nat
  warmFrom : Nat
  deriving DecidableEq, Repr

/-- The configuration record in force (R510 to R512): whether one is, version, the digests of the record and of its body, model-key
hashes, Tin Soldier key, signer, and its parameters by id, absent where the record does not name them. -/
structure RecordInForce where
  inForce : Bool
  version : BitVec 32
  digest : BitVec 512
  bodyDigest : BitVec 512
  keys : List (BitVec 512)
  tinKey : BitVec 512
  signer : BitVec 512
  params : List (Nat × Nat)
  deriving DecidableEq, Repr

/-- An NVM update or a recovery image being received (R518 to R520): the item (0 the recovery image, 1 to 3 as
NVM_UPDATE_BEGIN names it), the length announced, the bytes received so far. -/
structure Update where
  item : Nat
  length : Nat
  data : List Byte
  deriving DecidableEq, Repr

/-- Boot and the boot NVM in use (R506 to R520): parameters in force, the digest of the running image, an open NVM
update, a recovery image being received, whether the last reset was a warm one, whether a warm reset is being held by a pin, the
life-cycle state at the boot (R524), the instant the reset was released, the microseconds the last lock took (R490), whether
firmware has placed the residual tables (R96), whether the CRC of the factor store is bad (R188). -/
structure Boot where
  config : RecordInForce
  imageDigest : BitVec 512
  update : Option Update
  recov : Option Update
  warm : Bool
  held : Bool
  lcs : Nat
  start : Nat
  lockUs : BitVec 16
  placed : Bool
  badFactors : Bool
  deriving DecidableEq, Repr

/-- The security block's volatile state (R392, R522 to R528): the target of the transition in progress, the buffer and nonce of a
report in progress, whether a wipe runs, whether the last mesh check failed, the token nonce (R523). -/
structure Sec where
  transition : Option Nat
  attest : Option (Nat × List Byte)
  wiping : Bool
  meshFailed : Bool
  nonce : BitVec 32
  deriving DecidableEq, Repr

/-- The boot NVM (R504, R520, R574): whether it answers, the programmed bytes of each 4 KiB sector from its start on, the KV page bytes of
the Tin Soldier container's model (R251), the width of its bus and its size. -/
structure Nvm where
  readable : Bool
  sectors : List (Nat × List Byte)
  tinPage : Nat
  octal : Bool
  log2Size : Nat
  deriving DecidableEq, Repr

/-- The non-volatile stores: fuses and the security block's own storage (R502), the boot NVM (R504). `identity` is the
identity key's number, a free value the security block created; `erase` says that an erasure of R525 is outstanding. -/
structure Nv where
  serial : BitVec 24
  fwKeyHash : BitVec 512
  cfgKeyHash : Option (BitVec 512)
  tinKeyHash : Option (BitVec 512)
  lcs : Nat
  debugEntries : Nat
  identity : Option Nat
  tamperCount : BitVec 32
  tamperLast : Nat
  etaTrim : List (Nat × Nat)      -- η_n in 2⁻²⁰, sensor by sensor (R472)
  offTrim : List (Nat × Int)      -- o_n in 2⁻⁶ °C (R472)
  repairs : List (Nat × Nat)      -- rows under soft repair: stack, row (R383)
  erase : Bool
  kBg : Nat                       -- bandgap constant of R169 in 2⁻²⁰
  nvm : Nvm
  deriving DecidableEq, Repr

/-- A generation slot behind WLD_GEN_g (R210 to R216): the manifest in force, the container header and the manifest as bytes, the master
copy by chunk, the column weight sums of the placement record (512 × (1,280 × logical region + logical block) + logical array to W_0 to
W_27; R82), the chunks that are present and verified, chunks held that are still to be verified again, chunks to reload, the source they
come from (kind, address), whether a failed reload waits for a RELOAD, whether a cell of the load was written, the blocks (1,280 × logical
region + logical block) programmed and checked, blocks being programmed, the drain deadline in ms, layers on their wide alternative, by
layer the number of windows that had ended when it was last flagged (R139), whether the generation was ACTIVE before the last reset. -/
structure Gen where
  manifest : Option Manifest
  header : List Byte
  raw : List Byte
  payload : List (Nat × List Byte)
  sums : List (Nat × List Int)
  chunks : List Nat
  verify : List Nat
  reload : List Nat
  source : Nat × Nat
  sourceLost : Bool
  wrote : Bool
  blocksDone : List Nat
  programming : List Nat
  deadline : Nat
  wide : List Nat
  calm : List (Nat × Nat)
  wasActive : Bool
  deriving DecidableEq, Repr

/-- An empty slot. -/
def Gen.init : Gen :=
  { manifest := none, header := [], raw := [], payload := [], sums := [], chunks := [], verify := [], reload := [], source := (0, 0)
    sourceLost := false, wrote := false, blocksDone := [], programming := [], deadline := 0, wide := [], calm := [], wasActive := false }

/-- The load in progress (R210 to R216): its slot, activation, displacement, deadline, source kind, whether it resumes, whether its
manifest has verified, re-requests per chunk, whether it waits for the displaced slot to drain, its phase (1 manifest, 2 fetch, 3 waiting
for cells, 4 programming). -/
structure Load where
  slot : Nat
  activate : Bool
  dispEn : Bool
  dispSlot : Nat
  deadline : Nat
  kind : Nat
  addr : Nat
  resume : Bool
  verified : Bool
  resends : List (Nat × Nat)
  displaces : Bool
  phase : Nat
  deriving DecidableEq, Repr

/-- A projection entry of a Costume (R220). -/
structure Projection where
  tensor : Nat
  rank : Nat
  alpha : BitVec 32
  aOff : Nat
  bOff : Nat
  deriving DecidableEq, Repr

/-- A Costume version in the store (R220 to R223): number, generation, format code, projections, the bytes copied. -/
structure Costume where
  version : Nat
  gen : Nat
  format : Nat
  projs : List Projection
  bytes : List Byte
  deriving DecidableEq, Repr

/-- A context's Costumes (R221, R222): live versions, the current one, the staged change (absent: none staged; present
without a version: no Costume), the number the next version takes. -/
structure Wardrobe where
  live : List Costume
  current : Option Nat
  staged : Option (Option Nat)
  next : Nat
  deriving DecidableEq, Repr

/-- A context without a Costume. -/
def Wardrobe.init : Wardrobe := ⟨[], none, none, 1⟩

/-- The weights unit (R196 to R232): slots, the load in progress, the staged WLD_ACTIVE (absent: none staged; present
without a slot: none), slots that enter DRAINING at the next boundary with their deadlines, slots whose deadline has passed,
Costumes by context with the install in progress (context, descriptor offset), the Parcel chain: re-requests from downstream that wait
for a verified chunk, the completion that arrived, whether this part's own went upstream, the slot of the last load from the chain. -/
structure Weights where
  gens : List (Nat × Gen)
  load : Option Load
  stagedActive : Option (Option Nat)
  stagedDrain : List (Nat × Nat)
  expired : List Nat
  wardrobes : List (Nat × Wardrobe)
  install : Option (Nat × Nat)
  queued : List ParcelFrame
  downDone : Option ParcelFrame
  upSent : Bool
  chain : Option Nat
  deriving DecidableEq, Repr

/-- An entry of an output ring (R258). -/
structure RingEntry where
  token : Nat
  pos : Nat
  prov : Bool
  retract : Bool
  last : Bool
  step : Nat
  logp : BitVec 32
  deriving DecidableEq, Repr

/-- A request TAKEN or RUNNING (R237 to R263): the copy of its slot body, and how far it is. `key` is
4,096 × table + slot, with 4 for the keep table. `draft` is the kind of its draft model with the pinned slot, `depth` its
speculation depth, `rejects`, `pauseLeft` and `probe` the state of R291, `held` ring entries that wait for room with the
end that waits behind them, `lastStep` its last committed step, `base` the sequence's length at admission. -/
structure Request where
  key : Nat
  op : Nat
  new : Bool
  exact : Bool
  early : Bool
  irq : Bool
  pauseEnd : Bool
  releaseEnd : Bool
  context : Nat
  genHint : Nat
  costumeVersion : Nat
  costumeCheck : Bool
  seq : Nat
  ttl : Nat
  promptOff : Nat
  promptLen : Nat
  maxNew : Nat
  nextDue : Nat
  ringOff : Nat
  ringLen : Nat
  temperature : BitVec 32
  topP : BitVec 32
  minP : BitVec 32
  repPenalty : BitVec 32
  topK : Nat
  mask : Nat
  specK : Nat
  seed : Word
  stop : List Nat
  running : Bool
  order : Nat
  slot : Nat
  genId : Nat
  costume : Option Nat
  frames : Nat
  units : Nat
  draft : Nat
  draftSlot : Nat
  depth : Nat
  rejects : Nat
  pauseLeft : Nat
  probe : Bool
  ringWr : Nat
  produced : Nat
  committed : Nat
  consumed : Nat
  retracted : Nat
  lastStep : Nat
  base : Nat
  cancelled : Bool
  tileFault : Bool
  held : List RingEntry
  endCause : Option Nat
  waitsFetch : Bool
  deriving DecidableEq, Repr

/-- Where a sequence's pages are (R255 to R257). -/
inductive Where where
  | live
  | copying (ttl : Nat) (pauseKey : Option Nat)
  | paused (ends : Nat)    -- the instant in cycles at which the time to live runs out
  | waiting (ms : Nat)      -- taken for resumption, no live place yet
  | fetching (ms : Nat)
  | copyingMirror
  deriving DecidableEq, Repr

/-- A sequence (R245 to R257): its id space (keep or main), context, generation, committed token history, frames and
history units held, the frames of its pages in the Toybox, positions still to rebuild (R254),
whether it is mirrored from the partner (R346). -/
structure Sequence where
  id : Nat
  keep : Bool
  context : Nat
  genId : Nat
  history : List Nat
  frames : Nat
  units : Nat
  place : Where
  toybox : Nat
  rebuild : Nat
  mirror : Bool
  deriving DecidableEq, Repr

/-- One KV group as a page holds it (R251): sequence, position, group, element codes, scale byte; the step that wrote it. -/
structure KvRow where
  seq : Nat
  pos : Nat
  index : Nat
  elems : List Nat
  scale : Nat
  step : Nat
  deriving DecidableEq, Repr

/-- A request's part of a step (R250, R275 to R292): a generation position or not, prompt tokens processed (their number and
ids), the depth, the first position drawn for, whether it is a probe, the mask bank copied for the step (absent: no mask), whether the
mask's header was bad, the tokens drawn with their logp, proposals verified and accepted, whether a distribution was empty, whether d₁
was rejected at k ≥ 1, provisional entries written, whether a tile fault hit the request in the step (R119). -/
structure Part where
  key : Nat
  gen : Bool
  chunk : Nat
  tokens : List Nat
  depth : Nat
  first : Nat
  probe : Bool
  mask : Option (List Host.Cell)
  badMask : Bool
  drawn : List (Nat × BitVec 32)
  proposed : Nat
  accepted : Nat
  empty : Bool
  rejected : Bool
  released : Nat
  fault : Bool
  deriving DecidableEq, Repr

/-- Group counts of a step (R129): region, generation slot (4: the Tin Soldier model), layer, groups, all-zero,
all-saturating. -/
structure Count where
  region : Nat
  slot : Nat
  layer : Nat
  groups : Nat
  zeros : Nat
  sats : Nat
  deriving DecidableEq, Repr

/-- A step (R249, R296, R298): its number, its parts, the positions rebuilt for sequences (keep set or main, id, positions; R254),
the recipe selection of its first run (slot, layer on wide), its group counts, duration, MVM reads and Shadow comparisons outstanding,
void or not, how often it was replayed, whether its commit hash was sent and the verdict on the partner's (absent: none yet),
consecutive mismatches of its dual runs (R368), the tile images it saved (R101); in a mirrored pair the units that computed work of its
requests (key, physical region, block or the engine) and the blocks that had a read discarded in it (R345). -/
structure Step where
  num : Nat
  parts : List Part
  rebuilds : List (Bool × Nat × Nat)
  wide : List (Nat × Nat)
  counts : List Count
  duration : Nat
  reads : Nat
  shadows : Nat
  void : Bool
  replays : Nat
  hashSent : Bool
  hash : Option Bool
  dualDiffers : Nat
  saves : List (Nat × List Word)
  work : List (Nat × Nat × Option Nat)
  discarded : List (Nat × Nat)
  deriving DecidableEq, Repr

/-- The step scheduler and the serving unit (R143, R233 to R273, R296 to R298): requests in order of take, sequences, KV rows, the running
step, steps ended and not committed (oldest first), steps void and to be run again (in order), the highest step number started, the
latched budget and chunk limits, quiet boundaries at the present stage, whether the boundary is being held, scan positions per table, the
order number of the next take, staged recipe changes (step they wait for, slot, layer, wide), the storm alarm, KV frames lost with failed
pages, ids expired (R256), the scheduler's last predictions (of the present stage, of the next lower one, of one prompt token), the
latched Shadow rate, the layers (slot, layer) on their wide alternative in the last committed step. -/
structure Serving where
  requests : List Request
  seqs : List Sequence
  kv : List KvRow
  running : Option Step
  done : List Step
  voids : List Step
  highest : Nat
  budget : Nat
  chunkMin : Nat
  chunkMax : Nat
  repWindow : Nat
  spec : Word
  quiet : Nat
  holding : Bool
  lastTaken : List (Nat × Nat)
  nextOrder : Nat
  stagedRecipes : List (Nat × Nat × Nat × Bool)
  storm : Bool
  lossFrames : Nat
  expired : List (Nat × Bool)
  predicted : Nat
  predictedLower : Nat
  tokenCost : Nat
  shadowRate : Nat
  lastWide : List (Nat × Nat)
  deriving DecidableEq, Repr

/-- The measurement converter beside its registers (R145 to R167): the FIFO (oldest first), sequence number per channel,
the conversion in progress (entry, channel) with its entry's content as the scan started it, per host entry its next
channel and content, the host entry that had the last turn, the entry to restart at, whether the buffer had settled when
the conversion started, whether the last self-calibration failed, the instant of the buffer's enable, whether the running cycle has lost its
host conversion (R152). -/
structure Mcv where
  fifo : List Word
  seqs : List (Nat × Nat)
  conv : Option (Nat × Nat)
  content : Word
  hosts : List (Nat × (Nat × Word))
  turn : Nat
  resumeAt : Nat
  startSettled : Bool
  failed : Bool
  enabledAt : Nat
  noHost : Bool
  deriving DecidableEq, Repr

/-- A suspect window (R305 to R308): invocations left, mismatches in it, whether it runs (it starts after the
replay). -/
structure Window where
  left : Nat
  hits : Nat
  open_ : Bool
  deriving DecidableEq, Repr

/-- A settlement in progress (R345): the step, its stage (0 before the record lists have met), the differing requests, this part's
own records of the mismatched run, whether the partner's list is awaited. -/
structure Settling where
  step : Nat
  stage : Nat
  keys : List Nat
  own : List CommitRecord
  waits : Bool
  deriving DecidableEq, Repr

/-- The pair (R337 to R356) beside its registers: what the partner told, the mirrored sequences held for it and their KV rows, provisional
results of the partner held apart, steps whose hash the partner sent first, the settlement in progress, the plan received, the
order numbers of requests that were running when the pair formed (they finish unmirrored, R350), the last step number before the
pair formed, whether it forms at the next step boundary, whether the copies of a split rejoin still run, the id of the ACTIVE generation the
partner last reported (R342). -/
structure Pair where
  partner : Option Partner
  mirrors : List Sequence
  mirrorKv : List KvRow
  provisional : List Provisional
  early : List (Nat × BitVec 64)
  settling : Option Settling
  plan : Option Plan
  alone : List Nat
  since : Nat
  joining : Bool
  copying : Bool
  active : BitVec 16
  deriving DecidableEq, Repr

/-- Tin Soldier mode (R357 to R371) beside GLB_STATE: the manifest in the keep regions' non-volatile tables with their placement record
(R358), the payload its cells were programmed from, whether its master copy is complete in the keep area, the keep region that runs the
model, exact execution in force, leave requested (leaves at the next step boundary), keep regions still to reprogram; the manifest and
payload of an NVM update until the first region holds it (R520). -/
structure TinMode where
  model : Option Manifest
  sums : List (Nat × List Int)
  payload : List (Nat × List Byte)
  next : Option Manifest
  nextPayload : List (Nat × List Byte)
  master : Bool
  region : Nat
  exact : Bool
  leaving : Bool
  reprogram : List Nat
  deriving DecidableEq, Repr

/-- The CXL attachment (R400 to R420): whether the link is up and ever came up, width and speed (GT/s), Bus Master
Enable, an uncorrectable status in AER or the RAS Capability, Memory_Active, the two HDM decoders (base, size, locked;
absent while not committed) with Error Not Committed per decoder, D3hot, ASPM L1 enabled, accesses held until HBM
leaves self-refresh (R413). -/
structure Cxl where
  up : Bool
  everUp : Bool
  width : Nat
  speed : Nat
  bme : Bool
  uncorr : Bool
  memActive : Bool
  decoders : List (Nat × (Nat × Nat × Bool))
  notCommitted : List Nat
  d3hot : Bool
  aspmL1 : Bool
  held : List MemAccess
  deriving DecidableEq, Repr

/-- One entry of a recipe flag queue (R133, R135). -/
structure Flag where
  slot : Nat
  layer : Nat
  zero : Bool
  sat : Bool
  nowide : Bool
  step : Nat
  deriving DecidableEq, Repr

/-- Why a block or a region is to be stood in (R22 to R24, R43, R94, R180, R183, R305 to R315, R318): a replay, a
retirement, a residual above its bound, a region reset, an engine test, a placement record being rebuilt, a remap or
programming onto spares, a deep pass, programming by a load, a drift rewrite, a Rattle test. -/
inductive Cover where
  | replay | retire | overBound | reset | engineTest | place | spare | deep | program | rewrite | rattle
  deriving DecidableEq, Repr

/-- An MVM with what placement, recipe and tables give for it (R41, R44, R123, R125, R200, R209): the command, the physical array, the
width, the inputs and the group's exponent X, the weight format and the logical columns in use, the tensor and layer, the input group, the
first output channel of the array, the reads d_r, whether it is computed exactly (R90). -/
structure Mvm where
  cmd : MvmCmd
  array : Nat
  width : Width
  inputs : List Int
  scaleX : Int
  fmt : WFmt
  enabled : List Nat
  tensor : Nat
  layer : Nat
  group : Nat
  chan : Nat
  reads : Nat
  exact : Bool
  deriving DecidableEq, Repr

/-- One read in a block's queue (R44, R46, R77): its command with the block's own number for it, whether it is a retry,
whether Shadow selected it, whether it is a window invocation, whether its message is
discarded unscreened. -/
structure Read where
  cmd : Mvm
  id : Nat
  retry : Bool
  selected : Bool
  window : Bool
  ignore : Bool
  deriving DecidableEq, Repr

/-- A usable message (R40): the driven phases, the 28 words, the check word. -/
structure Message where
  phases : List Nat
  words : List Int
  check : Int
  deriving DecidableEq, Repr

/-- The usable reads of a command that still waits for more (R84). -/
structure Partial where
  id : Nat
  got : List Message
  deriving DecidableEq, Repr

/-- Drift readings of an array (R181, R182): sums of corrected differences in codes and reads per level, the last deviation per
level in level steps, whether the last complete read crossed the threshold. -/
structure Drift where
  sums : List (Nat × (Rat × Nat))
  delta : List (Nat × Rat)
  crossed : Bool
  deriving DecidableEq, Repr

/-- Nothing read. -/
def Drift.init : Drift := ⟨[], [], false⟩

/-- What a tier of a block holds by the block journal's header row (R207, R579): generation id, complete, footprint, the low 12
bits of the manifest's digest. -/
structure Tier where
  gen : Nat
  complete : Bool
  footprint : Nat
  digest : Nat
  deriving DecidableEq, Repr

/-- The block journal of an operation (R207, R208): its code, the row being written (32 × array + row), the generation id. -/
structure Journal where
  op : Nat
  row : Nat
  gen : Nat
  deriving DecidableEq, Repr

/-- The sums of a least-squares fit of one column (R175): readings, Σx, Σy, Σx², Σxy, x the expected code and y the code, both from 64. -/
structure FitSums where
  n : Nat
  x : Int
  y : Int
  xx : Int
  xy : Int
  deriving DecidableEq, Repr

/-- No reading. -/
def FitSums.init : FitSums := ⟨0, 0, 0, 0, 0⟩

/-- What the last pass of a band measured (R175): the temperature in 2⁻⁶ °C and the gain of each physical column at it. -/
structure BandPass where
  band : Nat
  temp : Int
  gains : List Rat
  deriving DecidableEq, Repr

/-- A block (R13, R44, R79 to R95, R175 to R187, R299 to R307): factors in force, fitted and waiting for the boundary, and of the staged
band (one per physical column; none: identity); the last pass of each band; the measured figure in force with the band of its measurement
and the one that takes effect next (2⁻⁸ unit product), r_eff latched at the last boundary (1/1,280 unit product, in which 0.60 is whole);
the instant a figure last exceeded its bound (R195); the queue of reads, the reads the engine has still to issue, partial results, the
next command number; results unusable in this step; instants of discarded reads; stand-in demands, whether it is stood in now; the suspect
window; warm-up with the operation time at its start, whether it ends at the boundary (R187), and analogue MVMs since the sweep; columns
(32 × array + physical column) failing the last set; the state of the generator of vectors and the next place in the order of arrays
(R299); arrays due for rewrite and drift readings; the pass running (kind, slots, band), its sums by physical column and the next array of
the round robin (R175), and passes queued; whether a rewrite runs, and after it an over-bound check; remap entries in force and waiting
for the end of stand-in, spares unusable (2 × array + spare), arrays without a usable drift monitor (R42); the highest rewrite count and
row counts; tiers; rows (32 × array + row) that are not to be used; the journal (R207, R208); retired; whether a sweep has ended since the
last reset; the instants of the last pass and, by array, of the last writing of a row (R182). -/
structure Block where
  fits : List Fit
  newFits : List Fit
  bandFits : List Fit
  bandPasses : List BandPass
  r : Option Nat
  rBand : Nat
  rNext : Option (Nat × Nat)
  rEff : Nat
  overAt : Option Nat
  queue : List Read
  ahead : List Read
  partials : List Partial
  next : Nat
  lost : Bool
  discards : List Nat
  want : List Cover
  stood : Bool
  window : Option Window
  warm : Bool
  warmFrom : Nat
  warmEnds : Bool
  mvms : Nat
  failing : List Nat
  vectors : BitVec 32
  setNext : Nat
  due : List Nat
  drift : List (Nat × Drift)
  driftNext : Nat
  pass : Option (PassKind × Nat × Nat)
  passSums : List FitSums
  passNext : Nat
  passes : List PassKind
  rewriting : Bool
  overCheck : Bool
  remap : List (Nat × (Nat × Nat))
  remapNext : List (Nat × (Nat × Nat))
  badSpares : List Nat
  noMonitor : List Nat
  rewrites : List (Nat × Nat)
  tiers : List (Nat × Tier)
  untrusted : List Nat
  journal : Option Journal
  retired : Bool
  swept : Bool
  lastPass : Nat
  written : List (Nat × Nat)
  deriving DecidableEq, Repr

/-- A block as reset leaves it: identity factors, no figure (r_eff 0.60, R92), nothing queued. -/
def Block.init : Block :=
  { fits := [], newFits := [], bandFits := [], bandPasses := [], r := none, rBand := 1, rNext := none, rEff := 768, overAt := none
    queue := [], ahead := []
    partials := [], next := 0, lost := false, discards := [], want := [], stood := false, window := none, warm := false
    warmFrom := 0, warmEnds := false, mvms := 0, failing := [], vectors := 0, setNext := 0, due := [], drift := [], driftNext := 0
    pass := none, passSums := [], passNext := 0, passes := [], rewriting := false
    overCheck := false, remap := [], remapNext := [], badSpares := [], noMonitor := [], rewrites := [], tiers := [], untrusted := [], journal := none
    retired := false, swept := false, lastPass := 0, written := [] }

/-- A contribution to an element of a tile (R103): its place in the documented order, the element, the value. -/
structure Contrib where
  order : Nat
  elem : Nat
  value : Int
  deriving DecidableEq, Repr

/-- A tile-add, reduce operation or Costume addition in an accumulate operation, in its place of the issue order (R103, R112, R117): the
source tile, and the values once they have been read. -/
structure TileAdd where
  srcRegion : Nat
  srcTile : Nat
  values : Option (List (Nat × Int))
  deriving DecidableEq, Repr

/-- An accumulator tile (R98 to R101, R117): descriptor fields; the identity its unlisted elements hold and the elements
that differ; whether an accumulate operation runs and whether it is a Costume addition, its array contributions in order of arrival and its
tile-adds in issue order; the header word of the last analogue read added; operations that wait for it to drain; MVMs held
while the ordering buffer is full (R107). -/
structure Tile where
  bound : Bool
  ctx : Nat
  shape : Nat
  bp : Nat
  kind : Nat
  sat : Bool
  seq : Bool
  klong : Bool
  layer : Nat
  gen : Nat
  base : Int
  elems : List (Nat × Int)
  busy : Bool
  costume : Bool
  contribs : List Contrib
  adds : List TileAdd
  header : Word
  waiting : List Instr
  held : List MvmCmd
  deriving DecidableEq, Repr

/-- An unbound tile. -/
def Tile.init : Tile := ⟨false, 0, 0, 0, 0, false, false, false, 0, 0, 0, [], false, false, [], [], 0, [], []⟩

/-- A Shadow comparison that is ready (R302 to R304): the step, the physical block, the engine that computed it, analogue or stood in, the
values y and the exact values x in 2⁻⁸ unit product, the engine that recomputes it (R303), the squared phase weight P², the reads, r_eff
in force (1/1,280 unit product), whether it is a window invocation whose result waits, and the header word of its read. -/
structure Shadow where
  step : Nat
  block : Nat
  engine : Nat
  analogue : Bool
  checker : Nat
  cmd : Mvm
  ys : List Int
  xs : List Int
  phaseSq : Nat
  reads : Nat
  rEff : Nat
  window : Bool
  header : Word
  deriving DecidableEq, Repr

/-- A region (R9 to R26, R80, R102 to R137, R174 to R180, R302 to R320): the flag queue; tiles; sequenced layers (gen, layer, last step);
logical blocks served by spares, now and from the next boundary; stand-in demands and the one in force; the Shadow comparisons ready;
counters of the open and of the last window (65,536 × slot + layer to G, Z, S); captured words; the engine's suspect window; instants of
resets and of blocks that became suspect; the temperature latched at the last boundary in 2⁻⁶ °C; a band due, the band look-ahead
measures, the band whose staged factors are valid, whether the region starts in its temperature's band at the next boundary (R479), the
millisecond in which firmware last started a pass (R177); whether a recipe window has ended since the last reset (R137); affected by a
fast rise, its deep pass done; qualifications failed; recipe windows evaluated; the logical region it is being brought up for, and whether
it serves it from the next boundary; logical blocks with the spare block being programmed for them (R306); an out-of-turn Rattle test
wanted. -/
structure Region where
  flags : List Flag
  tiles : List (Nat × Tile)
  seqModes : List (Nat × Nat × Nat)
  blockMap : List (Nat × Nat)
  mapNext : List (Nat × Nat)
  want : List Cover
  stood : Option Cover
  shadows : List Shadow
  counts : List (Nat × (Nat × Nat × Nat))
  lastCounts : List (Nat × (Nat × Nat × Nat))
  capture : List Word
  window : Option Window
  resets : List Nat
  suspects : List Nat
  temp : Int
  bandDue : Option Nat
  bandWanted : Option Nat
  bandReady : Option Nat
  bandStart : Bool
  passStart : Option Nat
  counted : Bool
  affected : Bool
  deepDone : Bool
  qualFails : Nat
  windowsDone : Nat
  bringUp : Option Nat
  qualified : Bool
  spareFor : List (Nat × Nat)
  rattleAsked : Bool
  deriving DecidableEq, Repr

/-- A region as reset leaves it: its temperature at the centre of band 1 until a boundary latches one. -/
def Region.init : Region :=
  { flags := [], tiles := [], seqModes := [], blockMap := [], mapNext := [], want := [], stood := none
    shadows := [], counts := [], lastCounts := [], capture := [], window := none, resets := [], suspects := []
    temp := 1280, bandDue := none, bandWanted := none, bandReady := none, bandStart := false, passStart := none, counted := false
    affected := false, deepDone := false, qualFails := 0, windowsDone := 0
    bringUp := none, qualified := false, spareFor := [], rattleAsked := false }

/-- Recent errors of an HBM stack (R383, R384, R394): instants of corrections in the last hour, of uncorrectable lines in the last second,
and of corrections by row in the last 24 h. -/
structure HbmErrors where
  corrections : List Nat
  errors : List Nat
  rows : List (Nat × List Nat)
  deriving DecidableEq, Repr

/-- No error yet. -/
def HbmErrors.init : HbmErrors := ⟨[], [], []⟩

/-- The state of the part: the registers; scratch, the HDM range and host memory with the poison of words and lines; pins; the units;
regions and blocks by number, cells by row (what an unlisted row holds depends on `erased`: R579, R525), the peripheries' column weight
sums (512 × block + array to W_0 to W_27; R32), tile save images by slot of 20 KiB, HBM stacks; the Shadow generators of the regions in
order (R302); weights, serving, converter, pair, Tin Soldier mode; the instant in cycles of 600 MHz and the counter of free values, both
the model's own; the last answer; reports and messages handed over; the queue. -/
structure State where
  regs : List (Nat × Word)
  scr : List Host.Cell
  scrPoison : List (Nat × Bool)
  hdm : List Host.Cell
  hdmPoison : List (Nat × Bool)
  host : List Host.Cell
  pins : Pins
  icu : Icu
  evt : Evt
  thm : Thermal
  pwr : Power
  boot : Boot
  sec : Sec
  nv : Nv
  cxl : Cxl
  regions : List (Nat × Region)
  blocks : List (Nat × Block)
  cells : List (Nat × Word)
  erased : Bool
  shadowGens : List (BitVec 32)
  wsums : List (Nat × List Int)
  saves : List (Nat × List Word)
  hbm : List (Nat × HbmErrors)
  wld : Weights
  srv : Serving
  mcv : Mcv
  pair : Pair
  tin : TinMode
  now : Nat
  draws : Nat
  out : Answer
  reports : List Handed
  sent : List Sent
  pending : List Instr
  deriving DecidableEq, Repr

/-! ## Reset -/

/-- No record in force (R509): every parameter at its default. -/
def RecordInForce.none : RecordInForce := ⟨false, 0, 0, 0, [], 0, 0, []⟩

/-- The units' records as POR leaves them. -/
def Evt.init : Evt := ⟨[], [], [], [], [], false, 0, 0, 0, 0⟩
def Thermal.init : Thermal := ⟨[], 0, 0, [], []⟩
def Power.init : Power := ⟨0, Option.none, [], [], 0, 0, 0, 0⟩
def Boot.init : Boot := ⟨RecordInForce.none, 0, Option.none, Option.none, false, false, 0, 0, 0, false, false⟩
def Sec.init : Sec := ⟨Option.none, Option.none, false, false, 0⟩
def Cxl.init : Cxl := ⟨false, false, 0, 0, false, false, false, [], [], false, false, []⟩
def Weights.init : Weights := ⟨[], Option.none, Option.none, [], [], [], Option.none, [], Option.none, false, Option.none⟩

/-- The converter as a reset leaves it. DESIGN CHOICE (log entry 157): host entry 24 has the first turn. -/
def Mcv.init : Mcv := ⟨[], [], Option.none, 0, [], 7, 0, false, false, 0, false⟩

def Pair.init : Pair := ⟨Option.none, [], [], [], [], Option.none, Option.none, [], 0, false, false, 0⟩
def TinMode.init : TinMode := ⟨Option.none, [], [], Option.none, [], false, 50, false, false, []⟩

/-- The serving unit as POR leaves it: the latched values are those of the registers after POR (R269, R270, R293, R294, R324). -/
def Serving.init : Serving :=
  { requests := [], seqs := [], kv := [], running := Option.none, done := [], voids := [], highest := 0, budget := 20000
    chunkMin := 64, chunkMax := 2048, repWindow := 1024, spec := 0x08100012#64, quiet := 0, holding := false, lastTaken := []
    nextOrder := 0, stagedRecipes := [], storm := false, lossFrames := 0, expired := [], predicted := 0, predictedLower := 0, tokenCost := 0
    shadowRate := 8, lastWide := [] }

/-- The non-volatile stores of a part before any provisioning: BLANK, nothing in the boot NVM. The values the spec gives none for
(serial, key hash, trims) are named in the assumption log. -/
def Nv.init : Nv :=
  { serial := 1, fwKeyHash := 0, cfgKeyHash := Option.none, tinKeyHash := Option.none, lcs := 0, debugEntries := 0
    identity := Option.none, tamperCount := 0, tamperLast := 0, etaTrim := [], offTrim := [], repairs := [], erase := false
    kBg := 1048576
    nvm := ⟨true, [], 0, true, 29⟩ }

/-- The part right after reset: POR_N is still low; its release (POR) starts the boot. Every register reads its POR value, the
memories list nothing, no unit holds anything. -/
def State.reset : State :=
  { regs := [], scr := [], scrPoison := [], hdm := [], hdmPoison := [], host := []
    pins := ⟨false, true, true, true, false, []⟩, icu := ⟨0, 0, 0⟩, evt := Evt.init, thm := Thermal.init, pwr := Power.init
    boot := Boot.init, sec := Sec.init, nv := Nv.init, cxl := Cxl.init, regions := [], blocks := [], cells := []
    erased := false, shadowGens := List.replicate 52 0, wsums := [], saves := [], hbm := [], wld := Weights.init, srv := Serving.init
    mcv := Mcv.init, pair := Pair.init, tin := TinMode.init, now := 0, draws := 0, out := .none, reports := [], sent := []
    pending := [] }

end Sys2Proof.Machine
end

