-- ==== Sys2Proof/Machine/Ops.lean ====
section
/-! DEFINITION. The named operations over registers, memories, reports and free values. -/

namespace Sys2Proof.Machine

/-! ## Registers -/

/-- The row of the index that holds `off` (R553, R554). -/
def rowOf (off : Nat) : Option RegRow :=
  regTable.find? fun r => decide (r.base ≤ off) && decide (off < r.base + r.stride * r.count)
    && ((off - r.base) % r.stride == 0)

/-- What a register holds after POR (R553, R554); zero where the index names none. -/
def regPor (off : Nat) : Word :=
  match rowOf off with
  | some r => r.por
  | none => 0

/-- The stored value of the register at `off`. -/
def State.reg (s : State) (off : Nat) : Word := sget regPor s.regs off

/-- The register at `off` set to `v`. -/
def setReg (off : Nat) (v : Word) (s : State) : State := { s with regs := sset regPor s.regs off v }

/-- The bits of field `f` of a register value, as a number. -/
def fget (f : Fld) (v : Word) : Nat := (v.toNat >>> f.lo) % 2 ^ f.w

/-- The mask of field `f`. -/
def fmask (f : Fld) : Word := BitVec.ofNat 64 ((2 ^ f.w - 1) <<< f.lo)

/-- A register value with field `f` set to `n` modulo the field's width. -/
def fput (f : Fld) (n : Nat) (v : Word) : Word :=
  (v &&& ~~~ fmask f) ||| BitVec.ofNat 64 ((n % 2 ^ f.w) <<< f.lo)

/-- Field `f` of the stored register. -/
def rd (f : Fld) (s : State) : Nat := fget f (s.reg f.off)

/-- Field `f` as a truth value: set or not. -/
def rdb (f : Fld) (s : State) : Bool := rd f s != 0

/-- Field `f` set to `n`. -/
def wr (f : Fld) (n : Nat) (s : State) : State := setReg f.off (fput f n (s.reg f.off)) s

/-- A one-bit field set to a truth value. -/
def wrb (f : Fld) (b : Bool) (s : State) : State := wr f b.toNat s

/-- A counter that wraps at its field's width. -/
def incWrap (f : Fld) (n : Nat) (s : State) : State := wr f (rd f s + n) s

/-- A counter that holds at its field's highest value. -/
def incHold (f : Fld) (n : Nat) (s : State) : State := wr f (min (rd f s + n) (2 ^ f.w - 1)) s

/-- A signed field value in two's complement. -/
def rds (f : Fld) (s : State) : Int :=
  let n := rd f s
  if n < 2 ^ (f.w - 1) then n else (n : Int) - 2 ^ f.w

/-- A signed value put into a field, clamped to the field's range. -/
def wrs (f : Fld) (z : Int) (s : State) : State :=
  let z := max (-(2 ^ (f.w - 1))) (min z (2 ^ (f.w - 1) - 1))
  wr f (z % 2 ^ f.w).toNat s

/-! ## Sparse tables with a plain default -/

/-- Entry `k` of a table whose unlisted entries read `d`. -/
abbrev tget {α : Type} (d : α) (m : List (Nat × α)) (k : Nat) : α := sget (fun _ => d) m k

/-- Entry `k` of such a table set to `v`. -/
abbrev tset {α : Type} [DecidableEq α] (d : α) (m : List (Nat × α)) (k : Nat) (v : α) : List (Nat × α) :=
  sset (fun _ => d) m k v

/-- The record of physical region `r`. -/
def regionAt (r : Nat) (s : State) : Region := tget Region.init s.regions r

/-- The record of physical region `r` changed by `f`. -/
def setRegion (r : Nat) (f : Region → Region) (s : State) : State :=
  { s with regions := tset Region.init s.regions r (f (regionAt r s)) }

/-! ## Memories -/

/-- One byte of a memory; an unlisted byte reads zero. -/
def byteAt (m : List Host.Cell) (a : Nat) : Byte := tget 0 m a

/-- One byte of a memory written. -/
def putByte (a : Nat) (b : Byte) (m : List Host.Cell) : List Host.Cell := tset 0 m a b

/-- `n` bytes from address `a` on. -/
def bytesAt (m : List Host.Cell) (a : Nat) : Nat → List Byte
  | 0 => []
  | n + 1 => byteAt m a :: bytesAt m (a + 1) n

/-- Bytes written from address `a` on. -/
def putBytes (a : Nat) : List Byte → List Host.Cell → List Host.Cell
  | [], m => m
  | b :: t, m => putBytes (a + 1) t (putByte a b m)

/-- Bytes written from address `a` on where the byte enable is set. -/
def putSome (a : Nat) : List (Option Byte) → List Host.Cell → List Host.Cell
  | [], m => m
  | none :: t, m => putSome (a + 1) t m
  | some b :: t, m => putSome (a + 1) t (putByte a b m)

/-- Bytes as a little-endian number (R5). -/
def leNat : List Byte → Nat
  | [] => 0
  | b :: t => b.toNat + 256 * leNat t

/-- A number as `n` little-endian bytes (R5). -/
def leBytes : Nat → Nat → List Byte
  | 0, _ => []
  | n + 1, v => BitVec.ofNat 8 v :: leBytes n (v / 256)

/-- A little-endian number of `n` bytes of the HDM range. -/
def hdmNat (a n : Nat) (s : State) : Nat := leNat (bytesAt s.hdm a n)

/-- A little-endian number written to the HDM range. -/
def putHdm (a n v : Nat) (s : State) : State := { s with hdm := putBytes a (leBytes n v) s.hdm }

/-- A little-endian number of `n` bytes of scratch. -/
def scrNat (a n : Nat) (s : State) : Nat := leNat (bytesAt s.scr a n)

/-- A little-endian number written to scratch. -/
def putScr (a n v : Nat) (s : State) : State := { s with scr := putBytes a (leBytes n v) s.scr }

/-! ## Free values -/

/-- The next number of the counter of free values. -/
def draw (s : State) : Nat × State := (s.draws, { s with draws := s.draws + 1 })

/-! ## Reports and messages -/

/-- The event unit's stamp for a class: GLB_STEP for step classes, the class's cycle count otherwise (R442, R443). -/
def stepClass (c : Nat) : Bool := c ≤ 2 || c == 7 || c == 8 || c == 9

/-- The stamp a report of class `c` takes now. -/
def stampOf (c : Nat) (s : State) : Nat :=
  if stepClass c then rd GLB_STEP.step s else tget 0 s.evt.clocks c

/-- A report handed to the event unit (R447 takes it up when EVENT_REPORT handles it). -/
def log (cls : Fin 16) (sev : Fin 5) (code unit : Nat) (detail : List Byte) (s : State) : State :=
  { s with reports := s.reports ++
      [⟨⟨cls, sev, BitVec.ofNat 16 code, BitVec.ofNat 16 unit, detail⟩, stampOf cls s⟩] }

/-- The event class of physical region `r` (R442). -/
def regionClass (r : Nat) : Fin 16 := if r < 16 then 0 else if r < 32 then 1 else 2

/-- How 0x0002 names a writer (R454). -/
def writerUnit : Master → Nat
  | .host => 0
  | .core n => 1 + n.val
  | .pair => 5
  | .parcel => 6
  | .mover _ => 7

/-- The region byte of 0x0002's detail: the mover's region, zero otherwise (R454). -/
def moverRegion : Master → Nat
  | .mover r => r.val
  | _ => 0

/-- Code 0x0002: a write or command ignored (R454). -/
def logIgnored (who : Master) (off value : Nat) (s : State) : State :=
  log 14 2 0x0002 (writerUnit who)
    (leBytes 4 off ++ leBytes 4 (value % 2 ^ 32) ++ leBytes 1 (moverRegion who)) s

/-- A message sent to another part. -/
def send (m : Sent) (s : State) : State := { s with sent := s.sent ++ [m] }

/-- The answer of a reading command. -/
def answer (a : Answer) (s : State) : State := { s with out := a }

/-! ## Writes -/

/-- The mask of the half a write covers (R407). -/
def halfMask : Half → Word
  | .full => BitVec.allOnes 64
  | .lower => 0xFFFFFFFF#64
  | .upper => 0xFFFFFFFF00000000#64

/-- The bits a write covers. -/
def wmask (w : Write) : Word := halfMask w.half

/-- The data of a write with zeros where it does not cover the register (R407). -/
def wdata (w : Write) : Word := w.data &&& wmask w

/-- The written bits of field `f`: the data where the write covers the bit, the stored bit elsewhere. -/
def wbits (f : Fld) (w : Write) (s : State) : Nat :=
  fget f ((s.reg f.off &&& ~~~ wmask w) ||| wdata w)

/-- A one-bit write-only or write-one field: 1 where the write covers it and carries 1. -/
def wone (f : Fld) (w : Write) : Bool := fget f (wdata w) != 0

/-- A field of code RW taken from a write. -/
def wtake (f : Fld) (w : Write) (s : State) : State := wr f (wbits f w s) s

/-- The host or a control core writes (R542). -/
def mayWrite : Master → Bool
  | .host => true
  | .core _ => true
  | _ => false

/-- A field of code W1C: cleared where the write covers it and carries 1. -/
def wclear (f : Fld) (w : Write) (s : State) : State := if wone f w then wr f 0 s else s

/-- A write covers a bit of field `f`. -/
def wcovers (w : Write) (f : Fld) : Bool := wmask w &&& fmask f != 0

/-- Fields of code RWL (R544): taken before the lock; from the lock on a write to one is ignored and logged. -/
def wtakeLocked (fs : List Fld) (w : Write) (s : State) : State :=
  if rdb BOOT_STAT.lock s then
    if fs.any (wcovers w) then logIgnored w.who ((fs.map (·.off)).headD 0) w.data.toNat s else s
  else fs.foldl (fun a f => wtake f w a) s

/-- A BAR access of a master does not reach the part: the host's while the function is in D3hot (R403). The access completes as an
unsupported request. -/
def barClosed (who : Master) (s : State) : Bool := who == .host && s.cxl.d3hot

/-- A BAR access of a master goes to `k` unless D3hot keeps it out (R403). -/
def viaBar (who : Master) (s : State) (k : State → State) : State :=
  if barClosed who s then answer .abort s else k s

/-- A BAR0 write of a master that may not write there is ignored and logged (R542); any other goes to `k`. -/
def byWriter (who : Master) (off value : Nat) (s : State) (k : State → State) : State :=
  viaBar who s fun s => if mayWrite who then k s else logIgnored who off value s

/-- A register write by `byWriter`. -/
def guarded (off : Nat) (w : Write) (s : State) (k : State → State) : State := byWriter w.who off w.data.toNat s k

end Sys2Proof.Machine
end

