-- ==== Sys2Proof/Machine/Luson.lean ====
section
/-! DEFINITION. Luson containers as bytes: header, manifest, tables, signature block, payload; the weights of the master copy, where a
tile of weights lies, and the levels its cells take (09_weights.md R196 to R200, R209; 02_arrays.md R41; 03_formats.md R55 to R58;
04_correction.md R87). -/

namespace Sys2Proof.Machine

/-- A number of `n` little-endian bytes at `off` of a byte list (R5). -/
def listNat (b : List Byte) (off n : Nat) : Nat := leNat ((b.drop off).take n)

/-! ## RSASSA-PSS (R198, R503) -/

/-- `n` squarings modulo `m`. -/
def squarings (m : Nat) : Nat → Nat → Nat
  | 0, x => x
  | n + 1, x => squarings m n (x * x % m)

/-- x to the power 65,537 modulo `m`. -/
def powF4 (m x : Nat) : Nat := squarings m 16 x * x % m

/-- MGF1 with SHA-512: `n` blocks from counter `i` on. -/
def mgfBlocks (seed : List Byte) : Nat → Nat → List Byte
  | 0, _ => []
  | n + 1, i => sha512Bytes (seed ++ beBytes 4 i) ++ mgfBlocks seed n (i + 1)

/-- MGF1 with SHA-512: `len` bytes. -/
def mgf1 (seed : List Byte) (len : Nat) : List Byte := (mgfBlocks seed ((len + 63) / 64) 0).take len

/-- EMSA-PSS verification of PKCS #1 v2.2 with SHA-512, MGF1 with SHA-512 and a 64-byte salt: `em` encodes the digest `hash` in
`bits` bits. -/
def pssOk (hash em : List Byte) (bits : Nat) : Bool :=
  let len := (bits + 7) / 8
  let masked := em.take (len - 65)
  let h := (em.drop (len - 65)).take 64
  let db := List.zipWith (fun a b => a ^^^ b) masked (mgf1 h (len - 65))
  let keep := 2 ^ (8 - (8 * len - bits))
  let db := match db with
    | [] => []
    | b :: t => BitVec.ofNat 8 (b.toNat % keep) :: t
  let salt := db.drop (len - 129)
  decide (130 ≤ len) && em.length == len && em.getD (len - 1) 0 == 0xBC#8
    && decide ((masked.headD 0).toNat < keep)
    && (db.take (len - 130)).all (· == 0) && db.getD (len - 130) 0 == 1#8
    && sha512Bytes (List.replicate 8 0 ++ hash ++ salt) == h

/-- The RSA-4096 signature block of R197 verifies over `body` (R198): modulus, exponent 65,537, 60 zero bytes, signature. -/
def blockVerifies (body block : List Byte) : Bool :=
  let n := listNat block 0 512
  let sig := listNat block 576 512
  let bits := Nat.log2 n
  block.length == 1088 && listNat block 512 4 == 65537 && listNat block 516 60 == 0 && decide (0 < n) && decide (sig < n)
    && decide (powF4 n sig < 256 ^ ((bits + 7) / 8))
    && pssOk (sha512Bytes body) (beBytes ((bits + 7) / 8) (powF4 n sig)) bits

/-- The SHA-512 of a signature block's modulus and exponent fields as stored (R198). -/
def blockKeyHash (block : List Byte) : BitVec 512 := sha512 (block.take 516)

/-! ## The container header (R196) -/

/-- The header's fields. -/
def parseHeader (b : List Byte) : LusonHeader :=
  { magic := listNat b 0 4, version := listNat b 4 2, kind := listNat b 6 1, footprint := listNat b 7 1, gen := listNat b 8 2
    reserved := b.length != 64 || listNat b 10 2 != 0 || listNat b 48 16 != 0, chunks := listNat b 12 4, manOff := listNat b 16 8
    manLen := listNat b 24 8, payOff := listNat b 32 8, payLen := listNat b 40 8 }

/-! ## The manifest (R125, R197 to R200) -/

/-- `n` entries of `size` bytes from `off` on. -/
def entries {α : Type} (f : List Byte → α) (b : List Byte) (off size n : Nat) : List α :=
  (List.range n).map fun i => f ((b.drop (off + size * i)).take size)

/-- A tensor-table entry (R199). -/
def parseTensor (b : List Byte) : Tensor :=
  { id := listNat b 0 4, layer := listNat b 4 2, role := listNat b 6 1, format := listNat b 7 1, rows := listNat b 8 4
    cols := listNat b 12 4, payOff := listNat b 16 8, length := listNat b 24 8, bp := listNat b 32 1
    reserved := listNat b 33 3 != 0 || listNat b 48 16 != 0, scale := listNat b 36 4, outl := listNat b 40 4
    patch := listNat b 44 4 }

/-- A placement-table entry (R200). -/
def parseRun (b : List Byte) : Run :=
  { tensor := listNat b 0 4, kg0 := listNat b 4 4, cg0 := listNat b 8 4, nk := listNat b 12 4, nc := listNat b 16 4
    region := listNat b 20 1, block0 := listNat b 22 2, array0 := listNat b 24 2
    reserved := listNat b 21 1 != 0 || listNat b 26 6 != 0 }

/-- A recipe entry (R125). -/
def parseRecipe (b : List Byte) : Recipe :=
  let mode := listNat b 2 1
  { layer := listNat b 0 2, width := if mode % 2 = 1 then .a4 else .a8, static := mode / 2 % 2 == 1, reads := mode / 4 % 4 + 1
    lane := mode / 16 % 2 == 1, reserved := decide (32 ≤ mode) || listNat b 12 4 != 0, scale := b.getD 3 0
    zeroThr := listNat b 4 2, satThr := listNat b 6 2, wide := listNat b 8 2, revert := listNat b 10 2 }

/-- The signature block of a manifest: its last 1,088 bytes (R197). -/
def manifestBlock (b : List Byte) : List Byte := b.drop (b.length - 1088)

/-- A manifest's fields and tables, the digests and the outcome of its signature (R197 to R200). -/
def parseManifest (b : List Byte) (pageBytes : Nat) : Manifest :=
  { bytes := b.length, magic := listNat b 0 4, bodyLen := listNat b 4 4, gen := listNat b 8 2, kind := listNat b 10 1
    footprint := listNat b 11 1, layers := listNat b 12 2, chunks := listNat b 24 4
    reserved := listNat b 28 4 != 0 || listNat b 72 56 != 0
    tensOff := listNat b 32 8, runOff := listNat b 40 8, recOff := listNat b 48 8, hashOff := listNat b 56 8
    cells := listNat b 64 8
    tensors := entries parseTensor b (listNat b 32 8) 64 (listNat b 16 4)
    runs := entries parseRun b (listNat b 40 8) 32 (listNat b 20 4)
    recipes := entries parseRecipe b (listNat b 48 8) 16 (listNat b 14 2)
    hashes := entries (fun e => BitVec.ofNat 512 (leNat e)) b (listNat b 56 8) 64 (listNat b 24 4)
    digest := sha512 b, bodyDigest := sha512 (b.take (b.length - 1088)), keyHash := blockKeyHash (manifestBlock b)
    signatureOk := blockVerifies (b.take (b.length - 1088)) (manifestBlock b), pageBytes := pageBytes }

/-! ## Firmware images, configuration records, tokens (R503, R505, R510, R511, R523) -/

/-- A firmware image (R505): "LFWI", the version, and the signature block at its end. -/
def parseImage (b : List Byte) : FwImage :=
  let body := b.take (b.length - 1088)
  { keyHash := blockKeyHash (manifestBlock b), signatureOk := blockVerifies body (manifestBlock b)
    magicOk := listNat b 0 4 == 0x4957464C && decide (1096 ≤ b.length), fwVersion := BitVec.ofNat 32 (listNat b 4 4)
    lenKib := (b.length + 1023) / 1024, digest := sha512 body }

/-- A parameter entry (R511): id, aux, value. -/
def parseParam (b : List Byte) : Nat × Nat × Nat := (listNat b 0 2, listNat b 4 4, listNat b 8 8)

/-- A configuration record (R510): "LCFG", its fields and tables, the signature block where its body ends. -/
def parseRecord (b : List Byte) : ConfigRecord :=
  let body := listNat b 4 4
  let nk := listNat b 12 2
  let np := listNat b 14 2
  let off := 128 + 64 * nk
  { keyHash := blockKeyHash (b.drop body), signatureOk := blockVerifies (b.take body) (b.drop body)
    magicOk := listNat b 0 4 == 0x4746434C && b.length == body + 1088 && decide (off + 16 * np ≤ body)
    reservedZero := listNat b 24 40 == 0 && (List.range np).all fun i => listNat b (off + 16 * i + 2) 2 == 0
    cfgVersion := BitVec.ofNat 32 (listNat b 8 4), serial := BitVec.ofNat 64 (listNat b 16 8)
    tinKey := BitVec.ofNat 512 (listNat b 64 64)
    keys := entries (fun e => BitVec.ofNat 512 (leNat e)) b 128 64 nk
    params := entries parseParam b off 16 np, digest := sha512 b, bodyDigest := sha512 (b.take body) }

/-- A life-cycle token (R523): 64 bytes and a signature block over them. -/
def parseToken (b : List Byte) : Token :=
  { wellFormed := listNat b 0 4 == 0x54434C4C && listNat b 5 3 == 0 && listNat b 20 44 == 0
    target := listNat b 4 1, serial := BitVec.ofNat 64 (listNat b 8 8), nonce := BitVec.ofNat 32 (listNat b 16 4)
    keyHash := blockKeyHash (b.drop 64), signatureOk := blockVerifies (b.take 64) (b.drop 64) }

/-! ## Footprints and formats (R41, R52, R196, R200) -/

/-- Arrays of a block that a footprint uses (R196). -/
def footArrays (fp : Nat) : Nat := if fp = 0 then 512 else if fp = 1 then 256 else 128

/-- The weight format of a code (R52). -/
def weightFmt (code : Nat) : WFmt :=
  match code with
  | 0 => .tw
  | 1 => .sw2
  | 2 => .sw4
  | _ => .sw8

/-- Channels of an array (R41). -/
def channels : WFmt → Nat
  | .tw => 28
  | .sw2 => 28
  | .sw4 => 9
  | .sw8 => 4

/-- Slices of a weight (R57). -/
def slices : WFmt → Nat
  | .tw => 1
  | .sw2 => 1
  | .sw4 => 2
  | .sw8 => 4

/-- Cells of a weight, replicas included (R41). -/
def cellsPer : WFmt → Nat
  | .tw => 1
  | .sw2 => 1
  | .sw4 => 3
  | .sw8 => 7

/-- The logical columns of slice `k` of channel `c` (R41). -/
def sliceCols (f : WFmt) (c k : Nat) : List Nat :=
  match f, k with
  | .tw, 0 => [c]
  | .sw2, 0 => [c]
  | .sw4, 0 => [c]
  | .sw4, 1 => [c + 9, c + 18]
  | .sw8, 0 => [c]
  | .sw8, 1 => [c + 4]
  | .sw8, 2 => [c + 8, c + 12]
  | .sw8, 3 => [c + 16, c + 20, c + 24]
  | _, _ => []

/-- Output channels of a column group by format code (R200). -/
def groupWidth (fmt : Nat) : Nat := channels (weightFmt fmt)

/-- Bytes of a payload chunk (R196). -/
def chunkBytes : Nat := 4194304

/-! ## The payload (R55, R58, R87, R199) -/

/-- Byte `o` of a payload held by chunks; zero where the chunk is not held. -/
def payByte (p : List (Nat × List Byte)) (o : Nat) : Byte := (tget [] p (o / chunkBytes)).getD (o % chunkBytes) 0

/-- A number of `n` little-endian bytes of the payload. -/
def payNat (p : List (Nat × List Byte)) (o n : Nat) : Nat := leNat ((List.range n).map fun i => payByte p (o + i))

/-- The tensor of an id. -/
def tensorAt (m : Manifest) (id : Nat) : Option Tensor := m.tensors.find? fun t => t.id == id

/-- The stored code of weight (n, k) of a cell-weight tensor (R55, R199). -/
def weightCode (t : Tensor) (p : List (Nat × List Byte)) (n k : Nat) : Nat :=
  let bits := storedBits t.format
  let i := (n * t.cols + k) * bits
  (payByte p (t.payOff + i / 8)).toNat / 2 ^ (i % 8) % 2 ^ bits

/-- The weight (n, k): the code in two's complement of its width. -/
def weightAt (t : Tensor) (p : List (Nat × List Byte)) (n k : Nat) : Int := signed (storedBits t.format) (weightCode t p n k)

/-- A patch entry (R87). -/
structure Patch where
  input : Nat
  output : Nat
  delta : BitVec 16
  deriving DecidableEq, Repr

/-- The eight bytes of a patch entry as a number, field by field (R87). -/
def patchOf (v : Nat) : Patch := ⟨v % 2 ^ 20, v / 2 ^ 20 % 2 ^ 20, BitVec.ofNat 16 (v / 2 ^ 40)⟩

/-- The entries of a patch table (R87, R199). -/
def patches (t : Tensor) (p : List (Nat × List Byte)) : List Patch :=
  (List.range (t.length / 8)).map fun i => patchOf (payNat p (t.payOff + 8 * i) 8)

/-- The outlier mask of input group `g` (R199). -/
def outlierMask (t : Tensor) (p : List (Nat × List Byte)) (g : Nat) : BitVec 32 := BitVec.ofNat 32 (payNat p (t.payOff + 4 * g) 4)

/-- Input `k` of a weight tensor is an outlier channel. -/
def isOutlier (m : Manifest) (t : Tensor) (p : List (Nat × List Byte)) (k : Nat) : Bool :=
  match tensorAt m t.outl with
  | some o => (outlierMask o p (k / 32)).getLsbD (k % 32)
  | none => false

/-- The sampler tensor's four values (R274); absent where the manifest has none. -/
def samplerTensor (m : Manifest) : Option Tensor := tensorAt m 0xFFFFFFF0

/-- V and the end token of a model (R274). -/
def modelVocab (m : Manifest) (p : List (Nat × List Byte)) : Nat × Option Nat :=
  match samplerTensor m with
  | none => (262144, none)
  | some t =>
    let e := payNat p (t.payOff + 4) 4
    (payNat p t.payOff 4, if e = 0xFFFFFFFF then none else some e)

/-! ## Levels (R41, R57) -/

/-- The level of slice `k` of a weight's code: the top slice is signed (R57). -/
def sliceLevel (f : WFmt) (code k : Nat) : Nat :=
  let bits := code / 4 ^ k % 4
  if k + 1 = slices f then Nat.xor bits 2 else bits

/-- The channel and slice that a logical data column holds (R41); absent for an unused one. -/
def columnRole (f : WFmt) (j : Nat) : Option (Nat × Nat) :=
  (List.range (channels f)).findSome? fun c =>
    (List.range (slices f)).findSome? fun k => if (sliceCols f c k).contains j then some (c, k) else none

/-- A tile of weights on an array (R200): its tensor, input group and column group. -/
structure Placed where
  tensor : Tensor
  kg : Nat
  cg : Nat
  deriving DecidableEq, Repr

/-- The tile a generation places on logical array `array` of a logical block (R200). -/
def placedAt (m : Manifest) (region block array : Nat) : Option Placed :=
  let a := footArrays m.footprint
  m.runs.findSome? fun r =>
    let first := r.block0 * a + r.array0
    let pos := block * a + array
    if r.region = region ∧ array < a ∧ first ≤ pos ∧ pos < first + r.nk * r.nc then
      let i := pos - first
      (tensorAt m r.tensor).map fun t => ⟨t, r.kg0 + i % r.nk, r.cg0 + i / r.nk⟩
    else none

/-- The first output channel of a tile. -/
def Placed.chan (x : Placed) : Nat := x.cg * groupWidth x.tensor.format

/-- The logical columns a tile uses: those of channels the tensor has (R41). -/
def Placed.enabled (x : Placed) : List Nat :=
  (List.range 28).filter fun j => match columnRole (weightFmt x.tensor.format) j with
    | some (c, _) => decide (x.chan + c < x.tensor.rows)
    | none => false

/-- The level of logical column `j` in row `i` of a tile (R41, R57): level 2 in unused columns; a row beyond the tensor's inputs holds
weight 0. -/
def Placed.level (x : Placed) (p : List (Nat × List Byte)) (i j : Nat) : Nat :=
  let f := weightFmt x.tensor.format
  match columnRole f j with
  | none => 2
  | some (c, k) =>
    if x.tensor.rows ≤ x.chan + c then 2
    else sliceLevel f (if 32 * x.kg + i < x.tensor.cols then weightCode x.tensor p (x.chan + c) (32 * x.kg + i) else 0) k

/-- The low 12 bits of a manifest's digest (R207). -/
def digest12 (m : Manifest) : Nat := m.digest.toNat % 4096

/-- The low 64 bits of a manifest's digest (R217). -/
def digest64 (m : Manifest) : BitVec 64 := m.digest.setWidth 64

/-- The logical blocks a generation uses: 1,280 × region + block (R205). -/
def genBlocks (m : Manifest) : List Nat :=
  let a := footArrays m.footprint
  ((m.runs.flatMap fun r => (List.range (r.nk * r.nc)).map fun i =>
    1280 * r.region + r.block0 + (r.array0 + i) / a)).dedup

/-- The logical blocks of the service regions that a container is programmed into: none of a Tin Soldier container (R357). -/
def mainBlocks (m : Manifest) : List Nat := if m.kind = 1 then [] else genBlocks m

/-- The column weight sums W_0 to W_27 of a tile, from the container's weights (R32). -/
def Placed.sums (x : Placed) (p : List (Nat × List Byte)) : List Int :=
  (List.range 28).map fun j => (List.range 32).foldl (fun a i => a + ((x.level p i j : Int) - 2)) 0

end Sys2Proof.Machine
end

