-- ==== Sys2Proof/Config.lean ====
section
/-! DEFINITION. The free values: constants without a body for what the spec leaves open. Each is applied to the counter of
draws of the state, or to the operands it depends on; nothing can be proved about a value of theirs. -/

namespace Sys2Proof

/-- The deviation of one converter code from its ideal, in codes (R36: an analogue value; a value near a threshold may
resolve either way). The argument numbers the conversion. -/
opaque Config.converterError : Nat → Int

/-- How a block's generator of vectors advances (R299 names no polynomial). -/
opaque Config.vectorNext : BitVec 32 → BitVec 32

/-- The number that picks the order of a block's arrays in its vector sets (R299: pseudo-random, not stated); the argument is the block. -/
opaque Config.arrayOrder : Nat → Nat

/-- How a region's Shadow generator advances (R302 names no polynomial). -/
opaque Config.shadowNext : BitVec 32 → BitVec 32

/-- What the security block's random source gives a generator at boot (R302). -/
opaque Config.randomSeed : Nat → BitVec 32

/-- The security block's random numbers: nonces (R523, R528). -/
opaque Config.randomWord : Nat → BitVec 64

/-- The exponential function of the sampler's vector unit in FP32 (R279). -/
opaque Config.expF32 : BitVec 32 → BitVec 32

/-- The natural logarithm of the sampler's vector unit in FP32 (R277, R292). -/
opaque Config.lnF32 : BitVec 32 → BitVec 32

/-- The operating hours of a block weighted to their equivalent at 85 °C (R93; the weighting is not stated). The arguments are the
block's number and the instant. -/
opaque Config.weightedHours : Nat → Nat → Rat

/-- The digest of a request slot's body (R342 names no digest function). -/
opaque Config.bodyDigest : List (BitVec 8) → BitVec 64

/-- The code of a report that a rule asks for and R454 does not list; the argument is the rule's number. -/
opaque Config.unlistedCode : Nat → BitVec 16

/-- Where firmware places the residual tables, in 64-bit words of scratch before the bound of their area (R96). -/
opaque Config.residualStart : Nat

/-- What a scratch byte holds after a warm reset (R387: not guaranteed); the arguments number the reset and the address. -/
opaque Config.scratchByte : Nat → Nat → BitVec 8

/-- Microseconds the root PLL took to lock after POR (R468, R490). -/
opaque Config.lockTime : Nat → BitVec 16

/-- The public modulus (512 bytes) and exponent of the identity key that the security block created (R502); the argument numbers
the key. -/
opaque Config.identityKey : Nat → List (BitVec 8)

end Sys2Proof
end

