-- ==== Sys2Proof/Machine/Interrupts.lean ====
section
/-! DEFINITION. The interrupt controller: sources, pending and active, arbitration, claim and complete, INT_N and the
cause tree (17_interrupts_events.md R428 to R441, R455 to R459). -/

namespace Sys2Proof.Machine

/-- Bit `n` of a 256-bit vector set to `b`. -/
def vset (v : BitVec 256) (n : Nat) (b : Bool) : BitVec 256 :=
  if b then v ||| (1#256 <<< n) else v &&& ~~~ (1#256 <<< n)

/-- Sources 52 to 63 and 90 to 95 are reserved (R430). -/
def reservedSource (n : Nat) : Bool := (52 ≤ n && n ≤ 63) || (90 ≤ n && n ≤ 95)

/-- Software sources have no input (R428, R433). -/
def softSource (n : Nat) : Bool := decide (96 ≤ n)

/-- The W1C bits of the register at `off`. -/
def w1cMask (off : Nat) : Word :=
  match rowOf off with
  | some r => r.fields.foldl (fun m f => if f.acc = .w1c then m ||| fmask ⟨off, f.lo, f.width⟩ else m) 0
  | none => 0

/-- Some W1C bit of the register at `off` is 1. -/
def anyW1c (off : Nat) (s : State) : Bool := s.reg off &&& w1cMask off != 0

/-- How many entries the FIFO of the converter must hold to assert source 65 (R161): values above 64 act as 64. -/
def fifoThreshold (s : State) : Nat := min (rd MCV_CTL.fifo_thr s) 64

/-- The part may issue requests of its own to the host (R414, R416): the link is up and Bus Master Enable is set. -/
def hostReach (s : State) : Bool := s.cxl.up && s.cxl.bme

/-- The host link is down, trained narrow or slow, or an uncorrectable status is set (R420). -/
def linkCondition (s : State) : Bool :=
  !s.cxl.up || s.cxl.width < 16 || s.cxl.speed < 32 || s.cxl.uncorr

/-- Entries in the host ring not consumed (R445). -/
def ringUsed (s : State) : Nat := (rd EVT_HEAD.head s + 2 ^ 32 - rd EVT_TAIL.tail s) % 2 ^ 32

/-- The condition of R467. -/
def evtCondition (s : State) : Bool :=
  rdb EVT_CFG.lost s || rdb EVT_CFG.ring_err s
    || (rdb EVT_CFG.thr s && decide (rd EVT_CFG.thr s ≤ ringUsed s))

/-- Whether the input of source `n` is asserted (R428, R429 and the rules it names). -/
def sourceInput (n : Nat) (s : State) : Bool :=
  if n < 52 then !(regionAt n s).flags.isEmpty || s.reg (RGN_TILE_SAT n) != 0
  else if n = 64 then anyW1c THM_STAT s
  else if n = 65 then
    (rdb MCV_CTL.fifo_thr s && decide (fifoThreshold s ≤ s.mcv.fifo.length))
      || rdb MCV_STAT.overflow s || rdb MCV_STAT.cal_fail s
  else if n = 66 then rdb CAL_STAT.ref_warn s || rdb CAL_STAT.ref_fail s || rdb CAL_STAT.fit_fail s
  else if n = 67 then anyW1c SEC_TAMPER_STAT s || anyW1c SEC_LCS_REQ s || anyW1c SEC_ATTEST_CMD s
  else if n = 68 then anyW1c BOOT_STAT s
  else if n = 69 then s.srv.storm || rdb SRV_STAT.req_irq s || rdb SRV_STAT.scan_err s || rdb SRV_STAT.kv_low s
      || rdb SRV_STAT.tbx_full s || rdb SRV_STAT.tbx_exp s
  else if n = 70 then rdb SMP_STAT.nan s || rdb SMP_STAT.nodraft s || rdb SMP_STAT.mask_err s
  else if n = 71 then rdb WLD_STAT.done s || rdb WLD_STAT.err s || rdb WLD_STAT.pcl_done s || rdb WLD_STAT.cos_done s
      || rdb WLD_COSTUME_CTL.err s
  else if n = 72 then anyW1c CHK_STAT s
  else if n = 73 then anyW1c PAIR_STAT s
  else if 74 ≤ n && n ≤ 85 then
    rdb (MEM_HBM_STAT.ue (n - 74)) s || rdb (MEM_HBM_STAT.ce_hi (n - 74)) s || rdb (MEM_HBM_STAT.fail (n - 74)) s
  else if n = 86 then rdb MEM_SCR_ECC.ue s || rdb MEM_SCR_ECC.ce_storm s
  else if n = 87 then evtCondition s
  else if n = 88 then rdb PWR_STATE.late s || rdb PWR_STATE.clk_err s || rdb PWR_STATE.tin s
  else if n = 89 then linkCondition s
  else false

/-- The pending bit P of source `n` (R433). -/
def srcPending (n : Nat) (s : State) : Bool :=
  if reservedSource n then false
  else
    let latch := s.icu.latch.getLsbD n
    if softSource n then latch
    else match rd (ICU_SRC_CFG.sense n) s with
      | 0 => sourceInput n s || latch
      | 1 => !sourceInput n s || latch
      | _ => latch

/-- Source `n` is routed to target `t` (R434). -/
def srcRouted (n t : Nat) (s : State) : Bool :=
  if t = 4 then rdb (ICU_SRC_CFG.host n) s else (rd (ICU_SRC_CFG.cores n) s).testBit t

/-- Source `n` is eligible for target `t` (R434). -/
def srcEligible (t n : Nat) (s : State) : Bool :=
  rdb (ICU_SRC_CFG.en n) s && srcRouted n t s && srcPending n s && !s.icu.active.getLsbD n
    && decide (rd (ICU_TGT_CFG.thr t) s < rd (ICU_SRC_CFG.prio n) s) && !rdb (ICU_TGT_CFG.mask_all t) s

/-- The better of two candidates: the higher priority, the earlier one among equals (R434). -/
def better (s : State) (best : Option Nat) (n : Nat) : Option Nat :=
  match best with
  | none => some n
  | some b => if rd (ICU_SRC_CFG.prio b) s < rd (ICU_SRC_CFG.prio n) s then some n else best

/-- The winner of the arbitration for target `t` (R434). -/
def icuWinner (t : Nat) (s : State) : Option Nat :=
  (List.range 256).foldl (fun best n => if srcEligible t n s then better s best n else best) none

/-- A source holds INT_N low (R440): the active bit plays no part. -/
def intSource (n : Nat) (s : State) : Bool :=
  rdb (ICU_SRC_CFG.en n) s && rdb (ICU_SRC_CFG.host n) s && srcPending n s
    && decide (rd (ICU_TGT_CFG.thr 4) s < rd (ICU_SRC_CFG.prio n) s)

/-- Open-drain outputs are released while POR_N is low or VDD_IO, rail 5 in the order of R558, is out of range (R568). -/
def outputsReleased (s : State) : Bool := !s.pins.porN || s.pins.railsOut.contains 5

/-- INT_N is driven low (R440); it is released as R568 says. -/
def intLow (s : State) : Bool :=
  !outputsReleased s && !rdb (ICU_TGT_CFG.mask_all 4) s && (List.range 256).any fun n => intSource n s

/-- A routed source waits for core `t` whatever its mask and threshold (R437). -/
def coreCalled (t : Nat) (s : State) : Bool :=
  (List.range 256).any fun n =>
    rdb (ICU_SRC_CFG.en n) s && srcRouted n t s && srcPending n s && !s.icu.active.getLsbD n

/-- A routed source is pending and held by mask_all or thr (R457). -/
def srcWaiting (t : Nat) (s : State) : Bool :=
  (List.range 256).any fun n =>
    rdb (ICU_SRC_CFG.en n) s && srcRouted n t s && srcPending n s && !s.icu.active.getLsbD n
      && (rdb (ICU_TGT_CFG.mask_all t) s || decide (rd (ICU_SRC_CFG.prio n) s ≤ rd (ICU_TGT_CFG.thr t) s))

/-- The sources of cause group `g` in bit order (R441). -/
def causeSources (g : Nat) : List (List Nat) :=
  match g with
  | 0 => (List.range 16).map fun k => [k]
  | 1 => (List.range 16).map fun k => [16 + k]
  | 2 => (List.range 20).map fun k => [32 + k]
  | 3 => [[64], [88]]
  | 4 => [[65], [66]]
  | 5 => [[67]]
  | 6 => [[68]]
  | 7 => [[69], [70]]
  | 8 => [[71]]
  | 9 => [[72]]
  | 10 => [[73]]
  | 11 => (List.range 13).map fun k => [74 + k]
  | 12 => [[87]]
  | 13 => [[89]]
  | 14 => [(List.range 32).map (96 + ·), (List.range 64).map (128 + ·), (List.range 64).map (192 + ·)]
  | _ => []

/-- A number from its bits, least significant first. -/
def bitsNat : List Bool → Nat
  | [] => 0
  | b :: t => b.toNat + 2 * bitsNat t

/-- ICU_CAUSE_g as a number (R441, R459). -/
def causeWord (g : Nat) (s : State) : Nat :=
  bitsNat ((causeSources g).map fun l => l.any fun n => sourceInput n s || srcPending n s)

/-- GLB_SUMMARY.groups (R441, R549). -/
def summaryWord (s : State) : Nat := bitsNat ((List.range 15).map fun g => causeWord g s != 0)

/-- Cores in their wait state that a routed source calls leave it (R437). -/
def wakeCores (s : State) : State :=
  (List.range 4).foldl (fun a t =>
    if rdb (ICU_TGT_CFG.sleep t) a && coreCalled t a then wr (ICU_TGT_CFG.sleep t) 0 a else a) s

/-- Source `n`'s latch set to `b`. -/
def setLatch (n : Nat) (b : Bool) (s : State) : State := { s with icu := { s.icu with latch := vset s.icu.latch n b } }

/-- Source `n`'s active bit set to `b`. -/
def setActive (n : Nat) (b : Bool) (s : State) : State := { s with icu := { s.icu with active := vset s.icu.active n b } }

/-- The master that target `t` is (R431). -/
def isTarget (who : Master) (t : Nat) : Bool :=
  match who with
  | .host => t == 4
  | .core n => t == n.val
  | _ => false

/-- What a claim of source `n` does and answers (R435, R458). -/
def claimSource (t n : Nat) (s : State) : State :=
  answer (.word (BitVec.ofNat 64 (n + 256 + 512 * rd (ICU_SRC_CFG.prio n) s)))
    (setLatch n false (wr (ICU_SRC_CFG.owner n) t (setActive n true s)))

/-- ICU_CLAIM (R435): a read of ICU_CLAIM_t. -/
def execIcuClaim (who : Master) (target : Fin 5) (s : State) : Host.Outcome State Fault Refusal :=
  .next <|
    viaBar who s fun s =>
      if isTarget who target.val then
        match icuWinner target.val s with
        | some n => claimSource target.val n s
        | none => answer (.word 0) s
      else answer (.word 0) s

/-- A write of ICU_COMPLETE_t (R436): source `n` is completed when it is active and owned by `t`. -/
def completeSource (who : Master) (t n : Nat) (data : Word) (s : State) : State :=
  if s.icu.active.getLsbD n && rd (ICU_SRC_CFG.owner n) s == t then setActive n false s
  else logIgnored who (ICU_COMPLETE t) data.toNat s

/-- ICU_COMPLETE_t written (R436). A master that is not target `t` changes nothing (R431); the write is logged (R545). -/
def completeWrite (t : Nat) (w : Write) (s : State) : State :=
  viaBar w.who s fun s =>
    if isTarget w.who t then completeSource w.who t (fget (ICU_COMPLETE.source t) (wdata w)) w.data s
    else logIgnored w.who (ICU_COMPLETE t) w.data.toNat s

/-- ICU_COMPLETE (R436). -/
def execIcuComplete (who : Master) (target : Fin 5) (half : Half) (data : Word) (s : State) :
    Host.Outcome State Fault Refusal :=
  .next (completeWrite target.val ⟨who, half, data⟩ s)

/-- The latches of the sources of word `w` whose bit is set in `m`, set to `b`, where `ok` allows it. -/
def latchWord (w : Nat) (m : Word) (b : Bool) (ok : Nat → Bool) (s : State) : State :=
  (List.range 64).foldl (fun a k => if m.getLsbD k && ok (64 * w + k) then setLatch (64 * w + k) b a else a) s

/-- ICU_PEND_w written (R433, R456): each 1 sets the source's latch; reserved sources ignore it (R430). -/
def pendSetWrite (word : Nat) (w : Write) (s : State) : State :=
  guarded (ICU_PEND word) w s fun s => wakeCores (latchWord word (wdata w) true (fun n => !reservedSource n) s)

/-- ICU_PEND_SET (R433, R456). -/
def execIcuPendSet (who : Master) (word : Fin 4) (half : Half) (data : Word) (s : State) :
    Host.Outcome State Fault Refusal :=
  .next (pendSetWrite word.val ⟨who, half, data⟩ s)

/-- ICU_CLRPEND_w written (R456, R431): only sources whose cores field is 0 are cleared; a host write that names another is
logged (R545). -/
def clearPendWrite (word : Nat) (w : Write) (s : State) : State :=
  let free := fun n => rd (ICU_SRC_CFG.cores n) s == 0
  let foreign := (List.range 64).any fun k =>
    (wdata w).getLsbD k && !reservedSource (64 * word + k) && !free (64 * word + k)
  guarded (ICU_CLRPEND word) w s fun s =>
    let s := latchWord word (wdata w) false free s
    if foreign && w.who == .host then logIgnored w.who (ICU_CLRPEND word) w.data.toNat s else s

/-- ICU_CLEAR_PENDING (R456, R431). -/
def execIcuClearPending (who : Master) (word : Fin 4) (half : Half) (data : Word) (s : State) :
    Host.Outcome State Fault Refusal :=
  .next (clearPendWrite word.val ⟨who, half, data⟩ s)

/-- The host owns en, sense and prio of source `n` (R431). -/
def hostOwnsBasics (n : Nat) : Bool := decide (n < 96) || decide (128 ≤ n)

/-- The cores field of source `n` stays 0: after boot for hardware sources, always for the host's own (R431). -/
def coresFixed (n : Nat) (s : State) : Bool :=
  decide (128 ≤ n) || (decide (n < 96) && rd GLB_STATE.state s != 0 && rd GLB_STATE.state s != 4)

/-- The sense value a write stores: 5 to 7 store 0 (R433). -/
def senseStored (v : Nat) : Nat := if 5 ≤ v then 0 else v

/-- sense written: the latch clears when the stored value changes; 5 to 7 are logged (R433). -/
def writeSense (n : Nat) (w : Write) (s : State) : State :=
  let f := ICU_SRC_CFG.sense n
  let v := wbits f w s
  let old := rd f s
  let s := if 5 ≤ v then logIgnored w.who f.off w.data.toNat s else s
  let s := wr f (senseStored v) s
  if senseStored v = old then s else setLatch n false s

/-- A write to ICU_SRC_CFG_n by a party that owns en, sense and prio. -/
def writeBasics (n : Nat) (w : Write) (s : State) : State :=
  wtake (ICU_SRC_CFG.prio n) w (wtake (ICU_SRC_CFG.en n) w (writeSense n w s))

/-- A host write would change a field the host does not own (R431). -/
def hostOversteps (n : Nat) (w : Write) (s : State) : Bool :=
  wbits (ICU_SRC_CFG.cores n) w s != rd (ICU_SRC_CFG.cores n) s
    || (!hostOwnsBasics n && (wbits (ICU_SRC_CFG.en n) w s != rd (ICU_SRC_CFG.en n) s
      || wbits (ICU_SRC_CFG.sense n) w s != rd (ICU_SRC_CFG.sense n) s
      || wbits (ICU_SRC_CFG.prio n) w s != rd (ICU_SRC_CFG.prio n) s))

/-- What the host writes of ICU_SRC_CFG_n (R431). -/
def hostSrcCfg (n : Nat) (w : Write) (s : State) : State :=
  let s' := wtake (ICU_SRC_CFG.host n) w (if hostOwnsBasics n then writeBasics n w s else s)
  if hostOversteps n w s then logIgnored w.who (ICU_SRC_CFG n) w.data.toNat s' else s'

/-- What a control core writes of ICU_SRC_CFG_n (R431). -/
def coreSrcCfg (n : Nat) (w : Write) (s : State) : State :=
  let s := if hostOwnsBasics n then s else writeBasics n w s
  if coresFixed n s then s else wtake (ICU_SRC_CFG.cores n) w s

/-- ICU_SRC_CFG_n written (R431, R433, R455); reserved sources ignore it (R430). -/
def srcCfgWrite (n : Nat) (w : Write) (s : State) : State :=
  guarded (ICU_SRC_CFG n) w s fun s =>
    if reservedSource n then s
    else wakeCores (if w.who == .host then hostSrcCfg n w s else coreSrcCfg n w s)

/-- ICU_SRC_CFG_WRITE (R431). -/
def execIcuSrcCfgWrite (n : Fin 256) (w : Write) (s : State) : Host.Outcome State Fault Refusal :=
  .next (srcCfgWrite n.val w s)

/-- Whether a change of the input to `now` sets the latch under `sense` (R433). -/
def edgeSets (sense : Nat) (now : Bool) : Bool :=
  match sense with
  | 2 => now
  | 3 => !now
  | 4 => true
  | _ => false

/-- SOURCE_INPUT_CHANGE (R433): the input last seen follows the condition; an edge sets the latch as sense says; a
core in its wait state wakes (R437). A source whose input has not changed, and one without an input, stay as they are. -/
def execSourceInputChange (n : Fin 256) (s : State) : Host.Outcome State Fault Refusal :=
  let v := sourceInput n.val s
  .next <|
    if reservedSource n.val || softSource n.val || s.icu.input.getLsbD n.val == v then s
    else
      let s := if edgeSets (rd (ICU_SRC_CFG.sense n.val) s) v then setLatch n.val true s else s
      wakeCores { s with icu := { s.icu with input := vset s.icu.input n.val v } }

/-- ICU_TGT_CFG_t written (R431, R457): cores write targets 0 to 3, the host target 4; a host write elsewhere is
logged when it would change the register (R431). -/
def tgtCfgWrite (t : Nat) (w : Write) (s : State) : State :=
  guarded (ICU_TGT_CFG t) w s fun s =>
    if (w.who == .host) == (t == 4) then wtake (ICU_TGT_CFG.thr t) w (wtake (ICU_TGT_CFG.mask_all t) w s)
    else if w.who == .host && (wbits (ICU_TGT_CFG.thr t) w s != rd (ICU_TGT_CFG.thr t) s
        || wbits (ICU_TGT_CFG.mask_all t) w s != rd (ICU_TGT_CFG.mask_all t) s) then
      logIgnored w.who (ICU_TGT_CFG t) w.data.toNat s
    else s

end Sys2Proof.Machine
end

