-- ==== Sys2Proof/Machine/Serving.lean ====
section
/-! DEFINITION. Requests, slots, scanning, sequences, rings and the Toybox (10_serving.md R233 to R273). -/

namespace Sys2Proof.Machine

/-- The size of the HDM range (R233). -/
def hdmSize : Nat := 2 ^ 33

/-- The most positions of a sequence (R244, R251). -/
def maxPos : Nat := 16777216

/-! ## Configuration parameters (R511) -/

/-- Parameter `id` of the record in force, its default where the record does not name it. -/
def param (id dflt : Nat) (s : State) : Nat :=
  if s.boot.config.inForce then
    match s.boot.config.params.find? fun p => p.1 == id with
    | some p => p.2
    | none => dflt
  else dflt

/-- keep_tbl_off (R363); the ROM runner uses the default (R369). -/
def keepOff (s : State) : Nat := if rdb GLB_STATE.rom_runner s then 0x1FFF00000 else param 0x50 0x1FFF00000 s
/-- keep_tbl_slots (R363). -/
def keepSlots (s : State) : Nat := if rdb GLB_STATE.rom_runner s then 16 else param 0x51 16 s
/-- kv_format is MXFP4 (R265). -/
def kvMx (s : State) : Bool := param 0x20 0 s == 1
/-- kv_low in % (R265). -/
def kvLow (s : State) : Nat := param 0x21 5 s
/-- costume_store in GiB (R377). -/
def costumeStore (s : State) : Nat := param 0x40 16 s
/-- hist_area in GiB (R377). -/
def histArea (s : State) : Nat := param 0x41 16 s

/-! ## Operating state and generations as serving sees them -/

/-- GLB_STATE reads SERVICE. -/
def inService (s : State) : Bool := rd GLB_STATE.state s == 2
/-- GLB_STATE reads TIN. -/
def inTin (s : State) : Bool := rd GLB_STATE.state s == 3
/-- The keep table is served: TIN, or the ROM runner (R363). -/
def keepServed (s : State) : Bool := inTin s || rdb GLB_STATE.rom_runner s

/-- GLB_STEP of a boundary: the number of the step that begins there, or that will be the first to run after it (R249, R298). -/
def boundaryStep (s : State) : Nat :=
  match s.srv.voids with
  | t :: _ => t.num
  | [] => s.srv.highest + 1

/-- The record of generation slot `g`. -/
def genAt (g : Nat) (s : State) : Gen := tget Gen.init s.wld.gens g

/-- The record of generation slot `g` changed by `f`. -/
def setGen (g : Nat) (f : Gen → Gen) (s : State) : State :=
  { s with wld := { s.wld with gens := tset Gen.init s.wld.gens g (f (genAt g s)) } }

/-- The slot whose state is ACTIVE (R210). -/
def activeSlot (s : State) : Option Nat := (List.range 4).find? fun g => rd (WLD_GEN.state g) s == 3

/-- The slot that holds generation `id` (R216). -/
def slotOf (id : Nat) (s : State) : Option Nat :=
  (List.range 4).find? fun g => rd (WLD_GEN.state g) s != 0 && rd (WLD_GEN.gen g) s == id

/-- Requests that pin slot `g` as their main generation (R211). -/
def mainPins (g : Nat) (s : State) : Nat :=
  (s.srv.requests.filter fun r => r.running && r.key < 16384 && r.slot == g).length

/-- Requests that pin slot `g` as their draft (R211, R287). -/
def draftPins (g : Nat) (s : State) : Nat :=
  (s.srv.requests.filter fun r => r.running && r.draft == 1 && r.draftSlot == g).length

/-- The manifest of a generation slot; 4 is the Tin Soldier model. -/
def modelOf (slot : Nat) (s : State) : Option Manifest := if slot = 4 then s.tin.model else (genAt slot s).manifest

/-- The payload of a generation slot by chunk (R20); 4 is the Tin Soldier model. -/
def payloadOf (slot : Nat) (s : State) : List (Nat × List Byte) := if slot = 4 then s.tin.payload else (genAt slot s).payload

/-- V and the end token of a slot's model (R274). -/
def slotVocab (slot : Nat) (s : State) : Nat × Option Nat :=
  match modelOf slot s with
  | some m => modelVocab m (payloadOf slot s)
  | none => (262144, none)

/-- The slot of the model a request runs on: 4 for the keep table. -/
def modelSlot (r : Request) : Nat := if 16384 ≤ r.key then 4 else r.slot

/-- The manifest a request runs on. -/
def manifestOf (r : Request) (s : State) : Option Manifest := modelOf (modelSlot r) s

/-- The vocabulary size and end token of a request's generation (R274). -/
def vocabOf (r : Request) (s : State) : Nat × Option Nat := slotVocab (modelSlot r) s

/-! ## Slots -/

/-- The table of a request key. -/
def keyTable (key : Nat) : Nat := key / 4096
/-- The slot of a request key. -/
def keySlot (key : Nat) : Nat := key % 4096

/-- The HDM offset of table `k` (R236, R363). -/
def tableBase (k : Nat) (s : State) : Nat :=
  if k = 4 then keepOff s else rd (SRV_TBL_BASE.off k) s * 4096

/-- The slots of table `k` (R267, R363). -/
def tableSlots (k : Nat) (s : State) : Nat :=
  if k = 4 then keepSlots s else min (rd (SRV_TBL_SIZE.slots k) s) 4096

/-- The HDM offset of the slot of a request key (R236). -/
def slotAddr (key : Nat) (s : State) : Nat := tableBase (keyTable key) s + 256 * keySlot key

/-- The state byte of a slot; other values read as FREE (R239). -/
def slotState (key : Nat) (s : State) : Nat :=
  let b := hdmNat (slotAddr key s) 1 s
  if 5 < b then 0 else b

/-- The cancel bit of a slot's state word (R239). -/
def slotCancel (key : Nat) (s : State) : Bool := hdmNat (slotAddr key s + 4) 1 s % 2 == 1

/-- The part writes bytes 0 and 1 of the state word (R240). -/
def putState (key st cause : Nat) (s : State) : State := putHdm (slotAddr key s) 2 (st + 256 * cause) s

/-- ring_rd of a slot, read at every step boundary (R238). -/
def ringRd (r : Request) (s : State) : Nat := hdmNat (slotAddr r.key s + 60) 4 s

/-- The slot body copied at take (R237, R238). -/
def readSlot (key order : Nat) (s : State) : Request :=
  let a := slotAddr key s
  let n := fun off len => hdmNat (a + off) len s
  let fl := n 9 1
  { key, op := n 8 1, new := fl.testBit 0, exact := fl.testBit 1, early := fl.testBit 2, irq := fl.testBit 3
    pauseEnd := fl.testBit 4, releaseEnd := fl.testBit 5, context := n 10 2, genHint := n 12 2
    costumeVersion := n 14 2 % 4096, costumeCheck := (n 14 2).testBit 15, seq := n 16 4
    ttl := max 1 (min (n 20 4) 86400), promptOff := n 24 8, promptLen := n 32 4, maxNew := n 36 4, nextDue := n 40 4
    ringOff := n 48 8, ringLen := n 56 4, temperature := BitVec.ofNat 32 (n 64 4), topP := BitVec.ofNat 32 (n 68 4)
    minP := BitVec.ofNat 32 (n 72 4), repPenalty := BitVec.ofNat 32 (n 76 4), topK := n 80 2, mask := n 82 2
    specK := n 84 1, seed := BitVec.ofNat 64 (n 88 8), stop := [n 96 4, n 100 4, n 104 4, n 108 4]
    running := false, order, slot := 0, genId := 0, costume := none, frames := 0, units := 0, draft := 0, draftSlot := 0
    depth := 0, rejects := 0, pauseLeft := 0, probe := false, ringWr := 0, produced := 0, committed := 0, consumed := 0
    retracted := 0, lastStep := 0, base := 0, cancelled := false, tileFault := false, held := []
    endCause := none, waitsFetch := false }

/-- A 64-byte line of the HDM range reads as poison: it is poisoned, or its stack has failed (R375, R382, R384). -/
def lineBad (line : Nat) (s : State) : Bool :=
  tget false s.hdmPoison line || rd (MEM_HBM_STAT.state (line / 4 % 12)) s == 3

/-- Some line of `n` bytes from HDM offset `a` on reads as poison. -/
def spanBad (a n : Nat) (s : State) : Bool :=
  n != 0 && (List.range ((a + n - 1) / 64 - a / 64 + 1)).any fun i => lineBad (a / 64 + i) s

/-- A line of a slot body holds poison (R382): the slot body lies in lines `line` to `line + 2`. -/
def bodyPoisoned (a : Nat) (s : State) : Bool :=
  (List.range 3).any fun i => lineBad (a / 64 + i) s

/-- Every byte of a list of places is zero. -/
def zeroAt (a n : Nat) (s : State) : Bool := hdmNat a n s == 0

/-- A finite FP32 value between two fractions, both included (0 below `lo` allowed by the caller). -/
def f32Between (x : BitVec 32) (lo hi : Fp) : Bool := lo.le (f32 x) && (f32 x).le hi

/-- The sampler fields lie in their ranges (R276). A keep request ignores temperature, top_k, top_p, min_p,
rep_penalty and spec_k (R363). -/
def samplerOk (r : Request) (s : State) : Bool :=
  let zero : Fp := .fin false 0 1
  let keep := decide (16384 ≤ r.key)
  (keep || (((f32 r.temperature).eq zero || f32Between r.temperature (.fin false 1 1000) (.fin false 100 1))
    && zero.lt (f32 r.topP) && (f32 r.topP).le (.fin false 1 1)
    && zero.le (f32 r.minP) && (f32 r.minP).lt (.fin false 1 1)
    && f32Between r.repPenalty (.fin false 1 1) (.fin false 4 1)
    && decide (r.topK ≤ 256) && (decide (r.specK ≤ 8) || r.specK == 0xFF)))
  && (r.mask == 0xFFFF || (rdb SMP_CTL.mask_en s && decide (r.mask < rd SMP_CTL.mask_count s)
      && decide (rd SMP_CTL.mask_off s * 4096 + 69632 * (r.mask + 1) ≤ hdmSize)))
  && r.stop.all fun t => decide (t < 262144) || t == 0xFFFFFFFF

/-- A power of two from 16 to 65,536 (R243). -/
def ringLenOk (n : Nat) : Bool := (List.range 13).any fun k => n == 2 ^ (k + 4)

/-- The checks R243 makes on a RUN alone. -/
def runOk (r : Request) (s : State) : Bool :=
  decide (r.promptOff % 4 = 0) && decide (r.promptLen ≤ maxPos) && decide (r.promptOff + 4 * r.promptLen ≤ hdmSize)
    && decide (r.ringOff % 16 = 0) && ringLenOk r.ringLen && decide (r.ringOff + 16 * r.ringLen ≤ hdmSize)
    && !(r.new && r.promptLen == 0) && !(r.pauseEnd && r.releaseEnd) && samplerOk r s

/-- The reserved fields and bits of a slot are zero (R237, R239, R243), whatever its op. -/
def reservedOk (key : Nat) (s : State) : Bool :=
  let a := slotAddr key s
  decide (hdmNat (a + 4) 4 s < 2) && decide (hdmNat (a + 9) 1 s < 64) && zeroAt (a + 44) 4 s && zeroAt (a + 85) 3 s
    && zeroAt (a + 112) 80 s && hdmNat (a + 14) 2 s / 4096 % 8 == 0

/-- Validation of a taken slot (R243); a keep slot's extra conditions (R363). -/
def slotValid (key : Nat) (r : Request) (s : State) : Bool :=
  !bodyPoisoned (slotAddr key s) s && decide (r.op ≤ 2) && reservedOk key s
    && decide (r.context < 4096) && decide (r.seq < 65536)
    && (if r.op = 0 then runOk r s else !r.new)
    && (decide (key < 16384) || ((r.genHint == 0 || r.genHint == 0xFFFF) && !r.costumeCheck))

/-! ## Requests and sequences -/

/-- The request of a key. -/
def reqAt (key : Nat) (s : State) : Option Request := s.srv.requests.find? fun r => r.key == key

/-- The request of a key changed by `f`. -/
def setReq (key : Nat) (f : Request → Request) (s : State) : State :=
  { s with srv := { s.srv with requests := s.srv.requests.map fun r => if r.key = key then f r else r } }

/-- The request of a key taken off the list. -/
def dropReq (key : Nat) (s : State) : State :=
  { s with srv := { s.srv with requests := s.srv.requests.filter fun r => r.key != key } }

/-- A request of the keep table. -/
def isKeep (r : Request) : Bool := decide (16384 ≤ r.key)

/-- The sequence `id` of a request's id space (R364). -/
def seqAt (keep : Bool) (id : Nat) (s : State) : Option Sequence :=
  s.srv.seqs.find? fun q => q.keep == keep && q.id == id && !q.mirror

/-- The sequence changed by `f`. -/
def setSeq (keep : Bool) (id : Nat) (f : Sequence → Sequence) (s : State) : State :=
  { s with srv := { s.srv with
      seqs := s.srv.seqs.map fun q => if q.keep = keep ∧ q.id = id ∧ q.mirror = false then f q else q } }

/-- Toybox units of 2 MiB that the pages of `frames` frames take (R255, R272). -/
def toyboxUnits (frames : Nat) : Nat := (frames * 65536 + 2097151) / 2097152

/-- The sequence ends; its id becomes free (R245). Toybox space it held is given back (R256). -/
def endSeq (keep : Bool) (id : Nat) (s : State) : State :=
  let back := match seqAt keep id s with
    | some q => toyboxUnits q.toybox
    | none => 0
  let s := { s with srv := { s.srv with
      seqs := s.srv.seqs.filter fun q => !(q.keep == keep && q.id == id && !q.mirror)
      kv := s.srv.kv.filter fun k => k.seq != id + 65536 * keep.toNat } }
  wr SRV_TOYBOX_SIZE.used (rd SRV_TOYBOX_SIZE.used s - back) s

/-- A sequence holds pages in HBM (R245). -/
def isLive (q : Sequence) : Bool :=
  match q.place with
  | .live => true
  | .copying _ _ => true
  | .fetching _ => true
  | _ => false

/-- Live sequences of the main set or the keep set (R245, R363). -/
def liveCount (keep : Bool) (s : State) : Nat :=
  (s.srv.seqs.filter fun q => q.keep == keep && isLive q && !q.mirror).length

/-- The length of a sequence: its committed positions. -/
def Sequence.length (q : Sequence) : Nat := q.history.length

/-- The length a request's sequence has. -/
def seqLen (r : Request) (s : State) : Nat :=
  match seqAt (isKeep r) r.seq s with
  | some q => q.history.length
  | none => 0

/-! ## The KV pool and the history area (R252, R376, R377, R379) -/

/-- Frames of 64 KiB that positions 0 to n − 1 take at `bytes` per page (R252). -/
def framesFor (bytes n : Nat) : Nat := (n + 255) / 256 * ((bytes + 65535) / 65536)

/-- Units of 16,384 positions that hold n positions (R379). -/
def unitsFor (n : Nat) : Nat := (n + 16383) / 16384

/-- Fixed areas of HBM in MiB (R376). -/
def fixedMib (s : State) : Nat :=
  8192 + 65536 + 4096 + 2 * 2048 + 2 * 256 + 2 * 1024 * costumeStore s + 2 * 1024 * histArea s + 2 * 4096 + 2048 + 1536

/-- The KV pool in frames: what remains of 576 GB (R376). -/
def poolFrames (s : State) : Nat := (576000000000 - fixedMib s * 1048576) / 65536 - s.srv.lossFrames

/-- The share of the pool set aside for the partner's mirror in split mode (R346). -/
def mirrorFrames (s : State) : Nat :=
  if rdb PAIR_CTL.en s && rdb PAIR_CTL.mode s then
    poolFrames s * max 10 (min (rd PAIR_CTL.mirror_pct s) 50) / 100
  else 0

/-- Frames held by main sequences and the reservations of main requests. -/
def usedFrames (s : State) : Nat :=
  (s.srv.seqs.foldl (fun a q => if q.keep || q.mirror then a else a + q.frames) 0)
    + s.srv.requests.foldl (fun a r => if isKeep r then a else a + r.frames) 0

/-- Frames of the pool free for main reservations. -/
def freeFrames (s : State) : Nat := poolFrames s - mirrorFrames s - usedFrames s

/-- Frames the keep pool of 1 GiB has (R363). -/
def keepFrames : Nat := 16384

/-- Keep frames held. -/
def usedKeepFrames (s : State) : Nat :=
  (s.srv.seqs.foldl (fun a q => if q.keep then a + q.frames else a) 0)
    + s.srv.requests.foldl (fun a r => if isKeep r then a + r.frames else a) 0

/-- History units of the area. -/
def poolUnits (s : State) : Nat := histArea s * 16384

/-- History units held. -/
def usedUnits (s : State) : Nat :=
  (s.srv.seqs.foldl (fun a q => a + q.units) 0) + s.srv.requests.foldl (fun a r => a + r.units) 0

/-- Bytes of one page of a request's model; the draft generation's pages are added (R252, R287). -/
def pageBytes (r : Request) (s : State) : Nat :=
  (match manifestOf r s with
    | some m => m.pageBytes
    | none => 0)
  + (if r.draft = 1 then
      match (genAt r.draftSlot s).manifest with
      | some m => m.pageBytes
      | none => 0
    else 0)

/-- SRV_KV_STAT brought up to date (R273), and kv_low set below its fraction (R265, R271). -/
def updateKvStat (s : State) : State :=
  let total := poolFrames s
  let free := freeFrames s
  let s := wr SRV_KV_STAT.total_mib (total / 16) (wr SRV_KV_STAT.free_mib (free / 16) s)
  if free * 100 < kvLow s * total then wr SRV_STAT.kv_low 1 s else s

/-! ## Rings and results -/

/-- Used entries of a request's ring (R260). -/
def ringUsedBy (r : Request) (s : State) : Nat := (r.ringWr + 2 ^ 32 - ringRd r s) % 2 ^ 32

/-- ring_rd is valid (R260). -/
def ringValid (r : Request) (s : State) : Bool := decide (ringUsedBy r s ≤ r.ringLen)

/-- Free entries of the ring; none while ring_rd is invalid (R259, R260). -/
def ringFree (r : Request) (s : State) : Nat := if ringValid r s then r.ringLen - ringUsedBy r s else 0

/-- The 16 bytes of a ring entry (R258). -/
def entryBytes (e : RingEntry) : List Byte :=
  leBytes 4 e.token
    ++ leBytes 4 (e.pos % 2 ^ 24 + 2 ^ 24 * e.prov.toNat + 2 ^ 25 * e.retract.toNat + 2 ^ 26 * e.last.toNat)
    ++ leBytes 4 (e.step % 2 ^ 32) ++ leBytes 4 e.logp.toNat

/-- The result fields at bytes 192 to 231 written from the request (R237); ttl_left is written at take. -/
def putResults (r : Request) (s : State) : State :=
  let a := slotAddr r.key s
  putHdm (a + 192) 4 r.ringWr <| putHdm (a + 196) 4 r.produced <| putHdm (a + 200) 4 r.committed <|
    putHdm (a + 204) 4 r.consumed <| putHdm (a + 208) 4 (seqLen r s) <| putHdm (a + 212) 4 r.retracted <|
    putHdm (a + 224) 8 r.lastStep s

/-- One entry written into the ring at index ring_wr (R258). -/
def writeEntry (r : Request) (e : RingEntry) (s : State) : State :=
  { s with hdm := putBytes (r.ringOff + 16 * (r.ringWr % r.ringLen)) (entryBytes e) s.hdm }

/-- What writing an entry does to the request's counts (R237): a retraction entry counts as retracted, any other as produced. -/
def countEntry (e : RingEntry) (r : Request) : Request :=
  { r with ringWr := (r.ringWr + 1) % 2 ^ 32
           produced := if e.retract then r.produced else r.produced + 1
           retracted := if e.retract then r.retracted + e.token else r.retracted }

/-- An entry written, or held where the ring lacks room or entries are held before it (R260). -/
def putEntry (key : Nat) (e : RingEntry) (s : State) : State :=
  match reqAt key s with
  | none => s
  | some r =>
    if r.held.isEmpty && decide (1 ≤ ringFree r s) then setReq key (countEntry e) (writeEntry r e s)
    else setReq key (fun r => { r with held := r.held ++ [e] }) s

/-- Held entries written in order while the ring shows room (R260), at most `n`. -/
def flushHeld : Nat → Nat → State → State
  | 0, _, s => s
  | n + 1, key, s =>
    match reqAt key s with
    | none => s
    | some r =>
      match r.held with
      | [] => s
      | e :: t =>
        if 1 ≤ ringFree r s then
          flushHeld n key (setReq key (fun r => { countEntry e r with held := t }) (writeEntry r e s))
        else s

/-! ## The end of a request -/

/-- The state a cause ends a request in: DONE below 0x10, FAILED otherwise (R244). -/
def causeState (cause : Nat) : Nat := if cause < 0x10 then 4 else 5

/-- The Toybox is enabled and has room for `n` units (R255, R272). -/
def toyboxRoom (n : Nat) (s : State) : Bool :=
  rdb SRV_TOYBOX_BASE.en s && decide (rd SRV_TOYBOX_SIZE.used s + n ≤ rd SRV_TOYBOX_SIZE.size s)

/-- A copy of a live sequence to the Toybox starts (R255). -/
def startCopy (q : Sequence) (ttl : Nat) (key : Option Nat) (s : State) : State :=
  wr SRV_TOYBOX_SIZE.used (rd SRV_TOYBOX_SIZE.used s + toyboxUnits q.frames)
    (setSeq q.keep q.id (fun q => { q with place := .copying ttl key, toybox := q.frames }) s)

/-- pause_end and release_end act after the end of a RUN (R237, R255, R262). -/
def afterEnd (r : Request) (s : State) : State :=
  if r.op != 0 then s
  else if r.releaseEnd then endSeq (isKeep r) r.seq s
  else if r.pauseEnd then
    match seqAt (isKeep r) r.seq s with
    | none => s
    | some q => if toyboxRoom (toyboxUnits q.frames) s && !isKeep r then startCopy q r.ttl none s else wr SRV_STAT.tbx_full 1 s
  else s

/-- The request's next due time becomes a known event (R262, R486): its context's instant in cycles. -/
def noteDue (r : Request) (s : State) : State :=
  if isKeep r || r.op != 0 then s
  else
    let us := if r.nextDue = 0 then rd PWR_POLICY.assume_ms s * 1000 else r.nextDue
    { s with pwr := { s.pwr with dues := (s.pwr.dues.filter fun d => d.1 != r.context) ++ [(r.context, s.now + us * 600)] } }

/-- A sequence's frames and units at its committed length (R252). -/
def trimSeq (r : Request) (s : State) : State :=
  setSeq (isKeep r) r.seq (fun q => { q with
    frames := framesFor (pageBytes r s) q.history.length, units := unitsFor q.history.length }) s

/-- A request ends with a cause (R244, R262): result fields, then the state byte; its pins and reservation go with it. -/
def finish (key cause : Nat) (s : State) : State :=
  match reqAt key s with
  | none => s
  | some r =>
    let s := putState key (causeState cause) cause (putResults r s)
    let s := if r.running then trimSeq r s else s
    let s := dropReq key s
    let s := if r.irq then wr SRV_STAT.req_irq 1 s else s
    noteDue r (if cause < 0x10 then afterEnd r s else s)

/-- A request ends; while entries are held its end waits behind them (R260). -/
def endRequest (key cause : Nat) (s : State) : State :=
  match reqAt key s with
  | none => s
  | some r => if r.held.isEmpty then finish key cause s else setReq key (fun r => { r with endCause := some cause }) s

/-- A slot that ends without a request of the part: it was never taken (R240, R243), or a reset has taken the request (R264). Its irq
flag counts as any request's (R271). -/
def failSlot (key cause : Nat) (s : State) : State :=
  let s := putState key 5 cause s
  if (readSlot key 0 s).irq then wr SRV_STAT.req_irq 1 s else s

/-! ## Taking slots (R242 to R245, R257) -/

/-- Bytes 192 to 255 of a slot set to zero at take (R238). -/
def zeroResults (key : Nat) (s : State) : State :=
  { s with hdm := putBytes (slotAddr key s + 192) (List.replicate 64 0) s.hdm }

/-- Another request of the same id space names the sequence, or a pause of it is in progress (R245). -/
def seqBusy (r : Request) (s : State) : Bool :=
  (s.srv.requests.any fun o => o.key != r.key && isKeep o == isKeep r && o.seq == r.seq)
    || match seqAt (isKeep r) r.seq s with
      | some q => (match q.place with | .copying _ _ => true | _ => false)
      | none => false

/-- The sequence checks made just after take (R245): the cause of the first that fails. -/
def seqCheck (r : Request) (s : State) : Option Nat :=
  let known := (seqAt (isKeep r) r.seq s).isSome
  if seqBusy r s then some 0x13
  else if r.new then (if known then some 0x15 else none)
  else if known then none
  else if s.srv.expired.contains (r.seq, isKeep r) && r.op == 0 then some 0x16
  else some 0x14

/-- Milliseconds of a time to live that are left at an instant (R256). -/
def msLeft (ends : Nat) (s : State) : Nat := (ends - s.now + 599999) / 600000

/-- The instant at which a time to live of `ms` that is counted from now on runs out (R256). -/
def endsIn (ms : Nat) (s : State) : Nat := s.now + ms * 600000

/-- A paused sequence whose count has reached zero (R256). -/
def countedOut (q : Sequence) (s : State) : Bool :=
  match q.place with
  | .paused ends => decide (ends ≤ s.now)
  | _ => false

/-- The entry of a paused sequence is released, the sequence ends and its id becomes free; tbx_exp is set and the sequence logged
(R256). -/
def expireSeq (id : Nat) (s : State) : State :=
  let s := endSeq false id s
  let s := { s with srv := { s.srv with expired := s.srv.expired ++ [(id, false)] } }
  log 7 2 0x0072 0 (leBytes 4 id) (wr SRV_STAT.tbx_exp 1 s)

/-- Every entry whose count has reached zero is released (R256). -/
def expireDue (s : State) : State :=
  ((s.srv.seqs.filter fun q => countedOut q s).map (·.id)).foldl (fun a i => expireSeq i a) s

/-- A RUN that resumes a paused sequence stops its count at take and records ttl_left; the fetch starts at once, or once a
live place is free (R247, R257). -/
def resumeAtTake (r : Request) (s : State) : State :=
  if r.op != 0 then s
  else match seqAt (isKeep r) r.seq s with
    | some q =>
      match q.place with
      | .paused ends =>
        let ms := msLeft ends s
        let s := putHdm (slotAddr r.key s + 232) 4 (ms / 1000) s
        let place := if liveCount false s < 16384 then Where.fetching ms else Where.waiting ms
        setReq r.key (fun r => { r with waitsFetch := true })
          (setSeq (isKeep r) r.seq (fun q => { q with place }) s)
      | _ => s
    | none => s

/-- A valid slot taken (R238, R240, R245). -/
def takeSlot (key : Nat) (r : Request) (s : State) : State :=
  let s := putState key 2 0 (zeroResults key s)
  let s := { s with srv := { s.srv with
      requests := s.srv.requests ++ [r], nextOrder := s.srv.nextOrder + 1
      lastTaken := tset 0 s.srv.lastTaken (keyTable key) (keySlot key + 1)
      expired := if r.new then s.srv.expired.filter fun e => e != (r.seq, isKeep r) else s.srv.expired } }
  match seqCheck r s with
  | some c => finish key c s
  | none => resumeAtTake r s

/-- Slots of table `k` may be taken now (R242, R211, R143, R266, R363). -/
def mayTake (k : Nat) (s : State) : Bool :=
  decide ((s.srv.requests.filter fun r => !r.running).length < 4096)
    && decide (rd SRV_STAT.stage s < 2) && !rdb SRV_CTL.hold s
    && (if k = 4 then keepServed s
        else inService s && (activeSlot s).isSome
          && (!rdb PAIR_ROLE.role s || rd PAIR_STAT.state s != 3 || rdb PAIR_CTL.mode s))

/-- A cancelled resumption that still waits for a live place leaves its sequence paused (R263). -/
def unwait (key : Nat) (s : State) : State :=
  match reqAt key s with
  | none => s
  | some r => setSeq (isKeep r) r.seq (fun q =>
      match q.place with
      | .waiting ms => { q with place := .paused (endsIn ms s) }
      | _ => q) s

/-- One slot as a scan sees it (R242, R263). -/
def scanSlot (key : Nat) (s : State) : State :=
  match slotState key s with
  | 1 =>
    if slotCancel key s then failSlot key 0x10 s
    else if mayTake (keyTable key) s then
      let r := readSlot key s.srv.nextOrder s
      if slotValid key r s then takeSlot key r s else wr SRV_STAT.scan_err 1 (failSlot key 0x12 s)
    else s
  | 2 => if slotCancel key s then finish key 0x10 (unwait key s) else s
  | 3 => if slotCancel key s then setReq key (fun r => { r with cancelled := true }) s else s
  | _ => s

/-- Table `k` is scanned: enabled and within the HDM range (R236, R266, R363). -/
def tableScanned (k : Nat) (s : State) : Bool :=
  if k = 4 then keepServed s else inService s && (rd SRV_CTL.tbl_en s).testBit k

/-- One table scanned from the slot after the last one taken, wrapping round (R242). -/
def scanTable (k : Nat) (s : State) : State :=
  if !tableScanned k s then s
  else
    let n := tableSlots k s
    if hdmSize < tableBase k s + 256 * n then wr SRV_STAT.scan_err 1 s
    else (List.range n).foldl (fun a i => scanSlot (4096 * k + (tget 0 s.srv.lastTaken k + i) % n) a) s

/-- A scan of every table in ascending class, the keep table first (R242, R365); no scan in PS3 and PS4 (R413). Counts that have run out
are served first, so that a slot taken finds its sequence expired (R257). -/
def scanAll (s : State) : State :=
  if 3 ≤ rd PWR_STATE.state s then s
  else incWrap SRV_SCAN.scans 1 ([4, 0, 1, 2, 3].foldl (fun a k => scanTable k a) (expireDue s))

end Sys2Proof.Machine
end

