-- ==== Sys2Proof/Machine/Admission.lean ====
section
/-! DEFINITION. Admission of TAKEN requests (10_serving.md R246 to R248, R252; 11_sampling.md R287), and the operations
PAUSE and RELEASE. -/

namespace Sys2Proof.Machine

/-- The part is paired (R353). -/
def paired (s : State) : Bool := rd PAIR_STAT.state s == 3
/-- Mirrored pair operation in force. -/
def mirrored (s : State) : Bool := paired s && !rdb PAIR_CTL.mode s
/-- Split pair operation in force. -/
def splitMode (s : State) : Bool := paired s && rdb PAIR_CTL.mode s
/-- The secondary of a mirrored pair runs the primary's plan (R342). -/
def secondary (s : State) : Bool := mirrored s && rdb PAIR_ROLE.role s

/-- The wardrobe of a context. -/
def wardrobeAt (c : Nat) (s : State) : Wardrobe := tget Wardrobe.init s.wld.wardrobes c

/-- The wardrobe of a context changed by `f`. -/
def setWardrobe (c : Nat) (f : Wardrobe → Wardrobe) (s : State) : State :=
  { s with wld := { s.wld with wardrobes := tset Wardrobe.init s.wld.wardrobes c (f (wardrobeAt c s)) } }

/-- A Costume version of a context. -/
def costumeOf (c v : Nat) (s : State) : Option Costume := (wardrobeAt c s).live.find? fun x => x.version == v

/-- A version is pinned by a running request (R222). -/
def versionPinned (c v : Nat) (s : State) : Bool :=
  s.srv.requests.any fun r => r.running && r.context == c && r.costume == some v

/-- Versions neither current, staged nor pinned are freed (R222). -/
def freeVersions (c : Nat) (s : State) : State :=
  let keep : Wardrobe → Costume → Bool := fun w x =>
    w.current == some x.version || w.staged == some (some x.version) || versionPinned c x.version s
  setWardrobe c (fun w => { w with live := w.live.filter (keep w) }) s

/-- The generation id resolves: `none` to wait, an error cause, or the slot to pin (R248). -/
inductive GenChoice where
  | wait
  | fail (cause : Nat)
  | pin (slot id : Nat)
  deriving DecidableEq, Repr

/-- Resolution of a main request's generation (R248). -/
def chooseGen (r : Request) (s : State) : GenChoice :=
  let becomes := (List.range 4).any fun g =>
    rd (WLD_GEN.gen g) s == r.genHint && (let st := rd (WLD_GEN.state g) s; st == 1 || st == 2 || st == 3)
  if r.genHint != 0 && !becomes then .fail 0x17
  else match activeSlot s with
    | none => .wait
    | some g =>
      let id := rd (WLD_GEN.gen g) s
      if r.genHint != 0 && r.genHint != id then .wait
      else match seqAt false r.seq s with
        | some q => if q.genId = id then .pin g id else .fail 0x17
        | none => .pin g id

/-- The draft a request gets (R287): kind, slot, depth, and whether SMP_STAT.nodraft is set. -/
structure DraftChoice where
  kind : Nat
  slot : Nat
  depth : Nat
  missing : Bool
  deriving DecidableEq, Repr

/-- The SMP_SPEC fields in force since the last boundary (R287). -/
def spec (f : Fld) (s : State) : Nat := fget f s.srv.spec

/-- The draft of a request admitted to slot `g` (R287, R294); a keep request has none (R359). -/
def chooseDraft (r : Request) (g : Nat) (s : State) : DraftChoice :=
  if isKeep r then ⟨0, 0, 0, false⟩
  else
    let k := if r.specK = 0xFF then min (spec SMP_SPEC.k_default s) 8 else r.specK
    let kind := spec SMP_SPEC.draft_kind s
    let layers := spec SMP_SPEC.draft_layers s
    let d := spec SMP_SPEC.draft_slot s
    if kind = 0 ∨ kind = 3 ∨ (kind = 2 ∧ layers = 0) then ⟨0, 0, 0, false⟩
    else
      let vocab := fun g => (genAt g s).manifest.map fun _ => (slotVocab g s).1
      let ok := if kind = 1 then
          (rd (WLD_GEN.state d) s == 2 || rd (WLD_GEN.state d) s == 3) && vocab d == vocab g && (vocab g).isSome
        else match (genAt g s).manifest with
          | some m => decide (layers < m.layers)
          | none => false
      if !ok then ⟨0, 0, 0, true⟩
      else if spec SMP_SPEC.en s = 0 then ⟨0, 0, 0, decide (0 < k)⟩
      else ⟨kind, d, k, false⟩

/-- Costume checks of a request that pins generation `id` (R222, R237, R246): a failing cause, or the version pinned. -/
def chooseCostume (r : Request) (id : Nat) (s : State) : Except Nat (Option Nat) :=
  if isKeep r then .ok none
  else
    let cur := (wardrobeAt r.context s).current
    if r.costumeCheck && cur.getD 0 != r.costumeVersion then .error 0x19
    else match cur with
      | none => .ok none
      | some v =>
        match costumeOf r.context v s with
        | some c => if c.gen = id then .ok (some v) else .error 0x19
        | none => .ok none

/-- Positions a RUN's reservation must hold (R252). -/
def reservedTo (r : Request) (len : Nat) : Nat := min (len + r.promptLen + r.maxNew) maxPos

/-- Frames and units a RUN needs beyond what its sequence holds (R252, R379). -/
def needs (r : Request) (s : State) : Nat × Nat :=
  let q := seqAt (isKeep r) r.seq s
  let len := match q with | some q => q.history.length | none => 0
  let have_ := match q with | some q => (q.frames, q.units) | none => (0, 0)
  (framesFor (pageBytes r s) (reservedTo r len) - have_.1, unitsFor (reservedTo r len) - have_.2)

/-- The reservation fits now (R252, R346, R379). -/
def fitsNow (r : Request) (n : Nat × Nat) (s : State) : Bool :=
  decide (usedUnits s + n.2 ≤ poolUnits s)
    && (if isKeep r then decide (usedKeepFrames s + n.1 ≤ keepFrames)
        else decide (n.1 ≤ freeFrames s) && (!splitMode s || decide (usedFrames s + n.1 ≤ mirrorFrames s)))

/-- The reservation can never fit (R252, R346, R379). -/
def fitsNever (r : Request) (n : Nat × Nat) (s : State) : Bool :=
  decide (poolUnits s < n.2)
    || (if isKeep r then decide (keepFrames < n.1)
        else decide (poolFrames s - mirrorFrames s < n.1) || (splitMode s && decide (mirrorFrames s < n.1)))

/-- The request becomes RUNNING with its pins and reservation (R246); open due windows close (R486). -/
def enterRunning (r : Request) (g id : Nat) (ver : Option Nat) (d : DraftChoice) (n : Nat × Nat) (s : State) : State :=
  let s := if d.missing then wr SMP_STAT.nodraft 1 s else s
  let fresh : Sequence := ⟨r.seq, isKeep r, r.context, id, [], 0, 0, .live, 0, 0, false⟩
  let s := if r.new then { s with srv := { s.srv with seqs := s.srv.seqs ++ [fresh] } } else s
  let len := seqLen r s
  let s := setReq r.key (fun r => { r with
    running := true, slot := g, genId := id, costume := ver, frames := n.1, units := n.2, draft := d.kind
    draftSlot := d.slot, depth := d.depth, base := len }) s
  let s := wr PWR_STATE.due_open 0 { s with pwr := { s.pwr with open_ := [] } }
  putHdm (slotAddr r.key s + 216) 8 (boundaryStep s) (putState r.key 3 0 s)

/-- The checks after the generation is resolved, and the admission itself (R246); `none`: it waits. -/
def admitWith (r : Request) (g id : Nat) (s : State) : Option State :=
  let q := seqAt (isKeep r) r.seq s
  if !r.new && q.isNone then some (finish r.key 0x14 s)
  else if (match q with | some q => q.context != r.context | none => false) then some (finish r.key 0x18 s)
  else match chooseCostume r id s with
    | .error c => some (finish r.key c s)
    | .ok ver =>
      if maxPos < seqLen r s + r.promptLen then some (finish r.key 0x1F s)
      else
        let d := chooseDraft r g s
        let n := needs { r with slot := g, draft := d.kind, draftSlot := d.slot } s
        if fitsNever r n s then some (finish r.key 0x1A s)
        else if !fitsNow r n s then none
        else
          let s := enterRunning r g id ver d n s
          if r.promptLen = 0 ∧ r.maxNew = 0 then some (finish r.key 0x03 s) else some s

/-- The id of the ACTIVE generation, 0 without one. -/
def activeId (s : State) : Nat := match activeSlot s with | some g => rd (WLD_GEN.gen g) s | none => 0

/-- Admission is open for a request (R242, R143, R266, R342, R364). -/
def mayAdmit (r : Request) (s : State) : Bool :=
  decide ((s.srv.requests.filter fun o => o.running).length < 1024)
    && (!(r.new || r.waitsFetch) || decide (liveCount (isKeep r) s < (if isKeep r then 64 else 16384)))
    && decide (rd SRV_STAT.stage s < 2) && !rdb SRV_CTL.hold s
    && (if isKeep r then keepServed s || inService s
        else inService s
          && (!mirrored s || s.pair.active.toNat == activeId s)
          && (!secondary s || (match s.pair.plan with
            | some p => p.named.any fun a => a.1 * 4096 + a.2.1 == r.key
            | none => false)))

/-- Whether a resumption still waits for its pages (R246, R257). -/
def stillFetching (r : Request) (s : State) : Bool :=
  match seqAt (isKeep r) r.seq s with
  | some q => (match q.place with | .live => false | _ => true)
  | none => false

/-- One TAKEN RUN at an admission instant: `none` when it cannot be admitted yet (R246). -/
def admitOne (r : Request) (s : State) : Option State :=
  if r.cancelled then some (finish r.key 0x10 s)
  else if !mayAdmit r s || stillFetching r s then none
  else if isKeep r then (if s.tin.model.isSome then admitWith r 0 0xFFFF s else none)
  else match chooseGen r s with
    | .wait => none
    | .fail c => some (finish r.key c s)
    | .pin g id => admitWith r g id s

/-- Requests before one another: keep requests first, then ascending class, then order of take (R246, R365). -/
def admitBefore (a b : Request) : Bool :=
  let c := fun r : Request => if isKeep r then 0 else 1 + keyTable r.key
  decide (c a < c b) || (decide (c a = c b) && decide (a.order ≤ b.order))

/-- Insertion into a list sorted by `le`. -/
def insertBy {α : Type} (le : α → α → Bool) (x : α) : List α → List α
  | [] => [x]
  | y :: t => if le x y then x :: y :: t else y :: insertBy le x t

/-- A list sorted by `le`, equal elements in their order. -/
def sortBy {α : Type} (le : α → α → Bool) : List α → List α
  | [] => []
  | x :: t => insertBy le x (sortBy le t)

/-- TAKEN RUNs admitted in order until the first that cannot be (R246). -/
def admitList : List Request → State → State
  | [], s => s
  | r :: t, s =>
    match admitOne r s with
    | some s' => admitList t s'
    | none => s

/-- The TAKEN RUNs in admission order. -/
def takenRuns (s : State) : List Request :=
  sortBy admitBefore (s.srv.requests.filter fun r => !r.running && r.op == 0)

/-- Waiting resumptions start their fetch while live places are free (R247). -/
def startFetches (s : State) : State :=
  s.srv.seqs.foldl (fun a q =>
    match q.place with
    | .waiting ms => if liveCount false a < 16384 then setSeq q.keep q.id (fun q => { q with place := .fetching ms }) a else a
    | _ => a) s

/-- Every admission of a step boundary (R246), and the pool's figures after it (R273). -/
def admitAll (s : State) : State := updateKvStat (admitList (takenRuns s) (startFetches s))

/-! ## SCAN and the operations -/

/-- The TAKEN request of a table and slot with operation `op`. -/
def takenOp (op table slot : Nat) (s : State) : Option Request :=
  match reqAt (4096 * table + slot) s with
  | some r => if !r.running && r.op == op then some r else none
  | none => none

/-- Whether a copy or a fetch of a request's sequence is still running (R246). -/
def transferring (r : Request) (s : State) : Bool :=
  match seqAt (isKeep r) r.seq s with
  | some q => (match q.place with | .copying _ _ => true | .fetching _ => true | _ => false)
  | none => false

/-- OP_RUN (R246): while no step runs, the instant counts as a step boundary and admission happens at once (R249);
otherwise the request waits for the boundary. -/
def execOpRun (table : Fin 5) (slot : Fin 4096) (s : State) : Host.Outcome State Fault Refusal :=
  .next <|
    match takenOp 0 table.val slot.val s with
    | none => s
    | some _ => if s.srv.running.isNone && s.srv.done.isEmpty && s.srv.voids.isEmpty then admitAll s else s

/-- OP_PAUSE (R255): the copy of the sequence's pages to the Toybox starts; without room the request ends FAILED with
cause 0x1B and the sequence stays live. A keep sequence has no Toybox (R362). A sequence already paused has nothing to copy. -/
def execOpPause (table : Fin 5) (slot : Fin 4096) (s : State) : Host.Outcome State Fault Refusal :=
  .next <|
    match takenOp 1 table.val slot.val s with
    | none => s
    | some r =>
      if transferring r s then s
      else match seqAt (isKeep r) r.seq s with
        | none => finish r.key 0x14 s
        | some q =>
          match q.place with
          | .paused _ => finish r.key 0x04 s
          | _ =>
            if toyboxRoom (toyboxUnits q.frames) s && !isKeep r && inService s then startCopy q r.ttl (some r.key) s
            else finish r.key 0x1B (wr SRV_STAT.tbx_full 1 s)

/-- OP_RELEASE (R246, R257): the sequence ends and the request ends DONE with cause 0x04. -/
def execOpRelease (table : Fin 5) (slot : Fin 4096) (s : State) : Host.Outcome State Fault Refusal :=
  .next <|
    match takenOp 2 table.val slot.val s with
    | none => s
    | some r => if transferring r s then s else startFetches (endSeq (isKeep r) r.seq (finish r.key 0x04 s))

/-- The copying sequence of an id. -/
def copyingSeq (id : Nat) (s : State) : Option (Nat × Option Nat) :=
  match seqAt false id s with
  | some q => (match q.place with | .copying ttl key => some (ttl, key) | _ => none)
  | none => none

/-- Toybox transfers run: the part may reach the host (R414), and neither Tin Soldier mode nor the ROM runner has stopped them (R362,
R369). -/
def transfersRun (s : State) : Bool := hostReach s && !keepServed s

/-- TOYBOX_COPY_COMPLETE (R255): the frames are freed, the time to live starts, a PAUSE ends DONE; a resumption that waited for a live
place takes this one (R247). -/
def execToyboxCopyComplete (seq : BitVec 16) (s : State) : Host.Outcome State Fault Refusal :=
  .next <|
    match (if transfersRun s then copyingSeq seq.toNat s else none) with
    | none => s
    | some (ttl, key) =>
      let s := setSeq false seq.toNat (fun q => { q with place := .paused (endsIn (ttl * 1000) s), frames := 0 }) s
      startFetches (match key with
        | some k => finish k 0x04 s
        | none => s)

/-- TOYBOX_FETCH_COMPLETE (R257): the pages are back, the entry is released. While no step runs the request is admitted at
once (R249). -/
def execToyboxFetchComplete (seq : BitVec 16) (s : State) : Host.Outcome State Fault Refusal :=
  .next <|
    match (if transfersRun s then seqAt false seq.toNat s else none) with
    | none => s
    | some q =>
      match q.place with
      | .fetching _ =>
        let s := wr SRV_TOYBOX_SIZE.used (rd SRV_TOYBOX_SIZE.used s - toyboxUnits q.toybox) s
        let s := setSeq false q.id (fun q => { q with place := .live, toybox := 0, frames := q.toybox }) s
        let s := { s with srv := { s.srv with requests := s.srv.requests.map fun r =>
            if r.seq = q.id ∧ r.key < 16384 then { r with waitsFetch := false } else r } }
        if s.srv.running.isNone && s.srv.done.isEmpty && s.srv.voids.isEmpty then admitAll s else s
      | _ => s

/-- TTL_EXPIRY (R256): the entry whose count has reached zero is released. -/
def execTtlExpiry (seq : BitVec 16) (s : State) : Host.Outcome State Fault Refusal :=
  .next <|
    match seqAt false seq.toNat s with
    | none => s
    | some q => if countedOut q s then expireSeq q.id s else s

end Sys2Proof.Machine
end

