-- ==== Sys2Proof/Machine/Blocks.lean ====
section
/-! DEFINITION. Regions, blocks and arrays: mappings, cell levels, the words of an MVM, the correction of a read, and the
suspect and void bookkeeping they share (02_arrays.md, 04_correction.md, 12_integrity.md). -/

namespace Sys2Proof.Machine

/-! ## Blocks and regions -/

/-- The key of a physical block. -/
def blockKey (region block : Nat) : Nat := 1312 * region + block

/-- The record of a physical block. -/
def blockAt (region block : Nat) (s : State) : Block := tget Block.init s.blocks (blockKey region block)

/-- The record of a physical block changed by `f`. -/
def setBlock (region block : Nat) (f : Block → Block) (s : State) : State :=
  { s with blocks := tset Block.init s.blocks (blockKey region block) (f (blockAt region block s)) }

/-- Every block with an entry, changed by `f` of its region and index. -/
def mapBlocks (f : Nat → Nat → Block → Block) (s : State) : State :=
  s.blocks.foldl (fun a p => setBlock (p.1 / 1312) (p.1 % 1312) (f (p.1 / 1312) (p.1 % 1312)) a) s

/-- The physical region that serves a logical one (R16, R331). -/
def physRegion (l : Nat) (s : State) : Nat :=
  if 48 ≤ l then l
  else if rd CHK_RETIRED.s0_serves s = l ∧ (regionAt 48 s).bringUp = none then 48
  else if rd CHK_RETIRED.s1_serves s = l ∧ (regionAt 49 s).bringUp = none then 49
  else l

/-- The logical region a physical one serves, 0x3F for none (R16, R333). -/
def logRegion (p : Nat) (s : State) : Nat :=
  match (List.range 48).find? fun l => physRegion l s == p with
  | some l => l
  | none => 0x3F

/-- The physical block that serves a logical block of a physical region (R16). -/
def physBlock (region block : Nat) (s : State) : Nat := tget block (regionAt region s).blockMap block

/-- The logical block a physical block serves. -/
def logBlock (region block : Nat) (s : State) : Nat :=
  match (regionAt region s).blockMap.find? fun p => p.2 == block with
  | some p => p.1
  | none => block

/-- The number of the running step, or the last one. -/
def stepNow (s : State) : Nat := rd GLB_STEP.step s

/-! ## Cells (R27, R28, R579) -/

/-- A row of the test pattern: level (i + c) mod 4 in data columns, 2 in the reference, i mod 4 in the drift monitor;
spare columns stay unprogrammed (R579). -/
def testLevel (row col : Nat) : Nat :=
  if col = 15 then 2 else if col = 31 then row % 4 else if col = 14 || col = 30 then 0 else (row + col) % 4

/-- 32 levels packed two bits a column. -/
def packLevels (f : Nat → Nat) : Word :=
  BitVec.ofNat 64 ((List.range 32).foldl (fun a c => a + f c % 4 * 4 ^ c) 0)

/-- The key of a row of cells. -/
def rowKey (region block array row : Nat) : Nat := ((blockKey region block) * 512 + array) * 32 + row

/-- What a row holds that nothing has programmed: the test pattern in spare blocks and in the spare regions; elsewhere the reference
and drift-monitor columns at their fixed content (R28) and level 0 in the columns that hold no weight yet. -/
def rowDefault (key : Nat) : Word :=
  let b := key / 16384
  if 1280 ≤ b % 1312 || b / 1312 = 48 || b / 1312 = 49 then packLevels (testLevel (key % 32))
  else packLevels fun c => if c = 15 then 2 else if c = 31 then key % 32 % 4 else 0

/-- What an unlisted row holds after an erasure (R525): level 2 in every data column; reference, drift monitor and unassigned
spares hold no weight and keep theirs. -/
def erasedRow (key : Nat) : Word :=
  packLevels fun c => if c = 31 then key % 32 % 4 else if c = 14 || c = 30 then 0 else 2

/-- What an unlisted row holds: a boot in RETURNED has erased the part or not (R525). -/
def rowUnlisted (s : State) (key : Nat) : Word := if s.erased then erasedRow key else rowDefault key

/-- The levels of a row. -/
def rowAt (key : Nat) (s : State) : Word := sget (rowUnlisted s) s.cells key

/-- A row programmed. -/
def setRow (key : Nat) (w : Word) (s : State) : State := { s with cells := sset (rowUnlisted s) s.cells key w }

/-- The level of a cell. -/
def level (w : Word) (col : Nat) : Nat := w.toNat / 4 ^ col % 4

/-- The 32 rows of an array. -/
def arrayRows (region block array : Nat) (s : State) : List Word :=
  (List.range 32).map fun i => rowAt (rowKey region block array i) s

/-- The fixed place of a logical column: 0–27 data, 28 the reference, 29 the drift monitor (R28). -/
def fixedCol (j : Nat) : Nat := if j < 14 then j else if j < 28 then j + 2 else if j = 28 then 15 else 31

/-- The remap entry of an array, S0 and S1; 31: not in use (R42). -/
def remapOf (b : Block) (array : Nat) : Nat × Nat := tget (31, 31) b.remap array

/-- The physical column that holds a logical one (R42). -/
def physCol (m : Nat × Nat) (j : Nat) : Nat := if m.1 = j then 14 else if m.2 = j then 30 else fixedCol j

/-- The column weight sums the periphery of a block holds for an array (R32). -/
def tableSums (region block array : Nat) (s : State) : List Int := tget [] s.wsums (512 * blockKey region block + array)

/-- The key of an array in a placement record (R82): logical region, logical block, logical array. -/
def placeKey (region block array : Nat) : Nat := 512 * (1280 * region + block) + array

/-- The placement record of a generation slot (R82); 4 is the Tin Soldier model. -/
def placementOf (slot : Nat) (s : State) : List (Nat × List Int) := if slot = 4 then s.tin.sums else (genAt slot s).sums

/-- The logical region a manifest's placement names for a command's region: 0 for a keep region (R357). -/
def placeRegion (slot region : Nat) : Nat := if slot = 4 then 0 else region

/-- The engine's own copy of the column weight sums of a command's array (R82). -/
def engineSums (c : MvmCmd) (s : State) : List Int :=
  tget [] (placementOf c.slot.val s) (placeKey (placeRegion c.slot.val c.region.val) c.block.val c.array.val)

/-! ## Digits and phases (R31, R33) -/

/-- The top phase of a width. -/
def topPhase (w : Width) : Nat := if w = .a8 then 3 else 1

/-- Bits [2p+1:2p] of an input. -/
def digitBits (x : Int) (p : Nat) : Nat := (x % 256).toNat / 4 ^ p % 4

/-- The digit the row driver applies (R31). -/
def applied (w : Width) (x : Int) (p : Nat) : Nat :=
  if p = topPhase w then Nat.xor (digitBits x p) 2 else digitBits x p

/-- The driven phases, low to high (R33). -/
def drivenPhases (w : Width) (xs : List Int) : List Nat :=
  (List.range (topPhase w + 1)).filter fun p => xs.any fun x => digitBits x p != 0

/-- The sum of applied digit times level over the rows of a column. -/
def columnSum (w : Width) (xs : List Int) (rows : List Word) (col p : Nat) : Nat :=
  (List.zip xs rows).foldl (fun a q => a + applied w q.1 p * level q.2 col) 0

/-- Σ 4^p of a list of phases. -/
def phaseSum (ps : List Nat) : Nat := ps.foldl (fun a p => a + 4 ^ p) 0

/-- Σ 16^p of a list of phases. -/
def phaseSquares (ps : List Nat) : Nat := ps.foldl (fun a p => a + 16 ^ p) 0

/-- S_a of R80. -/
def digitSum (w : Width) (xs : List Int) (ps : List Nat) : Nat :=
  ps.foldl (fun a p => a + 4 ^ p * xs.foldl (fun b x => b + applied w x p) 0) 0

/-! ## Words (R36 to R39) -/

/-- A converter code: the ideal one, off by a free value, held to ten bits (R36). -/
def convCode (ideal : Nat) (n : Nat) : Nat := (max 0 (min ((ideal : Int) + Config.converterError n) 1023)).toNat

/-- The code of a physical column in a phase; `n` numbers the message's conversions. -/
def columnCode (w : Width) (xs : List Int) (rows : List Word) (n p col : Nat) : Nat :=
  convCode (64 + 2 * columnSum w xs rows col p) (n + 32 * p + col)

/-- A data word of R37 from a code function of phase and column. -/
def dataWord (w : Width) (ps : List Nat) (code : Nat → Nat → Nat) (col ref : Nat) (wsum : Int) : Int :=
  ps.foldl (fun a p => a + 4 ^ p * ((code p col : Int) - code p ref)) 0
    - (if ps.contains (topPhase w) then 4 * 4 ^ topPhase w * wsum else 0)

/-- The check word of R37. -/
def checkWord (ps : List Nat) (code : Nat → Nat → Nat) (ref : Nat) : Int :=
  ps.foldl (fun a p => a + 4 ^ p * ((code p ref : Int) - 64)) 0

/-- The physical columns converted in an MVM phase (R30). -/
def convertedCols (c : Mvm) (m : Nat × Nat) : List Nat := c.enabled.map (physCol m) ++ [physCol m 28]

/-- What a message carries, with its codes and whether one clipped. -/
structure Reading where
  msg : Message
  clip : Bool
  code : Nat → Nat → Nat

/-- The message an analogue MVM returns (R37, R40); its conversions are numbered from `n`. -/
def analogueRead (c : Mvm) (region block n : Nat) (s : State) : Reading :=
  let b := blockAt region block s
  let m := remapOf b c.array
  let rows := arrayRows region block c.array s
  let sums := tableSums region block c.array s
  let ps := drivenPhases c.width c.inputs
  let code := columnCode c.width c.inputs rows n
  let ref := physCol m 28
  let words := (List.range 28).map fun j =>
    if c.enabled.contains j then dataWord c.width ps code (physCol m j) ref (sums.getD j 0) else 0
  let clip := ps.any fun p => (convertedCols c m).any fun k => code p k == 0 || code p k == 1023
  ⟨⟨ps, words, checkWord ps code ref⟩, clip, code⟩

/-! ## Correction (R79 to R83) -/

/-- Identity factors (R89). -/
def Fit.identity : Fit := ⟨2 ^ 22, 0, 0⟩

/-- The factors of a physical column in force. -/
def fitOf (b : Block) (col : Nat) : Fit := b.fits.getD col Fit.identity

/-- The centre of a band in 2⁻⁶ °C (R79). -/
def bandCentre (band : Nat) : Int :=
  match band with
  | 0 => -1280
  | 1 => 1280
  | 2 => 3520
  | 3 => 5280
  | _ => 6560

/-- The effective gain G of a column at a temperature in 2⁻⁶ °C (R80). -/
def effGain (f : Fit) (temp : Int) (band : Nat) : Rat :=
  (f.gain : Rat) / 2 ^ 22 * (1 + (f.kappa : Rat) / 2 ^ 24 * ((temp - bandCentre band : Int) : Rat) / 64)

/-- Rounded to the nearest integer, ties to even. -/
def rneRat (q : Rat) : Int :=
  let f := q.floor
  let r := q - f
  if r < 1 / 2 then f else if 1 / 2 < r then f + 1 else if f % 2 = 0 then f else f + 1

/-- What correcting a read needs of its block, latched for the step. -/
structure Gains where
  block : Block
  map : Nat × Nat
  temp : Int
  band : Nat

/-- The gains of a block in its region. -/
def gainsOf (region block array : Nat) (s : State) : Gains :=
  let b := blockAt region block s
  ⟨b, remapOf b array, (regionAt region s).temp, rd (RGN_STATE.band region) s⟩

/-- The corrected value d_j in unit products (R81). -/
def corrected (g : Gains) (w : Width) (ps : List Nat) (sa : Nat) (j : Nat) (wsum : Int) (v : Int) : Rat :=
  let fc := fitOf g.block (physCol g.map j)
  let fr := fitOf g.block (physCol g.map 28)
  let t : Int := if ps.contains (topPhase w) then 4 * 4 ^ topPhase w * wsum else 0
  let u := ((v + t : Int) - (phaseSum ps : Rat) * (fc.offset - fr.offset : Int) / 256
    + 4 * effGain fr g.temp g.band * sa) / effGain fc g.temp g.band - 4 * sa - t
  u / 2

/-- The mean of a list. -/
def meanRat (l : List Rat) : Rat := if l.isEmpty then 0 else l.foldl (· + ·) 0 / l.length

/-- The channel's value from its slices (R58). -/
def reconstruct (f : WFmt) (d : Nat → Rat) (inputSum : Int) : Rat :=
  match f with
  | .tw => d 0
  | .sw2 => d 0
  | .sw4 => 4 * d 1 + d 0 + 2 * inputSum
  | .sw8 => 64 * d 3 + 16 * d 2 + 4 * d 1 + d 0 + 42 * inputSum

/-- The channels of a command in use, with their values y in 2⁻⁸ unit product (R83); `d j` are the
corrected values of logical column j, one per read. -/
def channelValues (c : Mvm) (d : Nat → List Rat) : List (Nat × Int) :=
  ((List.range (channels c.fmt)).filter fun ch => c.enabled.contains ch).map fun ch =>
    let slice := fun k => meanRat ((sliceCols c.fmt ch k).flatMap d)
    (ch, rneRat (256 * reconstruct c.fmt slice (c.inputs.foldl (· + ·) 0)))

/-- The values of an analogue command from its usable reads (R81 to R83), with the engine's own weight sums (R82). -/
def analogueValues (c : Mvm) (region block : Nat) (got : List Message) (s : State) : List (Nat × Int) :=
  let g := gainsOf region block c.array s
  let sums := engineSums c.cmd s
  channelValues c fun j => got.map fun m =>
    corrected g c.width m.phases (digitSum c.width c.inputs m.phases) j (sums.getD j 0) (m.words.getD j 0)

/-- The tile of weights a command runs on (R200). -/
def tileOf (c : MvmCmd) (s : State) : Option Placed :=
  match modelOf c.slot.val s with
  | some m => placedAt m (placeRegion c.slot.val c.region.val) c.block.val c.array.val
  | none => none

/-- The exact dot product of the inputs with a logical column of the master copy: half the ideal word of R37 (R89). -/
def exactColumn (c : Mvm) (x : Placed) (p : List (Nat × List Byte)) (j : Nat) : Rat :=
  ((c.inputs.zipIdx.foldl fun a q => a + q.1 * ((x.level p q.2 j : Int) - 2)) 0 : Int)

/-- The values of a command computed from the master copy (R89). -/
def exactValues (c : Mvm) (s : State) : List (Nat × Int) :=
  match tileOf c.cmd s with
  | some x => channelValues c fun j => [exactColumn c x (payloadOf c.cmd.slot.val s) j]
  | none => []

/-- The Abacus check fails (R85): e² above the limit's square, with r_eff in 1/1,280 unit product. -/
def abacusFails (c : Mvm) (region block : Nat) (m : Message) (s : State) : Bool :=
  let g := gainsOf region block c.array s
  let fr := fitOf g.block (physCol g.map 28)
  let sa := digitSum c.width c.inputs m.phases
  let e : Rat := m.check - (4 * effGain fr g.temp g.band * sa + (phaseSum m.phases : Rat) * fr.offset / 256)
  let r : Rat := (max g.block.rEff 320 : Nat) / 1280
  decide (256 * r * r * phaseSquares m.phases < e * e)

/-! ## Where weights lie in the payload (R20, R200) -/

/-- The 32 weights of input group `kg` for output channel `n` of a tensor touch payload chunk `c`. -/
def rowInChunk (t : Tensor) (kg n c : Nat) : Bool :=
  let bits := storedBits t.format
  let first := t.payOff + (n * t.cols + 32 * kg) * bits / 8
  let last := t.payOff + (n * t.cols + min (32 * kg + 31) (t.cols - 1)) * bits / 8
  decide (first / chunkBytes ≤ c) && decide (c ≤ last / chunkBytes)

/-- Tile `i` of a run touches payload chunk `c`. -/
def tileInChunk (t : Tensor) (r : Run) (i c : Nat) : Bool :=
  let w := groupWidth t.format
  let cg := r.cg0 + i / r.nk
  (List.range w).any fun k => decide (cg * w + k < t.rows) && rowInChunk t (r.kg0 + i % r.nk) (cg * w + k) c

/-- Weights of logical block `block` of logical region `region` lie in payload chunk `c` (R20). -/
def blockInChunk (m : Manifest) (region block c : Nat) : Bool :=
  let a := footArrays m.footprint
  m.runs.any fun r => r.region == region &&
    match tensorAt m r.tensor with
    | some t => (List.range (r.nk * r.nc)).any fun i => r.block0 + (r.array0 + i) / a == block && tileInChunk t r i c
    | none => false

/-- A block waits for a chunk of the master copy to be reloaded (R20). -/
def awaitsChunk (region block : Nat) (s : State) : Bool :=
  let l := logRegion region s
  s.wld.gens.any fun g => !g.2.reload.isEmpty &&
    match g.2.manifest with
    | some m => g.2.reload.any fun c => blockInChunk m l (logBlock region block s) c
    | none => false

/-- The weights of a command's tile lie in a chunk that waits to be reloaded (R20). -/
def tileAwaits (c : MvmCmd) (x : Placed) (s : State) : Bool :=
  c.slot.val != 4 && (genAt c.slot.val s).reload.any fun n =>
    (List.range (groupWidth x.tensor.format)).any fun k =>
      decide (x.chan + k < x.tensor.rows) && rowInChunk x.tensor x.kg (x.chan + k) n

/-! ## What rows are programmed to, and what the part knows of them (R28, R41, R43, R170, R579) -/

/-- The logical column whose fixed place a physical column is. -/
def columnAt (col : Nat) : Option Nat := (List.range 30).find? fun j => fixedCol j == col

/-- The levels of a row by logical column, as the master copy has them: each stands at the column's own place. -/
def masterLevel (w : Word) (j : Nat) : Nat := level w (fixedCol j)

/-- A row with its spare columns programmed as a remap entry asks (R43). -/
def spareLevels (m : Nat × Nat) (w : Word) : Word :=
  packLevels fun col =>
    if col = 14 then (if m.1 < 30 then masterLevel w m.1 else 0)
    else if col = 30 then (if m.2 < 30 then masterLevel w m.2 else 0)
    else level w col

/-- A row of a generation's logical array (R28, R41): its tile's levels, level 2 in columns without a weight, the reference and the drift
monitor. -/
def weightRow (m : Manifest) (p : List (Nat × List Byte)) (region block array row : Nat) : Word :=
  packLevels fun col =>
    if col = 15 then 2 else if col = 31 then row % 4
    else match columnAt col with
      | none => 0
      | some j => match placedAt m region block array with
        | some x => x.level p row j
        | none => 2

/-- The generation slot of an id; 4 for the Tin Soldier model. -/
def slotOfGen (gen : Nat) (s : State) : Option Nat := if gen = 0xFFFF then some 4 else slotOf gen s

/-- The tier offset of a slot's generation (R209). -/
def tierOffset (slot : Nat) (s : State) : Nat := if slot = 4 then 0 else rd (WLD_GEN.offset slot) s

/-- The Tin Soldier model a keep region's tier was programmed with, and its payload, by the digest in the tier (R207, R520). -/
def keepSource (digest : Nat) (s : State) : Option (Manifest × List (Nat × List Byte)) :=
  let new := match s.tin.next with | some m => if digest12 m = digest then some (m, s.tin.nextPayload) else none | none => none
  match new with
  | some x => some x
  | none => match s.tin.model with
    | some m => if digest12 m = digest then some (m, s.tin.payload) else none
    | none => none

/-- The container a tier was programmed from, with its payload, where the part has it (R207). -/
def tierSource (t : Tier) (s : State) : Option (Manifest × List (Nat × List Byte)) :=
  if t.gen = 0xFFFF then keepSource t.digest s
  else match slotOf t.gen s with
    | none => none
    | some g => match (genAt g s).manifest with
      | some m => if digest12 m = t.digest then some (m, (genAt g s).payload) else none
      | none => none

/-- The tier offset of a tier's generation (R209). -/
def tierShift (t : Tier) (s : State) : Nat :=
  match slotOfGen t.gen s with
  | some g => tierOffset g s
  | none => 0

/-- The tile of weights on a physical array whose tier holds a generation, with the payload it is read from (R200, R209). -/
def tierTile (t : Tier) (region block array : Nat) (s : State) : Option (Placed × List (Nat × List Byte)) :=
  (tierSource t s).bind fun c =>
    (placedAt c.1 (if t.gen = 0xFFFF then 0 else region) block (array - 128 * tierShift t s)).map fun x => (x, c.2)

/-- A row as the tiers of a journal ask, for a logical block of a logical region: the generation's levels from its master copy, else the
test pattern (R170, R209, R579); absent where no manifest describes the tier. -/
def tierRow (ts : List (Nat × Tier)) (region block array row : Nat) (s : State) : Option Word :=
  match ts.find? fun t => t.1 == array / 128 with
  | none => some (packLevels (testLevel row))
  | some t =>
    if t.2.gen = 0 then some (packLevels (testLevel row))
    else (tierSource t.2 s).map fun c =>
      weightRow c.1 c.2 (if t.2.gen = 0xFFFF then 0 else region) block (array - 128 * tierShift t.2 s) row

/-- The logical block a physical block serves, or is assigned to and not serving yet; absent for a spare without a role. -/
def roleOf (region block : Nat) (s : State) : Option Nat :=
  let r := regionAt region s
  match (r.spareFor ++ r.mapNext ++ r.blockMap).find? fun p => p.2 == block with
  | some p => some p.1
  | none => if block < 1280 then some block else none

/-- The logical region and block whose weights a physical block is to hold (R16, R306, R315). -/
def placeOf (region block : Nat) (s : State) : Nat × Nat :=
  (((regionAt region s).bringUp).getD (logRegion region s), (roleOf region block s).getD block)

/-- The logical region assigned to spare `p`. -/
def serves (p : Nat) : Fld := if p = 48 then CHK_RETIRED.s0_serves else CHK_RETIRED.s1_serves

/-- A physical block that holds the test pattern in the tiers its journal names no generation for: a spare block without a role, a
block of an unassigned spare region. -/
def patternBlock (region block : Nat) (s : State) : Bool :=
  let r := regionAt region s
  (decide (1280 ≤ block) && !(r.blockMap ++ r.mapNext ++ r.spareFor).any fun p => p.2 == block)
    || ((region == 48 || region == 49) && rd (serves region) s == 0x3F)

/-- A generation is resident with its master copy complete (R579). DEDUCED (log entry 54): a chunk of a served generation that
waits to be reloaded leaves the rest of the copy known. -/
def masterHeld (gen : Nat) (s : State) : Bool :=
  match slotOf gen s with
  | some g => rdb (WLD_GEN.master g) s || (decide (2 ≤ rd (WLD_GEN.state g) s) && decide (rd (WLD_GEN.state g) s ≤ 4))
  | none => false

/-- The part knows the levels of an array (R579). -/
def knownArray (region block array : Nat) (s : State) : Bool :=
  match (blockAt region block s).tiers.find? fun t => t.1 == array / 128 with
  | some t => t.2.complete && (t.2.gen == 0 || (decide (50 ≤ region) && (keepSource t.2.digest s).isSome) || masterHeld t.2.gen s)
  | none => patternBlock region block s

/-- Some array of the block is known (R579). -/
def knownBlock (region block : Nat) (s : State) : Bool :=
  !(blockAt region block s).retired && [0, 128, 256, 384].any fun a => knownArray region block a s

/-! ## Recipes -/

/-- The recipe table a slot's layers run on; slot 4 is the Tin Soldier model. -/
def recipesOf (slot : Nat) (s : State) : List Recipe :=
  match modelOf slot s with
  | some m => m.recipes
  | none => []

/-- The recipe of a layer: its primary entry, or its wide alternative (R125). -/
def recipeAt (slot layer : Nat) (wide : Bool) (s : State) : Option Recipe :=
  let l := recipesOf slot s
  match l[layer]? with
  | none => none
  | some r => if wide && r.wide != 0xFFFF then l[r.wide]? else some r

/-- A layer is on its wide alternative in the running step (R141), or now where none runs. -/
def onWide (slot layer : Nat) (s : State) : Bool :=
  match s.srv.running with
  | some t => t.wide.contains (slot, layer)
  | none => (genAt slot s).wide.contains layer

/-! ## Void steps and suspects -/

/-- No step runs or waits to commit: an instant counts as a step boundary (R249). -/
def quietNow (s : State) : Bool := s.srv.running.isNone && s.srv.done.isEmpty && s.srv.voids.isEmpty

/-- Step `n` and every later one that has not committed is void (R298). -/
def voidFrom (n : Nat) (s : State) : State :=
  let f := fun t : Step => if n ≤ t.num then { t with void := true } else t
  { s with srv := { s.srv with running := s.srv.running.map f, done := s.srv.done.map f } }

/-- The running step is void, with every later one; none runs: nothing to void. -/
def voidRunning (s : State) : State :=
  match s.srv.running with
  | some t => voidFrom t.num s
  | none => s

/-- The oldest step that has not committed is void, with every later one: a fault whose step is not known to be later. -/
def voidFlight (s : State) : State :=
  match s.srv.done.head?, s.srv.running with
  | some t, _ => voidFrom t.num s
  | none, some t => voidFrom t.num s
  | none, none => s

/-- A demand for stand-in of a block (R22 to R24). -/
def wantBlock (region block : Nat) (c : Cover) (s : State) : State :=
  setBlock region block (fun b => if b.want.contains c then b else { b with want := b.want ++ [c] }) s

/-- A demand for stand-in of a block ends; what is in force ends at the next boundary (R22). -/
def unwantBlock (region block : Nat) (c : Cover) (s : State) : State :=
  setBlock region block (fun b => { b with want := b.want.filter (· != c) }) s

/-- A demand for stand-in of a region. -/
def wantRegion (region : Nat) (c : Cover) (s : State) : State :=
  setRegion region (fun r => if r.want.contains c then r else { r with want := r.want ++ [c] }) s

/-- A demand for stand-in of a region ends. -/
def unwantRegion (region : Nat) (c : Cover) (s : State) : State :=
  setRegion region (fun r => { r with want := r.want.filter (· != c) }) s

/-- Blocks and engines suspect now (R332). -/
def suspectCount (s : State) : Nat :=
  (s.blocks.filter fun p => p.2.window.isSome).length + (s.regions.filter fun p => p.2.window.isSome).length

/-- CHK_SUSPECT's `left`, `hits` and `now` brought up to date for the latest suspect unit (R332). -/
def updateSuspect (s : State) : State :=
  let region := rd CHK_SUSPECT.region s
  let block := rd CHK_SUSPECT.block s
  let w := if block = 0x7FF then (regionAt region s).window else (blockAt region block s).window
  let (l, h) := match w with | some w => (w.left, min w.hits 3) | none => (0, 0)
  wr CHK_SUSPECT.left l (wr CHK_SUSPECT.hits h (wr CHK_SUSPECT.now (suspectCount s) s))

/-- A unit becomes the latest suspect (R332). -/
def noteSuspect (region block : Nat) (s : State) : State :=
  updateSuspect (incHold CHK_SUSPECT.total 1 (wr CHK_SUSPECT.region region (wr CHK_SUSPECT.block block s)))

/-- One second in cycles of the management clock. -/
def second : Nat := 600000000

/-- The instants of a list that lie within the last `n` cycles. -/
def recent (n : Nat) (l : List Nat) (s : State) : List Nat := l.filter fun t => decide (s.now < t + n)

/-- A block becomes suspect; `opened`: its window starts with the next invocation, otherwise when the replay ends (R305,
R307). Four blocks of a region within a second bring the region's engine to test (R308). -/
def suspectBlock (region block : Nat) (opened : Bool) (s : State) : State :=
  if (blockAt region block s).window.isSome || (blockAt region block s).retired then s
  else
    let s := setBlock region block (fun b => { b with window := some ⟨64, 0, opened⟩ }) s
    let l := recent second (regionAt region s).suspects s ++ [s.now]
    let s := noteSuspect region block (setRegion region (fun r => { r with suspects := l }) s)
    if 4 ≤ l.length then wantRegion region .engineTest s else s

/-- An engine becomes suspect with its window open at once (R308). -/
def suspectEngine (region : Nat) (s : State) : State :=
  if (regionAt region s).window.isSome then s
  else noteSuspect region 0x7FF (setRegion region (fun r => { r with window := some ⟨64, 0, true⟩ }) s)

/-- Regions that may take a share of a stood-in region, in ascending logical index (R23). -/
def helpers (s : State) : List Nat :=
  ((List.range 48).map fun l => physRegion l s).filter fun p => (regionAt p s).stood.isNone

/-- The engine that computes an MVM exactly: the region's own (R90), and for a stood-in region the one at logical block modulo the
number of the others, never its own (R23). -/
def engineFor (region block : Nat) (s : State) : Nat :=
  let h := helpers s
  if (regionAt region s).stood.isSome && !h.isEmpty then h.getD (block % h.length) region else region

end Sys2Proof.Machine
end

