-- ==== Sys2Proof/Machine/Tiles.lean ====
section
/-! DEFINITION. Accumulator tiles: the scoreboard, clear, save and restore, read-out, tile-adds and reductions, the drain of
an accumulate operation (05_accumulation.md R98 to R122). -/

namespace Sys2Proof.Machine

/-- Tile `t` of a physical region's engine. -/
def tileAt (region t : Nat) (s : State) : Tile := tget Tile.init (regionAt region s).tiles t

/-- Tile `t` changed by `f`. -/
def setTile (region t : Nat) (f : Tile → Tile) (s : State) : State :=
  setRegion region (fun r => { r with tiles := tset Tile.init r.tiles t (f (tileAt region t s)) }) s

/-- Elements of a shape (R98). -/
def shapeElems (shape : Nat) : Nat := 256 * 2 ^ shape

/-- The kinds by their descriptor codes (R99). -/
def kindCode : Kind → Nat
  | .sum => 0
  | .max => 1
  | .min => 2
  | .and => 3
  | .or => 4
  | .xor => 5

/-- A logical kind: INT32 elements (R111). DESIGN CHOICE (log entry 25): the reserved kinds 0b110 and 0b111, which only a restored image can
bring, hold ACC48 elements and combine by addition. -/
def logical (kind : Nat) : Bool := kind == 3 || kind == 4 || kind == 5

/-- The identity of a kind (R111). -/
def identity (kind : Nat) : Int :=
  match kind with
  | 1 => -accMax
  | 2 => accMax
  | 3 => 0xFFFFFFFF
  | _ => 0

/-- The combining rule of a kind other than sum (R111). -/
def combine (kind : Nat) (a b : Int) : Int :=
  match kind with
  | 1 => max a b
  | 2 => min a b
  | 3 => Nat.land a.toNat b.toNat
  | 4 => Nat.lor a.toNat b.toNat
  | 5 => Nat.xor a.toNat b.toNat
  | _ => a + b

/-- An element of a tile. -/
def Tile.elem (t : Tile) (i : Nat) : Int := sget (fun _ => t.base) t.elems i

/-- An element of a tile set. -/
def Tile.put (t : Tile) (i : Nat) (v : Int) : Tile := { t with elems := sset (fun _ => t.base) t.elems i v }

/-- The descriptor word (R99). -/
def Tile.descriptor (t : Tile) : Word :=
  BitVec.ofNat 64 (t.shape + 4 * t.bp + 2 ^ 8 * t.kind + 2 ^ 11 * t.sat.toNat + 2 ^ 12 * t.seq.toNat
    + 2 ^ 13 * t.klong.toNat + 2 ^ 14 * t.bound.toNat + 2 ^ 16 * t.ctx + 2 ^ 32 * t.layer + 2 ^ 48 * t.gen)

/-- An element as a word of a save image (R120). -/
def elemWord (kind : Nat) (v : Int) : Word := if logical kind then BitVec.ofInt 64 (v % 2 ^ 32) else accWord v

/-- The words of a save image (R120): the descriptor and every element. -/
def saveWords (t : Tile) : List Word :=
  t.descriptor :: (List.range (shapeElems t.shape)).map fun i => elemWord t.kind (t.elem i)

/-! ## The scoreboard (R117, R118) -/

/-- The operation classes of R117; a Costume addition is an accumulate operation of its own, issued after the layer's reduction has
drained. -/
inductive OpClass where
  | accumulate | costume | clear | restore | overwrite | read | release
  deriving DecidableEq, Repr

/-- The scoreboard's decisions. -/
inductive Decision where
  | proceed | wait | conflict
  deriving DecidableEq, Repr

/-- What happens to an operation of context `ctx` on a tile (R118). -/
def decideOp (t : Tile) (c : OpClass) (ctx : Nat) : Decision :=
  if !t.bound then (if c = .clear ∨ c = .restore then .proceed else .conflict)
  else if t.ctx != ctx then .conflict
  else if t.waiting.isEmpty && (!t.busy || (c == .accumulate && !t.costume) || (c == .costume && t.costume)) then .proceed
  else .wait

/-- The operation waits until the earlier ones drain (R118). -/
def waitOp (region tile : Nat) (i : Instr) (s : State) : State :=
  setTile region tile (fun t => { t with waiting := t.waiting ++ [i] }) s

/-- A tile-conflict or tile-format fault (R119): logged, and the requests of the context in this step end FAILED. -/
def tileFault (region tile ctx : Nat) (format : Bool) (s : State) : State :=
  let t := tileAt region tile s
  let s := log (regionClass region) 3 0x0013 region
    (leBytes 1 tile ++ leBytes 1 0 ++ leBytes 2 t.gen ++ leBytes 2 t.layer ++ leBytes 1 format.toNat ++ leBytes 1 0
      ++ leBytes 2 t.ctx ++ leBytes 2 ctx) s
  { s with srv := { s.srv with requests := s.srv.requests.map fun r =>
      if r.running ∧ r.context = ctx then { r with tileFault := true } else r } }

/-- The scoreboard's decision carried out: `k` on the tile, the operation kept waiting, or the fault. -/
def scoreboard (region tile ctx : Nat) (c : OpClass) (i : Instr) (k : State → State) (s : State) : State :=
  match decideOp (tileAt region tile s) c ctx with
  | .proceed => k s
  | .wait => waitOp region tile i s
  | .conflict => tileFault region tile ctx false s

/-! ## Saturation (R108) -/

/-- The tile's sat flag set (R108): on each of its events, its bit of RGN_TILE_SAT and the report that names the layer. -/
def setSat (region tile : Nat) (s : State) : State :=
  let t := tileAt region tile s
  let s := setTile region tile (fun t => { t with sat := true }) s
  let s := setReg (RGN_TILE_SAT region) (s.reg (RGN_TILE_SAT region) ||| 1#64 <<< tile) s
  log (regionClass region) 2 0x0011 region (leBytes 1 tile ++ leBytes 1 0 ++ leBytes 2 t.gen ++ leBytes 2 t.layer) s

/-- `setSat` where `b` holds. -/
def satIf (region tile : Nat) (b : Bool) (s : State) : State := if b then setSat region tile s else s

/-- Code 0x0016, a format event of a group or an element (R59, R62, R68, R71): 0 NaN, 1 scale byte 0xFF, 2 NaN addend. -/
def formatEvent (region gen layer group code : Nat) (s : State) : State :=
  log (regionClass region) 2 0x0016 region (leBytes 2 gen ++ leBytes 2 layer ++ leBytes 4 group ++ leBytes 1 code) s

/-- A NaN addend is logged as a format event (R71). -/
def logNanAddend (region tile elem : Nat) (s : State) : State :=
  let t := tileAt region tile s
  formatEvent region t.gen t.layer elem 2 s

/-- A value converted into the tile (R71), with the flag and the event it may raise. -/
def convertInto (region tile elem : Nat) (v : Fp) (s : State) : Int × State :=
  let a := toAcc (tileAt region tile s).bp v
  let s := satIf region tile a.sat s
  (a.value, if a.nan then logNanAddend region tile elem s else s)

/-! ## Clear, restore, save, release (R100, R120) -/

/-- The layer of a generation runs in sequenced mode in this engine (R106). -/
def inSequence (region gen layer : Nat) (s : State) : Bool :=
  (regionAt region s).seqModes.any fun m => m.1 == gen && m.2.1 == layer && decide (stepNow s ≤ m.2.2)

/-- A clear (R100). -/
def clearTile (region tile ctx shape bp kind layer gen : Nat) (s : State) : State :=
  setTile region tile (fun t => { t with
    bound := true, ctx, shape, bp, kind, sat := false, klong := false, layer, gen
    seq := kind == 0 && inSequence region gen layer s, base := identity kind, elems := [], header := 0 }) s

/-- TILE_CLEAR (R100, R118). -/
def execTileClear (region : Fin 52) (tile : Fin 64) (ctx : Fin 4096) (shape : Fin 4) (bp : Fin 64) (kind : Kind)
    (layer gen : BitVec 16) (s : State) : Host.Outcome State Fault Refusal :=
  .next (scoreboard region.val tile.val ctx.val .clear (.tileClear region tile ctx shape bp kind layer gen)
    (clearTile region.val tile.val ctx.val shape.val bp.val (kindCode kind) layer.toNat gen.toNat) s)

/-- An element taken from a word of an image (R120, R69). -/
def loadElem (kind : Nat) (w : Word) : Int × Bool :=
  if logical kind then ((w.toNat % 2 ^ 32 : Nat), false) else accLoad w

/-- Elements loaded in order from index `i`. -/
def loadElems (kind : Nat) : List Word → Nat → Tile → Tile × Bool
  | [], _, t => (t, false)
  | w :: ws, i, t =>
    let e := loadElem kind w
    let r := loadElems kind ws (i + 1) (t.put i e.1)
    (r.1, r.2 || e.2)

/-- The words of a save slot as the running step sees them (R101): its own image, that of an earlier step not yet committed, or the
committed one. -/
def savedImage (image : Nat) (s : State) : List Word :=
  let steps := (match s.srv.running with | some t => [t] | none => []) ++ s.srv.done.reverse
  match steps.findSome? fun t => (t.saves.find? fun e => e.1 == image).map Prod.snd with
  | some ws => ws
  | none => tget [] s.saves image

/-- A restore (R100, R120): the descriptor but its bound and context fields, and the elements. An image that is shorter
than its shape reads zeros. A layer in sequenced mode accumulates in it after a restore as after a clear (R106). -/
def restoreTile (region tile ctx image : Nat) (s : State) : State :=
  let ws := savedImage image s
  let d := (ws.getD 0 0).toNat
  let kind := d / 2 ^ 8 % 8
  let shape := d % 4
  let fresh : Tile := { tileAt region tile s with
    bound := true, ctx, shape, bp := d / 4 % 64, kind, sat := (d / 2 ^ 11) % 2 == 1
    seq := d / 2 ^ 12 % 2 == 1 || (kind == 0 && inSequence region (d / 2 ^ 48 % 2 ^ 16) (d / 2 ^ 32 % 2 ^ 16) s)
    klong := d / 2 ^ 13 % 2 == 1, layer := d / 2 ^ 32 % 2 ^ 16, gen := d / 2 ^ 48 % 2 ^ 16, base := identity kind
    elems := [], header := 0 }
  let body := (List.range (shapeElems shape)).map fun i => ws.getD (i + 1) 0
  let r := loadElems kind body 0 fresh
  satIf region tile r.2 (setTile region tile (fun _ => r.1) s)

/-- TILE_RESTORE (R100, R118, R120). -/
def execTileRestore (region : Fin 52) (tile : Fin 64) (ctx : Fin 4096) (image : Nat) (s : State) :
    Host.Outcome State Fault Refusal :=
  .next (scoreboard region.val tile.val ctx.val .restore (.tileRestore region tile ctx image)
    (restoreTile region.val tile.val ctx.val image) s)

/-- A save (R120): the image belongs to the running step until that commits, so that a void step leaves none (R101). -/
def saveTile (region tile image : Nat) (s : State) : State :=
  let ws := saveWords (tileAt region tile s)
  match s.srv.running with
  | some t => { s with srv := { s.srv with running := some { t with saves := tset [] t.saves image ws } } }
  | none => { s with saves := tset [] s.saves image ws }

/-- TILE_SAVE (R118, R120). -/
def execTileSave (region : Fin 52) (tile : Fin 64) (ctx : Fin 4096) (image : Nat) (s : State) :
    Host.Outcome State Fault Refusal :=
  .next (scoreboard region.val tile.val ctx.val .read (.tileSave region tile ctx image)
    (saveTile region.val tile.val image) s)

/-- A release (R100). -/
def releaseTile (region tile : Nat) (s : State) : State := setTile region tile (fun t => { t with bound := false }) s

/-- TILE_RELEASE (R100, R118). -/
def execTileRelease (region : Fin 52) (tile : Fin 64) (ctx : Fin 4096) (s : State) :
    Host.Outcome State Fault Refusal :=
  .next (scoreboard region.val tile.val ctx.val .release (.tileRelease region tile ctx)
    (releaseTile region.val tile.val) s)

/-! ## Read-out (R102, R111) -/

/-- The value a read-out converts: a sum element times its channel's weight scale (R102). -/
def readValue (t : Tile) (scales : List (BitVec 32)) (i : Nat) : Fp :=
  let v := accVal t.bp (t.elem i)
  if t.kind = 0 then v.mul (f32 (scales.getD (i % 32) 0x3F800000)) else v

/-- What a quantised read-out takes from the layer whose inputs its groups become (R61, R62, R124): the slot and layer, the static scale
byte if its recipe has one, the outlier mask of the group. -/
structure Target where
  slot : Nat
  layer : Nat
  static : Option Nat
  outliers : BitVec 32
  deriving DecidableEq, Repr

/-- The target of a read-out into group `group` of cell-weight tensor `tensor` of the tile's generation; a tensor the generation does
not have gives a dynamic scale and no outliers. -/
def targetOf (gen tensor group : Nat) (s : State) : Target :=
  match slotOfGen gen s with
  | none => ⟨0, 0, none, 0⟩
  | some g =>
    match (modelOf g s).bind fun m => (tensorAt m tensor).map fun t => (m, t) with
    | none => ⟨g, 0, none, 0⟩
    | some (m, t) =>
      let static := match recipeAt g t.layer (onWide g t.layer s) s with
        | some r => if r.static then some r.scale.toNat else none
        | none => none
      let outs := match tensorAt m t.outl with
        | some o => outlierMask o (payloadOf g s) group
        | none => 0
      ⟨g, t.layer, static, outs⟩

/-- The values of token column `col` of a quantised read-out with their outlier marks: one scale group (R73, R61). -/
def groupValues (t : Tile) (scales : List (BitVec 32)) (outliers : BitVec 32) (col : Nat) : List (Fp × Bool) :=
  (List.range 32).map fun o => (readValue t scales (32 * col + o), outliers.getLsbD o)

/-- The groups of a quantised read-out, one for each token column. -/
def readGroups (t : Tile) (scales : List (BitVec 32)) (a8 : Bool) (x : Target) : List Quant :=
  (List.range (shapeElems t.shape / 32)).map fun col => quantise a8 x.static (groupValues t scales x.outliers col)

/-- The bytes of quantised groups: the element array of all token columns, packed, then the scale array (R55, R56). DESIGN CHOICE (log
entry 151): R56 leaves the places of the two arrays to the owning structure; the answer holds one after the other. -/
def groupBytes (bits : Nat) (qs : List Quant) : List Byte :=
  scaledBytes bits (qs.flatMap fun q => q.codes.map fun z => (z % 2 ^ bits).toNat) (qs.map fun q => (q.exp + 127).toNat)

/-- The bytes a read-out delivers, elements in the order of a save image; absent where the format is no destination of
ACC48, or not INT32 for a logical tile (R73, R102, R111). -/
def readOut (t : Tile) (format : Nat) (scales : List (BitVec 32)) (x : Target) : Option (List Byte) :=
  let n := shapeElems t.shape
  if logical t.kind then
    if format = 0xE then some ((List.range n).flatMap fun i => leBytes 4 (t.elem i).toNat) else none
  else if format = 0x4 ∨ format = 0x5 then some (groupBytes (storedBits format) (readGroups t scales (format == 0x4) x))
  else if (accTo format (.fin false 0 1)).isSome then
    some ((List.range n).flatMap fun i =>
      leBytes (formatBytes format) ((accTo format (readValue t scales i)).getD 0))
  else none

/-- One group a read-out quantised is counted for its layer in the running step, and its format events are logged (R59, R62, R128, R129). -/
def noteGroup (region gen group : Nat) (x : Target) (e : Quant × List (Fp × Bool)) (s : State) : State :=
  let c := classify e.2 e.1
  let s := if e.1.nan then formatEvent region gen x.layer group 0 s else s
  let s := if x.static == some 0xFF then formatEvent region gen x.layer group 1 s else s
  { s with srv := { s.srv with running := s.srv.running.map fun t =>
      { t with counts := t.counts ++ [⟨region, x.slot, x.layer, 1, c.1.toNat, c.2.toNat⟩] } } }

/-- The groups of a quantised read-out noted. -/
def noteGroups (region gen group : Nat) (t : Tile) (scales : List (BitVec 32)) (a8 : Bool) (x : Target) (s : State) : State :=
  (List.zip (readGroups t scales a8 x)
    ((List.range (shapeElems t.shape / 32)).map fun col => groupValues t scales x.outliers col)).foldl
      (fun a e => noteGroup region gen group x e a) s

/-- A read-out: what it delivers, or the tile-format fault (R102). -/
def readTile (region tile ctx format : Nat) (scales : List (BitVec 32)) (tensor group : Nat) (s : State) : State :=
  let t := tileAt region tile s
  let x := targetOf t.gen tensor group s
  match readOut t format scales x with
  | some b =>
    let s := if (format = 0x4 ∨ format = 0x5) ∧ logical t.kind = false then
        noteGroups region t.gen group t scales (format == 0x4) x s else s
    answer (.bytes b) s
  | none => tileFault region tile ctx true s

/-- TILE_READ_OUT (R102, R118). -/
def execTileReadOut (region : Fin 52) (tile : Fin 64) (ctx : Fin 4096) (format : Fin 16) (scales : List (BitVec 32))
    (tensor group : Nat) (s : State) : Host.Outcome State Fault Refusal :=
  .next (scoreboard region.val tile.val ctx.val .read (.tileReadOut region tile ctx format scales tensor group)
    (readTile region.val tile.val ctx.val format.val scales tensor group) s)

/-! ## Element writes (R117) -/

/-- One element the vector unit writes, clamped where it leaves ACC48 (R70); a logical element keeps 32 bits. -/
def writeElem (region tile : Nat) (e : Nat × Int) (s : State) : State :=
  let t := tileAt region tile s
  if shapeElems t.shape ≤ e.1 then s
  else if logical t.kind then setTile region tile (fun t => t.put e.1 (e.2 % 2 ^ 32)) s
  else
    let c := accClamp e.2
    satIf region tile c.2 (setTile region tile (fun t => t.put e.1 c.1) s)

/-- The elements written in order. -/
def writeElems (region tile : Nat) (es : List (Nat × Int)) (s : State) : State :=
  es.foldl (fun a e => writeElem region tile e a) s

/-- ELEMENT_WRITE (R117, R118). -/
def execElementWrite (region : Fin 52) (tile : Fin 64) (ctx : Fin 4096) (elems : List (Nat × Int)) (s : State) :
    Host.Outcome State Fault Refusal :=
  .next (scoreboard region.val tile.val ctx.val .overwrite (.elementWrite region tile ctx elems)
    (writeElems region.val tile.val elems) s)

/-! ## Tile-adds and reduce operations (R111, R112) -/

/-- The slot of a source that still has to be read, filled with its values, the oldest first. -/
def fillAdd (srcRegion srcTile : Nat) (vs : List (Nat × Int)) : List TileAdd → List TileAdd
  | [] => []
  | a :: l => if a.srcRegion = srcRegion ∧ a.srcTile = srcTile ∧ a.values = none then { a with values := some vs } :: l
    else a :: fillAdd srcRegion srcTile vs l

/-- The same slot taken out: its operation was rejected. -/
def dropAdd (srcRegion srcTile : Nat) : List TileAdd → List TileAdd
  | [] => []
  | a :: l => if a.srcRegion = srcRegion ∧ a.srcTile = srcTile ∧ a.values = none then l else a :: dropAdd srcRegion srcTile l

/-- The destination takes a place for the source in the issue order of its accumulate operation, its values read or not yet
(R103, R117). -/
def placeAdd (region tile srcRegion srcTile : Nat) (vs : Option (List (Nat × Int))) (s : State) : State :=
  setTile region tile (fun t => { t with busy := true, adds := t.adds ++ [⟨srcRegion, srcTile, vs⟩] }) s

/-- Two tiles that R112 lets combine: of one shape, binary point and kind. -/
def combinable (a b : Tile) : Bool := a.shape == b.shape && a.bp == b.bp && a.kind == b.kind

/-- A tile-to-tile operation once the destination lets it proceed: a source of another context is a conflict, one that has not
drained is waited for in the operation's place, one that does not match is a format fault (R112, R118, R119). -/
def tileToTile (region tile ctx srcRegion srcTile : Nat) (i : Instr) (s : State) : State :=
  let src := tileAt srcRegion srcTile s
  match decideOp src .read ctx with
  | .conflict => tileFault srcRegion srcTile ctx false s
  | .wait => waitOp srcRegion srcTile i (placeAdd region tile srcRegion srcTile none s)
  | .proceed =>
    if combinable src (tileAt region tile s) then placeAdd region tile srcRegion srcTile (some src.elems) s
    else tileFault region tile ctx true s

/-- The source that was waited for is read into its place, or the operation is rejected and gives its place up. -/
def readSource (region tile ctx srcRegion srcTile : Nat) (i : Instr) (s : State) : State :=
  let src := tileAt srcRegion srcTile s
  let drop := setTile region tile fun t => { t with adds := dropAdd srcRegion srcTile t.adds }
  match decideOp src .read ctx with
  | .conflict => tileFault srcRegion srcTile ctx false (drop s)
  | .wait => waitOp srcRegion srcTile i s
  | .proceed =>
    if combinable src (tileAt region tile s) then
      setTile region tile (fun t => { t with adds := fillAdd srcRegion srcTile src.elems t.adds }) s
    else tileFault region tile ctx true (drop s)

/-- A tile-add as the scoreboard lets it proceed. -/
def tileAddOp (region : Fin 52) (tile : Fin 64) (ctx : Fin 4096) (srcRegion : Fin 52) (srcTile : Fin 64)
    (s : State) : State :=
  let i : Instr := .tileAdd region tile ctx srcRegion srcTile
  scoreboard region.val tile.val ctx.val .accumulate i
    (tileToTile region.val tile.val ctx.val srcRegion.val srcTile.val i) s

/-- TILE_ADD (R112, R118). -/
def execTileAdd (region : Fin 52) (tile : Fin 64) (ctx : Fin 4096) (srcRegion : Fin 52) (srcTile : Fin 64)
    (s : State) : Host.Outcome State Fault Refusal :=
  .next (tileAddOp region tile ctx srcRegion srcTile s)

/-- A reduce operation as the scoreboard lets it proceed. -/
def reduceOp (region : Fin 52) (tile : Fin 64) (ctx : Fin 4096) (srcRegion : Fin 52) (srcTile : Fin 64)
    (s : State) : State :=
  let i : Instr := .reduceOperation region tile ctx srcRegion srcTile
  scoreboard region.val tile.val ctx.val .accumulate i
    (tileToTile region.val tile.val ctx.val srcRegion.val srcTile.val i) s

/-- REDUCE_OPERATION (R111, R112, R118). -/
def execReduceOperation (region : Fin 52) (tile : Fin 64) (ctx : Fin 4096) (srcRegion : Fin 52) (srcTile : Fin 64)
    (s : State) : Host.Outcome State Fault Refusal :=
  .next (reduceOp region tile ctx srcRegion srcTile s)

/-! ## Costume additions (R220, R223) -/

/-- Value number `i` of a Costume matrix at `off` with `n` elements: BF16, or MXFP4 with its scale array after the
elements (R56, R220). -/
def costumeElem (c : Costume) (off n i : Nat) : Fp :=
  if c.format = 0xD then
    let e := (c.bytes.getD (off + i / 2) 0).toNat / 16 ^ (i % 2) % 16
    mxValue (c.bytes.getD (off + n / 2 + i / 32) 0).toNat e
  else fmtBF16.decode (leNat [c.bytes.getD (off + 2 * i) 0, c.bytes.getD (off + 2 * i + 1) 0])

/-- Σ of FP32 products in order, each product and each sum rounded (R223). -/
def f32Dot (l : List (Fp × Fp)) : BitVec 32 :=
  l.foldl (fun a p => f32add a (toF32 (p.1.mul p.2))) 0

/-- The Costume value of output channel `n` (R223) of a projection over `x` with `rows` output channels. -/
def costumeValue (c : Costume) (p : Projection) (rows : Nat) (x : List (BitVec 16)) (n : Nat) : BitVec 32 :=
  let k := x.length
  let xs := x.map fun b => fmtBF16.decode b.toNat
  let z := (List.range p.rank).map fun i =>
    f32Dot ((List.range k).map fun j => (costumeElem c p.aOff (p.rank * k) (i * k + j), xs.getD j .nan))
  let sum := f32Dot ((List.range p.rank).map fun i =>
    (costumeElem c p.bOff (rows * p.rank) (n * p.rank + i), f32 (z.getD i 0)))
  f32mul p.alpha sum

/-- One Costume value converted by R71 into an addend of the operation. -/
def costumeTerm (region tile elem : Nat) (v : BitVec 32) (a : List (Nat × Int) × State) : List (Nat × Int) × State :=
  let p := convertInto region tile elem (f32 v) a.2
  (a.1 ++ [(elem, p.1)], p.2)

/-- The output channels of a tensor of a generation (R199). -/
def tensorRows (gen id : Nat) (s : State) : Nat :=
  match (slotOfGen gen s).bind fun g => modelOf g s with
  | some m => (match tensorAt m id with | some t => t.rows | none => 0)
  | none => 0

/-- The Costume addition of one token column: output channel chan0 + j goes to row row0 + j. Its values are the terms of an accumulate
operation, tested and added when that drains (R117). -/
def costumeAdd (region tile ctx version tensor col row0 chan0 channels : Nat) (x : List (BitVec 16)) (s : State) : State :=
  match costumeOf ctx version s with
  | none => s
  | some c =>
    match c.projs.find? fun p => p.tensor == tensor with
    | none => s
    | some p =>
      let r := (List.range channels).foldl (fun a j =>
        if row0 + j < 32 ∧ 32 * col + row0 + j < shapeElems (tileAt region tile s).shape then
          costumeTerm region tile (32 * col + row0 + j) (costumeValue c p (tensorRows c.gen tensor s) x (chan0 + j)) a
        else a) ([], s)
      setTile region tile (fun t => { t with busy := true, costume := true, adds := t.adds ++ [⟨region, tile, some r.1⟩] }) r.2

/-- A Costume addition is an accumulate operation issued after the layer's reduction has drained: it waits for a reduction
that still runs (R117, R223). -/
def costumeOp (region : Fin 52) (tile : Fin 64) (ctx : Fin 4096) (version tensor col row0 chan0 chans : Nat)
    (x : List (BitVec 16)) (s : State) : State :=
  scoreboard region.val tile.val ctx.val .costume
    (.costumeAddition region tile ctx version tensor col row0 chan0 chans x)
    (costumeAdd region.val tile.val ctx.val version tensor col row0 chan0 chans x) s

/-- COSTUME_ADDITION (R117, R223). -/
def execCostumeAddition (region : Fin 52) (tile : Fin 64) (ctx : Fin 4096) (version tensor col row0 chan0 chans : Nat)
    (x : List (BitVec 16)) (s : State) : Host.Outcome State Fault Refusal :=
  .next (costumeOp region tile ctx version tensor col row0 chan0 chans x s)

end Sys2Proof.Machine
end

