-- ==== Sys2Proof/Machine/Mvm.lean ====
section
/-! DEFINITION. MVM commands, block messages, the drain of an accumulate operation, and debug capture
(02_arrays.md R29 to R51, 04_correction.md R76 to R90, 05_accumulation.md R103 to R110, R122). -/

namespace Sys2Proof.Machine

/-! ## The command with what placement and recipe give for it (R41, R44, R84, R90, R123 to R125, R200, R209) -/

/-- The recipe in force for a layer (R123, R141). -/
def layerRecipe (slot layer : Nat) (s : State) : Option Recipe := recipeAt slot layer (onWide slot layer s) s

/-- An element as an array input (R31, R56): the stored two's complement code of the width, with its true value (R60). -/
def inputOf (w : Width) (b : Byte) : Int :=
  match w with
  | .a8 => signed 8 b.toNat
  | .a4 => signed 4 b.toNat

/-- The stage of R345 under which a request runs in the running step: that of the settlement of the step where the request is one of the
differing ones, 0 otherwise. -/
def settleStage (key : Nat) (s : State) : Nat :=
  match s.pair.settling, s.srv.running with
  | some z, some t => if z.step = t.num ∧ z.waits = false ∧ z.keys.contains key then z.stage else 0
  | _, _ => 0

/-- The request of the token asks for exact execution (R90), a settlement runs it so (R345), or the Tin Soldier model's is in force on a
keep region (R366). -/
def exactToken (c : MvmCmd) (s : State) : Bool :=
  (match reqAt c.key s with | some r => r.exact | none => false) || decide (2 ≤ settleStage c.key s)
    || (decide (50 ≤ c.region.val) && s.tin.exact)

/-- The MVM a command stands for on the tile `x` (R44, R84, R123, R209). The scale byte is the recipe's where that is static (R124). A layer
without a recipe, which only a cell-weight tensor outside the layers has, runs A8 with one read (DESIGN CHOICE, log entry 153). -/
def mvmOf (c : MvmCmd) (x : Placed) (s : State) : Mvm :=
  let r := layerRecipe c.slot.val x.tensor.layer s
  let width := match r with | some r => r.width | none => .a8
  let scale := match r with | some r => if r.static then r.scale else c.scale | none => c.scale
  { cmd := c, array := c.array.val + 128 * tierOffset c.slot.val s, width
    inputs := (List.range 32).map fun i => inputOf width (c.elems.getD i 0), scaleX := scaleExp scale.toNat
    fmt := weightFmt x.tensor.format, enabled := x.enabled, tensor := x.tensor.id, layer := x.tensor.layer, group := x.kg
    chan := x.chan, reads := match r with | some r => max 1 r.reads | none => 1, exact := exactToken c s }

/-! ## The running step's counts -/

/-- The running step changed by `f`. -/
def setRunning (f : Step → Step) (s : State) : State :=
  { s with srv := { s.srv with running := s.srv.running.map f } }

/-- Step `n`, running or ended, changed by `f`. -/
def setStep (n : Nat) (f : Step → Step) (s : State) : State :=
  let g := fun t : Step => if t.num = n then f t else t
  { s with srv := { s.srv with running := s.srv.running.map g, done := s.srv.done.map g } }

/-! ## Results into tiles -/

/-- The place of an array in the documented order (R103). -/
def orderKey (c : MvmCmd) : Nat := (c.region.val * 1280 + c.block.val) * 512 + c.array.val

/-- One channel's value added to the tile as a contribution, converted by R71; the channel's row follows from c₀ (R98). -/
def contribute (m : Mvm) (e : Nat × Int) (s : State) : State :=
  let c := m.cmd
  let n := m.chan + e.1
  let elem := 32 * c.col + (n - c.chan0)
  if c.chan0 ≤ n ∧ n - c.chan0 < 32 ∧ elem < shapeElems (tileAt c.owner.val c.tile.val s).shape then
    let p := convertInto c.owner.val c.tile.val elem (Fp.ofInt e.2 (m.scaleX - 8)) s
    setTile c.owner.val c.tile.val (fun t => { t with contribs := t.contribs ++ [⟨orderKey c, elem, p.1⟩] }) p.2
  else s

/-- An invocation's values delivered to their tile (R76 stage 5); `header` is zero for one no array read gave. -/
def deliver (m : Mvm) (header : Word) (ys : List (Nat × Int)) (s : State) : State :=
  let s := ys.foldl (fun a e => contribute m e a) s
  setTile m.cmd.owner.val m.cmd.tile.val (fun t => { t with header := if header = 0 then t.header else header }) s

/-- A comparison becomes ready (R303). -/
def readyShadow (region : Nat) (x : Shadow) (s : State) : State :=
  setRegion region (fun r => { r with shadows := r.shadows ++ [x] }) s

/-! ## MVM_COMMAND -/

/-- The Shadow generator selects the command (R302): `b` top bits zero. -/
def topBitsZero (g : BitVec 32) (b : Nat) : Bool := g.toNat / 2 ^ (32 - b) == 0

/-- The latched Shadow rate (R324); 1 in 16 in Tin Soldier mode (R362). -/
def shadowBits (s : State) : Nat := if rd GLB_STATE.state s = 3 then 4 else max 4 (min s.srv.shadowRate 12)

/-- Shadow can recompute the region's work: on a keep region it cannot before the master copy is complete (R358). -/
def shadowRuns (region : Nat) (s : State) : Bool := decide (region < 50) || s.tin.master

/-- Whether a command to a block is selected, by the generator after its advance (R302). -/
def shadowSelected (g : BitVec 32) (b : Block) (standing : Bool) (s : State) : Bool :=
  if !standing && (b.window.isSome || b.retired) then true
  else if !standing && b.warm then topBitsZero g (min (shadowBits s) 6)
  else topBitsZero g (shadowBits s)

/-- The engine that recomputes an invocation of a region which engine `engine` computed (R303): that of the next logical service region in
ascending order with wrap-around that is neither stood in nor resetting. -/
def checkerFor (region engine : Nat) (s : State) : Nat :=
  let l := logRegion region s
  (((List.range 48).map fun i => physRegion ((l + 1 + i) % 48) s).find? fun p =>
    (regionAt p s).stood.isNone && !(regionAt p s).want.contains .reset && p != engine).getD engine

/-- A command the engines compute exactly (R89, R90): its values go to the tile at once, or wait for their comparison while
the computing engine is suspect (R308). -/
def issueExact (m : Mvm) (region block : Nat) (selected : Bool) (s : State) : State :=
  let engine := engineFor region m.cmd.block.val s
  let windowed := match (regionAt engine s).window with | some w => w.open_ | none => false
  let ys := exactValues m s
  let x : Shadow := { step := stepNow s, block, engine, analogue := false, checker := checkerFor region engine s, cmd := m, ys := ys.map Prod.snd
                      xs := ys.map Prod.snd, phaseSq := phaseSquares (drivenPhases m.width m.inputs), reads := 1
                      rEff := (blockAt region block s).rEff, window := windowed, header := 0 }
  let s := if selected || windowed then
      setRunning (fun t => { t with shadows := t.shadows + 1 }) (readyShadow region x s) else s
  if windowed then s else deliver m 0 ys s

/-- The block's queue holds one read running and one waiting (R44); the engine issues the next of its reads into a free place. -/
def feedBlock (region block : Nat) (s : State) : State :=
  setBlock region block (fun b => { b with
    queue := b.queue ++ b.ahead.take (2 - b.queue.length), ahead := b.ahead.drop (2 - b.queue.length) }) s

/-- A command's reads issued in turn, the double reads right after the first (R44, R46); once the block's results in the step are
unusable no further one is issued (R77). -/
def issueAnalogue (m : Mvm) (region block : Nat) (selected : Bool) (s : State) : State :=
  let b := blockAt region block s
  if b.lost then s
  else
    let windowed := shadowRuns region s && (b.retired || (match b.window with | some w => w.open_ | none => false))
    let r : Read := ⟨m, b.next, false, selected, windowed, false⟩
    let s := setBlock region block (fun b => { b with ahead := b.ahead ++ List.replicate m.reads r, next := b.next + 1 }) s
    setRunning (fun t => { t with reads := t.reads + 1, shadows := t.shadows + (if selected then 1 else 0) })
      (feedBlock region block s)

/-- An array is not read while one of its rows, or one of a complete tier of its block (a rewrite that a reset cut short), is not to be used
(R184, R208). -/
def arrayTrusted (b : Block) (array : Nat) : Bool :=
  !b.untrusted.any fun k => k / 32 == array || b.tiers.any fun t => t.1 == k / 4096 && t.2.complete

/-- The engines compute an MVM (R21, R89, R90, R184). -/
def standsIn (m : Mvm) (s : State) : Bool :=
  let region := physRegion m.cmd.region.val s
  let b := blockAt region (physBlock region m.cmd.block.val s) s
  m.exact || !arrayTrusted b m.array || b.stood || (regionAt region s).stood.isSome

/-- A unit computes work of a request in the running step; kept in a mirrored pair, for a settlement (R345). -/
def noteWork (key : Nat) (u : Nat × Option Nat) (s : State) : State :=
  if mirrored s then
    setRunning (fun t => if t.work.contains (key, u.1, u.2) then t else { t with work := t.work ++ [(key, u.1, u.2)] }) s
  else s

/-- A command on its way to its block or to the engines (R21, R44, R89, R302); at the third stage of a settlement a second engine
recomputes every invocation of the differing requests (R345). -/
def issueMvm (m : Mvm) (s : State) : State :=
  let region := physRegion m.cmd.region.val s
  let block := physBlock region m.cmd.block.val s
  let b := blockAt region block s
  let g := Config.shadowNext (s.shadowGens.getD region 0)
  let s := { s with shadowGens := s.shadowGens.set region g }
  let standing := standsIn m s
  let selected := shadowRuns region s && (shadowSelected g b standing s || settleStage m.cmd.key s == 3)
  let s := noteWork m.cmd.key (if standing then (engineFor region m.cmd.block.val s, none) else (region, some block)) s
  if standing then issueExact m region block selected s else issueAnalogue m region block selected s

/-! ## The ordering buffer (R107) -/

/-- Reads of a tile that are issued and have not given their result: place in the documented order and token column. -/
def openKeys (region tile : Nat) (s : State) : List (Nat × Nat) :=
  let mine := fun m : Mvm => m.cmd.owner.val == region && m.cmd.tile.val == tile
  let key := fun m : Mvm => (orderKey m.cmd, m.cmd.col)
  (s.blocks.flatMap fun p => ((p.2.queue ++ p.2.ahead).filter fun r => !r.ignore && mine r.cmd).map fun r => key r.cmd)
    ++ s.regions.flatMap fun p => (p.2.shadows.filter fun x => x.window && mine x.cmd).map fun x => key x.cmd

/-- Messages of a tile in sequenced mode that arrived ahead of their turn. -/
def earlyMessages (region tile : Nat) (t : Tile) (s : State) : Nat :=
  if !t.seq then 0
  else
    let keys := openKeys region tile s
    ((t.contribs.map fun c => (c.order, c.elem / 32)).dedup.filter fun a =>
      keys.any fun k => k.2 == a.2 && decide (k.1 < a.1)).length

/-- The engine's ordering buffer holds 8,192 messages (R107). -/
def bufferFull (region : Nat) (s : State) : Bool :=
  decide (8192 ≤ (regionAt region s).tiles.foldl (fun a p => a + earlyMessages region p.1 p.2 s) 0)

/-- An MVM of a tile whose engine's ordering buffer is full is held (R107); so is one the engines are to compute whose weights wait to be
reloaded (R20; DESIGN CHOICE, log entry 23), and one behind a held one. -/
def mustHold (m : Mvm) (x : Placed) (s : State) : Bool :=
  let t := tileAt m.cmd.owner.val m.cmd.tile.val s
  !t.held.isEmpty || (t.seq && bufferFull m.cmd.owner.val s) || (standsIn m s && tileAwaits m.cmd x s)

/-- A scale byte 0xFF read with a group's elements is logged (R59). -/
def noteScale (m : Mvm) (s : State) : State :=
  let dynamic := match layerRecipe m.cmd.slot.val m.layer s with | some r => !r.static | none => true
  if dynamic && m.cmd.scale == 0xFF#8 then
    formatEvent (physRegion m.cmd.region.val s)
      (if m.cmd.slot.val = 4 then 0xFFFF else rd (WLD_GEN.gen m.cmd.slot.val) s) m.layer m.group 1 s
  else s

/-- A block with no known array serves no MVM (R579). -/
def blockServes (c : MvmCmd) (s : State) : Bool :=
  let region := physRegion c.region.val s
  let block := physBlock region c.block.val s
  (blockAt region block s).retired || knownBlock region block s

/-- A command whose tile accepts it: an accumulate operation runs from now on. One with all-zero inputs is never issued (R34); one that
names an array its generation does not use, or a block that serves none, changes nothing. -/
def startMvm (c : MvmCmd) (s : State) : State :=
  match if blockServes c s then tileOf c s else none with
  | none => s
  | some x =>
    let m := mvmOf c x s
    let s := noteScale m (setTile c.owner.val c.tile.val (fun t => { t with busy := true }) s)
    if m.inputs.all (· == 0) then s
    else if mustHold m x s then setTile c.owner.val c.tile.val (fun t => { t with held := t.held ++ [c] }) s
    else issueMvm m s

/-- The held MVMs of a tile go on as far as they can, in order. -/
def releaseHeld (region tile : Nat) (s : State) : State :=
  let l := (tileAt region tile s).held
  l.foldl (fun a c => startMvm c a) (setTile region tile (fun t => { t with held := [] }) s)

/-- The held MVMs of an engine. -/
def releaseEngine (region : Nat) (s : State) : State :=
  ((regionAt region s).tiles.filter fun p => !p.2.held.isEmpty).foldl (fun a p => releaseHeld region p.1 a) s

/-- An MVM command as the scoreboard lets it proceed. -/
def mvmOp (c : MvmCmd) (s : State) : State :=
  scoreboard c.owner.val c.tile.val c.ctx.val .accumulate (.mvmCommand c) (startMvm c) s

/-- MVM_COMMAND (R44, R89, R118, R302). -/
def execMvmCommand (c : MvmCmd) (s : State) : Host.Outcome State Fault Refusal := .next (mvmOp c s)

/-! ## Debug capture (R48 to R51) -/

/-- Debug mode is available (R530). -/
def debugMode (s : State) : Bool :=
  let st := rd GLB_STATE.state s
  s.nv.lcs == 2 || s.nv.lcs == 3 || (s.nv.lcs ≤ 1 && (st == 0 || st == 1 || st == 4))

/-- The header word of a capture (R51). -/
def headerWord (c : Mvm) (ps : List Nat) (clip tblerr : Bool) : Word :=
  BitVec.ofNat 64 (c.cmd.block.val + 2 ^ 11 * c.array + 2 ^ 20 * c.cmd.tag.toNat
    + 2 ^ 32 * ps.foldl (fun a p => a + 2 ^ p) 0 + 2 ^ 36 * (if c.width = .a8 then 0 else 1) + 2 ^ 37 * clip.toNat
    + 2 ^ 38 * tblerr.toNat)

/-- One lane of a word of codes: 0xFFFF where nothing was converted (R51). -/
def laneCode (r : Reading) (cols : List Nat) (p col : Nat) : Nat :=
  if r.msg.phases.contains p && cols.contains col then r.code p col else 0xFFFF

/-- The 32 words of codes (R51). -/
def codeWords (r : Reading) (cols : List Nat) : List Word :=
  (List.range 4).flatMap fun p => (List.range 8).map fun k =>
    BitVec.ofNat 64 ((List.range 4).foldl (fun a m => a + laneCode r cols p (4 * k + m) * 2 ^ (16 * m)) 0)

/-- A capture completes (R49). -/
def finishCapture (region : Nat) (ws : List Word) (s : State) : State :=
  let s := setRegion region (fun r => { r with capture := ws }) s
  wr (RGN_DEBUG_CTL.arm region) 0 (wr (RGN_DEBUG_CTL.done region) 1 (wr (RGN_DEBUG_CTL.count region) ws.length s))

/-- An armed capture of this block and array takes the message (R49, R51). -/
def captureRead (region block : Nat) (c : Mvm) (r : Reading) (tblerr : Bool) (s : State) : State :=
  let sel := rd (RGN_DEBUG_CTL.sel region) s
  if rdb (RGN_DEBUG_CTL.arm region) s && decide (sel < 2) && rd (RGN_DEBUG_CTL.block region) s == block
      && rd (RGN_DEBUG_CTL.array region) s == c.array then
    let h := headerWord c r.msg.phases r.clip tblerr
    let cols := convertedCols c (remapOf (blockAt region block s) c.array)
    finishCapture region
      (if sel = 0 then h :: codeWords r cols else h :: (r.msg.words ++ [r.msg.check]).map (BitVec.ofInt 64)) s
  else s

/-! ## BLOCK_MESSAGE -/

/-- Why a read is unusable: 0 table error, 1 clip, 2 Abacus (R77, R454). -/
def unusable (c : Mvm) (region block : Nat) (r : Reading) (tblerr : Bool) (s : State) : Option Nat :=
  if tblerr then some 0 else if r.clip then some 1 else if abacusFails c region block r.msg s then some 2 else none

/-- A discarded read is logged and counted; the 16th within a second makes the block suspect (R77, R307). -/
def discardRead (region block : Nat) (rd_ : Read) (cause : Nat) (s : State) : State :=
  let s := log (regionClass region) 2 0x0010 region
    (leBytes 2 block ++ leBytes 2 rd_.cmd.array ++ leBytes 1 cause ++ leBytes 1 rd_.retry.toNat) s
  let l := recent second (blockAt region block s).discards s ++ [s.now]
  let s := setBlock region block (fun b => { b with discards := l }) s
  let s := if mirrored s then setRunning (fun t => { t with discarded := t.discarded ++ [(region, block)] }) s else s
  if 16 ≤ l.length then suspectBlock region block true s else s

/-- Commands of a list of reads, each once. -/
def distinctIds (q : List Read) : List Nat := (q.map (·.id)).dedup

/-- The block's results in this step are unusable (R77): the step is void, its replay stands the block in, the block is
suspect; no further read is issued, what waits in its queue runs unscreened. -/
def loseBlock (region block : Nat) (rd_ : Read) (s : State) : State :=
  let b := blockAt region block s
  let gone := (distinctIds (rd_ :: (b.queue ++ b.ahead).filter fun r => !r.ignore)).length
  let s := setBlock region block (fun b => { b with
    lost := true, partials := [], ahead := [], queue := b.queue.map fun r => { r with ignore := true } }) s
  let s := setRunning (fun t => { t with reads := t.reads - gone }) s
  suspectBlock region block false (wantBlock region block .replay (voidRunning s))

/-- A command is complete: its values go to the tile, or wait for their comparison in a window; a selected one becomes
ready for Shadow (R83, R302 to R305). -/
def completeCommand (region block : Nat) (r : Read) (got : List Message) (header : Word) (s : State) : State :=
  let ys := analogueValues r.cmd region block got s
  let xs := exactValues r.cmd s
  let x : Shadow := { step := stepNow s, block, engine := region, analogue := true, checker := checkerFor region region s, cmd := r.cmd, ys := ys.map Prod.snd
                      xs := xs.map Prod.snd, phaseSq := phaseSquares (drivenPhases r.cmd.width r.cmd.inputs)
                      reads := r.cmd.reads, rEff := (blockAt region block s).rEff, window := r.window, header := header }
  let s := setRunning (fun t => { t with reads := t.reads - 1 }) s
  let s := if r.selected then readyShadow region x s else s
  if r.window then s else deliver r.cmd header ys s

/-- A usable read joins the command's reads; the last one completes it (R84). -/
def acceptRead (region block : Nat) (r : Read) (m : Message) (header : Word) (s : State) : State :=
  let ps := (blockAt region block s).partials
  let got := (match ps.find? fun p => p.id == r.id with | some p => p.got | none => []) ++ [m]
  let rest := ps.filter fun p => p.id != r.id
  if got.length < r.cmd.reads then setBlock region block (fun b => { b with partials := rest ++ [⟨r.id, got⟩] }) s
  else completeCommand region block r got header (setBlock region block (fun b => { b with partials := rest }) s)

/-- The message of a block's running read arrives (R76): captured, screened, accepted, retried behind the read that waits (R77), or the
block's results are lost; the block's next read takes the free place. -/
def takeMessage (region block : Nat) (parityError : Bool) (r : Read) (rest : List Read) (s : State) : State :=
  let n := s.draws
  let m := analogueRead r.cmd region block n s
  let s := setBlock region block (fun b => { b with queue := rest, mvms := b.mvms + 1 }) { s with draws := n + 128 }
  let s := captureRead region block r.cmd m parityError s
  if r.ignore then s
  else
    let s := match unusable r.cmd region block m parityError s with
      | none => acceptRead region block r m.msg (headerWord r.cmd m.msg.phases m.clip false) s
      | some cause =>
        let s := discardRead region block r cause s
        if r.retry then loseBlock region block r s
        else setBlock region block (fun b => { b with queue := b.queue ++ [{ r with retry := true }] }) s
    releaseEngine r.cmd.cmd.owner.val (feedBlock region block s)

/-- BLOCK_MESSAGE (R76): the message of the block's running read arrives; none was running: nothing happens. -/
def execBlockMessage (region : Fin 52) (block : Fin 1312) (parityError : Bool) (s : State) :
    Host.Outcome State Fault Refusal :=
  .next <|
    match (blockAt region.val block.val s).queue with
    | [] => s
    | r :: rest => takeMessage region.val block.val parityError r rest s

/-! ## ACCUMULATE_DRAINED -/

/-- The terms of tile-adds and Costume additions in issue order (R103 step 3). -/
def addTerms (t : Tile) : List (Nat × Int) := t.adds.flatMap fun a => a.values.getD []

/-- The contributions of one element in the documented order, tile-adds last (R103). -/
def orderedTerms (t : Tile) (e : Nat) : List Int :=
  ((sortBy (fun a b => decide (a.order ≤ b.order)) (t.contribs.filter fun c => c.elem == e)).map (·.value))
    ++ ((addTerms t).filter fun a => a.1 == e).map Prod.snd

/-- The total of magnitudes A of an element (R105). -/
def hazardTotal (t : Tile) (e : Nat) : Nat :=
  (t.elem e).natAbs + (orderedTerms t e).foldl (fun a v => a + v.natAbs) 0

/-- Sequential addition with the clamp of R70 after each term (R103, R107). -/
def clampedSum (start : Int) (l : List Int) : Int × Bool :=
  l.foldl (fun a v => let c := accClamp (a.1 + v); (c.1, a.2 || c.2)) (start, false)

/-- Elements that received something in this operation. -/
def touched (t : Tile) : List Nat := (t.contribs.map (·.elem) ++ (addTerms t).map Prod.fst).dedup

/-- One element stored (R105, R107, R111); an element with a hazard in normal mode keeps what it held. DESIGN CHOICE (log entry 152): R111
gives array contributions to a tile that is no sum no meaning of their own; they combine by the kind's rule. -/
def storeElem (region tile : Nat) (t : Tile) (e : Nat) (s : State) : State :=
  if t.kind != 0 then setTile region tile (fun u => u.put e ((orderedTerms t e).foldl (combine t.kind) (t.elem e))) s
  else if t.seq then
    let r := clampedSum (t.elem e) (orderedTerms t e)
    satIf region tile r.2 (setTile region tile (fun u => u.put e r.1) s)
  else if accMax < hazardTotal t e then s
  else setTile region tile (fun u => u.put e ((orderedTerms t e).foldl (· + ·) (t.elem e))) s

/-- An element has a saturation hazard (R105). -/
def hazard (t : Tile) (e : Nat) : Bool := t.kind == 0 && !t.seq && decide (accMax < hazardTotal t e)

/-- A hazard voids the step and puts the tile's generation and layer into sequenced mode for 4,096 steps (R106). -/
def raiseHazard (region tile : Nat) (t : Tile) (s : State) : State :=
  let s := log (regionClass region) 3 0x0012 region (leBytes 1 tile ++ leBytes 1 0 ++ leBytes 2 t.gen ++ leBytes 2 t.layer) s
  let s := setRegion region (fun r => { r with
    seqModes := (r.seqModes.filter fun m => m.1 != t.gen || m.2.1 != t.layer) ++ [(t.gen, t.layer, stepNow s + 4096)] }) s
  voidRunning s

/-- Insertion of a product by its input index. -/
def byIndex {α : Type} (l : List (Nat × α)) : List (Nat × α) := sortBy (fun a b => decide (a.1 ≤ b.1)) l

/-- The sum of exact products in FP32, rounded after every addition (R88). -/
def laneFold (l : List Fp) : BitVec 32 := l.foldl (fun a v => toF32 ((f32 a).add v)) 0

/-- The value of input `k` for a patch product (R88): the FP16 value of an outlier channel, else the A8 or A4 element times 2^X. -/
def patchInput (l : LaneInput) (m : Manifest) (t : Tensor) (s : State) (k : Nat) : Fp :=
  if isOutlier m t (payloadOf l.slot.val s) k then
    match l.outliers.find? fun o => o.1 == k with
    | some o => fmtFP16.decode o.2.toNat
    | none => .fin false 0 1
  else match l.elems.find? fun e => e.1 == k with
    | some e =>
      match layerRecipe l.slot.val t.layer s with
      | some r => elemValue (if r.width = .a4 then 5 else 4) e.2.1.toNat (if r.static then r.scale else e.2.2).toNat 0
      | none => elemValue 4 e.2.1.toNat e.2.2.toNat 0
    | none => .fin false 0 1

/-- The products of output channel `n` in the order of R88: outlier products with the master copy's weights, then patch products, each in
ascending input index. -/
def laneProducts (l : LaneInput) (m : Manifest) (t : Tensor) (s : State) (n : Nat) : List Fp :=
  let p := payloadOf l.slot.val s
  let outs := (l.outliers.filter fun o => isOutlier m t p o.1 && decide (o.1 < t.cols)).map fun o =>
    (o.1, (fmtFP16.decode o.2.toNat).mul (Fp.ofInt (weightAt t p n o.1) 0))
  let table := match tensorAt m t.patch with | some u => patches u p | none => []
  let pats := (table.filter fun e => e.output == n).map fun e =>
    (e.input, (fmtFP16.decode e.delta.toNat).mul (patchInput l m t s e.input))
  (byIndex outs ++ byIndex pats).map Prod.snd

/-- One element's lane sum converted once and added with the clamp of R70 (R88, R105); an element with a hazard, or without a
product, gets none. -/
def addLaneElem (region tile : Nat) (haz : Nat → Bool) (e : Nat) (ps : List Fp) (s : State) : State :=
  if ps.isEmpty || haz e || decide (shapeElems (tileAt region tile s).shape ≤ e) then s
  else
    let p := convertInto region tile e (f32 (laneFold ps)) s
    let c := accClamp ((tileAt region tile p.2).elem e + p.1)
    satIf region tile c.2 (setTile region tile (fun u => u.put e c.1) p.2)

/-- The lane sums of one token column (R88): one for each row that holds an output channel of the tensor. -/
def addLane (region tile : Nat) (haz : Nat → Bool) (l : LaneInput) (s : State) : State :=
  match (modelOf l.slot.val s).bind fun m => (tensorAt m l.tensor).map fun t => (m, t) with
  | none => s
  | some (m, t) =>
    (List.range 32).foldl (fun a row =>
      if l.chan0 + row < t.rows then addLaneElem region tile haz (32 * l.col + row) (laneProducts l m t s (l.chan0 + row)) a
      else a) s

/-- An armed tile capture (R122). -/
def captureTile (region tile : Nat) (s : State) : State :=
  if rdb (RGN_DEBUG_CTL.arm region) s && rd (RGN_DEBUG_CTL.sel region) s == 2
      && rd (RGN_DEBUG_CTL.tile region) s == tile then
    let t := tileAt region tile s
    finishCapture region (t.header :: saveWords t) s
  else s

/-- An operation that waited, run as the scoreboard now lets it. -/
def runWaiting (i : Instr) (s : State) : State :=
  match i with
  | .tileClear r t c sh bp k l g =>
    scoreboard r.val t.val c.val .clear i
      (clearTile r.val t.val c.val sh.val bp.val (kindCode k) l.toNat g.toNat) s
  | .tileRestore r t c im => scoreboard r.val t.val c.val .restore i (restoreTile r.val t.val c.val im) s
  | .tileSave r t c im => scoreboard r.val t.val c.val .read i (saveTile r.val t.val im) s
  | .tileRelease r t c => scoreboard r.val t.val c.val .release i (releaseTile r.val t.val) s
  | .tileReadOut r t c f sc te g => scoreboard r.val t.val c.val .read i (readTile r.val t.val c.val f.val sc te g) s
  | .tileAdd r t c sr st => tileAddOp r t c sr st s
  | .reduceOperation r t c sr st => reduceOp r t c sr st s
  | .elementWrite r t c es => scoreboard r.val t.val c.val .overwrite i (writeElems r.val t.val es) s
  | .costumeAddition r t c v te co r0 c0 ch x => costumeOp r t c v te co r0 c0 ch x s
  | .mvmCommand c => mvmOp c s
  | _ => s

/-- A place of tile (region, tile) waits for source (sr, st) to be read. -/
def placeOpen (region tile sr st : Nat) (s : State) : Bool :=
  (tileAt region tile s).adds.any fun a => a.srcRegion == sr && a.srcTile == st && a.values == none

/-- An operation that waited on tile (region, tile), run now: a tile-add or reduce operation that has its place in another tile and waited
for this one as its source reads it into that place. -/
def resumeOp (region tile : Nat) (i : Instr) (s : State) : State :=
  match i with
  | .tileAdd r t c sr st =>
    if sr.val = region ∧ st.val = tile ∧ placeOpen r.val t.val region tile s then
      readSource r.val t.val c.val region tile i s else runWaiting i s
  | .reduceOperation r t c sr st =>
    if sr.val = region ∧ st.val = tile ∧ placeOpen r.val t.val region tile s then
      readSource r.val t.val c.val region tile i s else runWaiting i s
  | i => runWaiting i s

/-- The operations that waited on a tile, in issue order. -/
def releaseWaiting (region tile : Nat) (s : State) : State :=
  let l := (tileAt region tile s).waiting
  l.foldl (fun a i => resumeOp region tile i a) (setTile region tile (fun t => { t with waiting := [] }) s)

/-- An element received more than 32,768 array contributions (R110). -/
def longReduction (t : Tile) : Bool :=
  decide (32768 < t.contribs.length) && (touched t).any fun e =>
    decide (32768 < (t.contribs.filter fun c => c.elem == e).length)

/-- The accumulate operation of a tile drains (R103 to R110). -/
def drainTile (region tile : Nat) (lane : List LaneInput) (s : State) : State :=
  let t := tileAt region tile s
  let haz := (touched t).filter (hazard t)
  let s := (touched t).foldl (fun a e => storeElem region tile t e a) s
  let s := if haz.isEmpty then s else raiseHazard region tile t s
  let s := if t.kind = 0 then lane.foldl (fun a l => addLane region tile haz.contains l a) s else s
  let s := setTile region tile (fun u => { u with
    busy := false, costume := false, contribs := [], adds := [], klong := u.klong || longReduction t }) s
  let s := captureTile region tile s
  setTile region tile (fun u => { u with header := 0 }) s

/-- Every contribution of a tile's accumulate operation has been added (R117): no read or retry is open, no MVM held, every source read. -/
def allArrived (region tile : Nat) (s : State) : Bool :=
  let t := tileAt region tile s
  t.held.isEmpty && (t.adds.all fun a => a.values.isSome) && (openKeys region tile s).isEmpty

/-- ACCUMULATE_DRAINED (R105, R117): on a tile that is not bound, or whose contributions have not all arrived, nothing happens. -/
def execAccumulateDrained (region : Fin 52) (tile : Fin 64) (lane : List LaneInput) (s : State) :
    Host.Outcome State Fault Refusal :=
  .next <|
    if (tileAt region.val tile.val s).bound && allArrived region.val tile.val s then
      releaseWaiting region.val tile.val (drainTile region.val tile.val lane s)
    else s

/-- SEQUENCED_MODE_END (R106): the layer leaves sequenced mode once its 4,096 steps are over. -/
def execSequencedModeEnd (region : Fin 52) (gen layer : BitVec 16) (s : State) : Host.Outcome State Fault Refusal :=
  .next (setRegion region.val (fun r => { r with
    seqModes := r.seqModes.filter fun m =>
      m.1 != gen.toNat || m.2.1 != layer.toNat || decide (stepNow s ≤ m.2.2) }) s)

/-! ## Debug registers -/

/-- The captured words erased with done and count (R49). -/
def clearCapture (region : Nat) (s : State) : State :=
  wr (RGN_DEBUG_CTL.done region) 0 (wr (RGN_DEBUG_CTL.count region) 0
    (setRegion region (fun r => { r with capture := [] }) s))

/-- RGN_DEBUG_CTL written (R48, R49). The selection and rdptr take effect before arm. -/
def debugCtlWrite (region : Nat) (w : Write) (s : State) : State :=
  guarded (RGN_DEBUG_CTL region) w s fun s =>
    if !debugMode s then logIgnored w.who (RGN_DEBUG_CTL region) w.data.toNat s
    else
      let armed := rdb (RGN_DEBUG_CTL.arm region) s
      let arm := wbits (RGN_DEBUG_CTL.arm region) w s != 0
      let covers := w.half != .upper
      let s := wtake (RGN_DEBUG_CTL.sel region) w <| wtake (RGN_DEBUG_CTL.block region) w <|
        wtake (RGN_DEBUG_CTL.array region) w <| wtake (RGN_DEBUG_CTL.tile region) w <|
        wtake (RGN_DEBUG_CTL.rdptr region) w s
      if !covers then s
      else if arm then
        if rd (RGN_DEBUG_CTL.sel region) s = 3 then s
        else if rd (RGN_DEBUG_CTL.sel region) s != 2 && decide (1312 ≤ rd (RGN_DEBUG_CTL.block region) s) then s
        else wr (RGN_DEBUG_CTL.arm region) 1 (clearCapture region s)
      else if armed then wr (RGN_DEBUG_CTL.arm region) 0 (clearCapture region s)
      else s

/-- DEBUG_ARM (R49). -/
def execDebugArm (region : Fin 52) (w : Write) (s : State) : Host.Outcome State Fault Refusal :=
  .next (debugCtlWrite region.val w s)

/-- DEBUG_CANCEL (R49). -/
def execDebugCancel (region : Fin 52) (w : Write) (s : State) : Host.Outcome State Fault Refusal :=
  .next (debugCtlWrite region.val w s)

/-- The half of a word a read returns (R407). -/
def halfOf (h : Half) (w : Word) : Word :=
  match h with
  | .full => w
  | .lower => w &&& 0xFFFFFFFF#64
  | .upper => w >>> 32

/-- A read of RGN_DEBUG_DATA (R48, R50). -/
def debugDataRead (who : Master) (region : Nat) (half : Half) (s : State) : State :=
  viaBar who s fun s =>
  let p := rd (RGN_DEBUG_CTL.rdptr region) s
  if debugMode s && rdb (RGN_DEBUG_CTL.done region) s && decide (p < rd (RGN_DEBUG_CTL.count region) s) then
    answer (.word (halfOf half ((regionAt region s).capture.getD p 0))) (wr (RGN_DEBUG_CTL.rdptr region) (p + 1) s)
  else answer (.word 0) s

/-- DEBUG_DATA_READ (R50). -/
def execDebugDataRead (who : Master) (region : Fin 52) (half : Half) (s : State) : Host.Outcome State Fault Refusal :=
  .next (debugDataRead who region.val half s)

/-- Debug mode ends: armed captures are cancelled, captured data erased (R48). -/
def endDebug (s : State) : State :=
  (List.range 52).foldl (fun a r => wr (RGN_DEBUG_CTL.arm r) 0 (clearCapture r a)) s

end Sys2Proof.Machine
end

