-- ==== Sys2Proof/Machine/Scan.lean ====
section
/-! DEFINITION. The scan of the measurement converter and its reference buffer: which conversion runs next, how the scan stops and
restarts (07_measurement_converter.md R149 to R152, R156, R162). -/

namespace Sys2Proof.Machine

/-- A change of the converter's record. -/
def setMcv (f : Mcv → Mcv) (s : State) : State := { s with mcv := f s.mcv }

/-! ## The scan (R149 to R152) -/

/-- An entry is enabled and converts something (R149). -/
def entryRuns (w : Word) : Bool := w.getLsbD 15 && decide (w.toNat % 64 ≤ w.toNat / 64 % 64)

/-- An entry is enabled with its last channel below its first: skipped and logged (R149). -/
def entrySkipped (w : Word) : Bool := w.getLsbD 15 && decide (w.toNat / 64 % 64 < w.toNat % 64)

/-- Skipped entries logged, code 0x0040. -/
def logSkips (l : List Nat) (s : State) : State :=
  l.foldl (fun a e => if entrySkipped (a.reg (MCV_SCAN e)) then log 4 2 0x0040 e [] a else a) s

/-- A conversion starts: entry, channel and the entry's content as the scan uses it (R152, R156). -/
def startConv (e c : Nat) (w : Word) (s : State) : State :=
  let settled := rdb MCV_REFBUF.settled s
  wr MCV_STAT.entry e (wr MCV_STAT.channel c
    (setMcv (fun m => { m with conv := some (e, c), content := w, startSettled := settled }) s))

/-- No conversion runs. -/
def stopConv (s : State) : State := setMcv (fun m => { m with conv := none }) s

/-- The host entry whose turn it is: the next enabled one after the last, in round-robin order (R150). -/
def hostTurn (s : State) : Option Nat :=
  ((List.range 8).map fun k => 24 + (s.mcv.turn + 1 + k) % 8).find? fun e => entryRuns (s.reg (MCV_SCAN e))

/-- The host conversion of a cycle: the entry's next channel under its content as it was started (R150, R152). -/
def startHost (e : Nat) (s : State) : State :=
  let now := s.reg (MCV_SCAN e)
  let p := tget (0, 0) s.mcv.hosts e
  let fresh := p.2 = 0 ∨ p.2.toNat / 64 % 64 < p.1
  let w := if fresh then now else p.2
  let c := if fresh then now.toNat % 64 else p.1
  startConv e c w (setMcv (fun m => { m with turn := e - 24, hosts := tset (0, 0) m.hosts e (c + 1, w) }) s)

/-- The host entry due in the running cycle, none where a write has disabled the one that was due (R152). -/
def hostDue (s : State) : Option Nat := if s.mcv.noHost then none else hostTurn s

/-- A host entry disabled (R152): its pass is over; one that was due in the running cycle takes that cycle's host conversion with it, and
the next cycle goes on behind it. -/
def disableHost (e : Nat) (due : Bool) (s : State) : State :=
  setMcv (fun m => { m with hosts := tset (0, 0) m.hosts e (0, 0), noHost := m.noHost || due, turn := if due then e - 24 else m.turn }) s

/-- The scan from firmware entry `i` on; past the firmware entries the host's turn, and with neither the end of a cycle.
`again` says that a new cycle may still be tried. DESIGN CHOICE (log entry 158): every malformed host entry is logged once per
cycle, whichever entry has the turn. -/
def scanFrom (again : Bool) (i : Nat) (s : State) : State :=
  let l := (List.range 24).filter fun e => decide (i ≤ e)
  match l.find? fun e => entryRuns (s.reg (MCV_SCAN e)) with
  | some e => startConv e ((s.reg (MCV_SCAN e)).toNat % 64) (s.reg (MCV_SCAN e)) (logSkips (l.filter (· < e)) s)
  | none =>
    let s := logSkips (l ++ (List.range 8).map (24 + ·)) s
    match hostDue s with
    | some e => startHost e s
    | none =>
      let s := setMcv (fun m => { m with noHost := false }) s
      if again then
        let s := incWrap MCV_STAT.cycles 1 s
        match (List.range 24).find? fun e => entryRuns (s.reg (MCV_SCAN e)) with
        | some e => startConv e ((s.reg (MCV_SCAN e)).toNat % 64) (s.reg (MCV_SCAN e))
            (logSkips ((List.range 24).filter (· < e)) s)
        | none => stopConv s
      else stopConv s

/-- A running scan that converts nothing starts a cycle: an entry has been given something to convert. -/
def kickScan (s : State) : State :=
  if rdb MCV_CTL.run s && s.mcv.conv.isNone && (List.range 32).any (fun e => entryRuns (s.reg (MCV_SCAN e))) then scanFrom false 0 s else s

/-- The scan stops and the conversion in progress is abandoned. -/
def stopScan (s : State) : State := stopConv (wr MCV_CTL.run 0 s)

/-- The entry that is interrupted, where the scan restarts (R156): a host entry keeps its turn and the channel it was at. -/
def markInterrupted (s : State) : State :=
  match s.mcv.conv with
  | none => s
  | some (e, c) =>
    if e < 24 then setMcv (fun m => { m with resumeAt := e }) s
    else setMcv (fun m => { m with resumeAt := e, turn := (e - 24 + 7) % 8, hosts := tset (0, 0) m.hosts e (c, m.content) }) s

/-- The buffer enabled or disabled (R156, R164). -/
def setRefbuf (on : Bool) (s : State) : State :=
  if on == rdb MCV_REFBUF.en s then s
  else if on then
    scanFrom true s.mcv.resumeAt
      (setMcv (fun m => { m with enabledAt := s.now }) (wr MCV_REFBUF.en 1 (wr MCV_CTL.run 1 s)))
  else stopScan (markInterrupted (wr MCV_REFBUF.en 0 (wr MCV_REFBUF.settled 0 s)))

end Sys2Proof.Machine
end

