-- ==== Sys2Proof/Machine/Modes.lean ====
section
/-! DEFINITION. Operating states: wake from power states, GLB_STATE, retraction and abandonment of steps, the end of a load,
Tin Soldier mode, halt, leaving the pair, and GLB_CMD (R213, R224, R261, R348, R360 to R371, R488, R548 to R551). -/

namespace Sys2Proof.Machine

/-! ## HDM accesses and waking -/

/-- One access to a line of the HDM range (R382, R410, R419): a read of a poisoned line returns poison; a full-line write clears poison. -/
def serveLine (a : MemAccess) (s : State) : State :=
  let line := a.line
  let bytes := bytesAt s.hdm (64 * line) 64
  let bad := lineBad line s
  if a.write then
    let full := a.data.length == 64 && a.data.all Option.isSome
    answer .none { s with
      hdm := putSome (64 * line) (a.data.take 64) s.hdm
      hdmPoison := tset false s.hdmPoison line (a.poison || (bad && !full)) }
  else answer (if bad then .poison bytes else .bytes bytes) s

/-- One CXL.mem access to the HDM range once it can be served: one while Memory_Active reads 0 completes with poison (R406). -/
def serveMem (a : MemAccess) (s : State) : State :=
  if s.cxl.memActive then serveLine a s else answer (.poison (bytesAt s.hdm (64 * a.line) 64)) s

/-- Accesses held through self-refresh are completed in their order (R413). -/
def serveHeld (s : State) : State :=
  s.cxl.held.foldl (fun a m => serveMem m a) { s with cxl := { s.cxl with held := [] } }

/-- HBM leaves self-refresh: the stacks that hold it read on, held accesses complete (R374, R413). -/
def leaveSelfRefresh (s : State) : State :=
  serveHeld ((List.range 12).foldl (fun a k => wr (MEM_HBM_STAT.sr k) 0 a) s)

/-- Entries of the management-domain buffer go to the staging ring (R451). -/
def drainBuffer (s : State) : State :=
  { s with evt := { s.evt with staged := s.evt.staged ++ s.evt.buffer, buffer := [] } }

/-- The converter's buffer is enabled again on a wake from PS4 (R156, R188). -/
def wakeConverter (s : State) : State :=
  { setRefbuf true (wr MCV_REFBUF.en 0 (wr MCV_REFBUF.settled 0 s)) with thm := { s.thm with ratesFrom := s.now, samples := [] } }

/-- Every block starts warm-up (R186, R188). -/
def startWarmup (s : State) : State :=
  mapBlocks (fun _ _ b => { b with warm := true, warmFrom := s.pwr.operated, warmEnds := false, mvms := 0 })
    { s with pwr := { s.pwr with warmFrom := s.pwr.operated } }

/-- What PS4 had turned off comes back (R156, R188, R478); no sensor has a sample any more (R497). Blocks re-enter warm-up when PS4
lasted more than an hour. -/
def wakeDeep (s : State) : State :=
  let long := decide (s.pwr.since + 3600 * second < s.now)
  let s := (List.range 53).foldl (fun a n => wr (THM_SENSOR.valid n) 0 a) (wakeConverter s)
  if long then startWarmup s else s

/-- The part wakes to PS0 with a cause of PWR_STATE (R488, R492); in PS0 nothing happens. -/
def wakePart (cause : Nat) (s : State) : State :=
  let st := rd PWR_STATE.state s
  if st = 0 then s
  else
    let s := wr PWR_STATE.state 0 (wr PWR_STATE.target 0 (wr PWR_STATE.cause cause (incWrap PWR_STATE.wakes 1 s)))
    let s := { s with pwr := { s.pwr with idleScans := 0, scheduled := none, since := s.now } }
    let s := if st = 4 then wakeDeep s else s
    if 3 ≤ st then leaveSelfRefresh (drainBuffer s) else s

/-! ## Operating state -/

/-- The RWL fields lock when GLB_STATE first leaves CAL or RECOVERY; never in DEBUG and RETURNED (R513, R544). -/
def lockFields (old : Nat) (s : State) : State :=
  if (old = 1 ∨ old = 4) ∧ s.boot.lcs ≠ 2 ∧ s.boot.lcs ≠ 3 then wr BOOT_STAT.lock 1 s else s

/-- GLB_STATE enters state `n` (R513, R530, R548). The same state is no change. -/
def setGlb (n : Nat) (s : State) : State :=
  let old := rd GLB_STATE.state s
  if old = n then s
  else
    let was := debugMode s
    let s := incWrap GLB_STATE.changes 1 (wr GLB_STATE.state n s)
    let s := lockFields old (log 6 1 0x0060 0 [BitVec.ofNat 8 old, BitVec.ofNat 8 n] s)
    if was && !debugMode s then endDebug s else s

/-- HALT with its cause; FAULT_N follows the state; the ROM runner no longer serves (R370, R548). -/
def haltPart (cause : Nat) (s : State) : State := setGlb 5 (wr GLB_STATE.rom_runner 0 (wr GLB_STATE.halt_cause cause s))

/-- Phase issue stops (R471, R483): reads on their way are lost. -/
def stopPhases (s : State) : State :=
  setRunning (fun t => { t with reads := 0 })
    (mapBlocks (fun _ _ b => { b with queue := [], ahead := [], partials := [], lost := false }) s)

/-- DEGR_N is low (R370). -/
def degrLow (s : State) : Bool := !outputsReleased s && (inTin s || rdb GLB_STATE.rom_runner s)

/-- FAULT_N is low (R548). -/
def faultLow (s : State) : Bool := !outputsReleased s && rd GLB_STATE.state s == 5

/-! ## Generations -/

/-- A slot's state changes, with its event (R210, R454). -/
def setGenState (g st : Nat) (s : State) : State :=
  let old := rd (WLD_GEN.state g) s
  if old = st then s
  else
    log 8 1 0x0082 g (leBytes 2 (rd (WLD_GEN.gen g) s) ++ [BitVec.ofNat 8 old, BitVec.ofNat 8 st])
      (wr (WLD_GEN.state g) st s)

/-- The group counts and the staged recipe changes of slot `g` are gone (R129, R140): they belong to the generation that held it. -/
def dropCounts (g : Nat) (s : State) : State :=
  let keep := fun l : List (Nat × (Nat × Nat × Nat)) => l.filter fun e => e.1 / 65536 != g
  { s with
    regions := s.regions.map fun p => (p.1, { p.2 with counts := keep p.2.counts, lastCounts := keep p.2.lastCounts })
    srv := { s.srv with stagedRecipes := s.srv.stagedRecipes.filter fun c => c.2.1 != g } }

/-- A slot becomes FREE: its register reads zero, its blocks' tiers are marked free (R210, R227). -/
def freeSlot (g : Nat) (s : State) : State :=
  let id := rd (WLD_GEN.gen g) s
  let s := setGenState g 0 s
  let s := setReg (WLD_GEN g) 0 s
  let s := dropCounts g (setGen g (fun _ => Gen.init) s)
  mapBlocks (fun _ _ b => { b with tiers := b.tiers.filter fun t => t.2.gen != id || t.2.gen == 0 }) s

/-- A block whose programming is given up (R208): the row being written and every later row of the tiers it was to fill are not to be
used, and the journal is idle. -/
def giveUpRows (b : Block) : Block :=
  match b.journal with
  | none => b
  | some j =>
    let open_ := (b.tiers.filter fun t => !t.2.complete).map Prod.fst
    let later := (List.range 16384).filter fun k => decide (j.row ≤ k) && (k == j.row || open_.contains (k / 4096))
    { b with journal := none, untrusted := (b.untrusted ++ later).dedup }

/-- The blocks a load is programming stop, and their stand-in for it (R206, R208). -/
def stopProgramming (s : State) : State :=
  mapBlocks (fun r _ b => if decide (r < 50) && (match b.journal with | some j => j.op == 1 | none => false) then giveUpRows b
    else b) (mapBlocks (fun _ _ b => { b with want := b.want.filter (· != .program) }) s)

/-- A code that says the container failed validation (R196, R198, R201). -/
def invalidCode (code : Nat) : Bool := code == 2 || code == 3 || code == 4 || code == 7

/-- The load in progress ends with a code (R201, R210, R226). A container that fails validation leaves its slot FREE, one that belongs to
another generation leaves it as it was; else a slot with a cell written is INCOMPLETE, a resident one stays as it is, and any other
is FREE. A failed Parcel load says so upstream (R219). -/
def endLoad (code chunk : Nat) (s : State) : State :=
  match s.wld.load with
  | none => s
  | some l =>
    let id := rd (WLD_GEN.gen l.slot) s
    let s := log 8 3 0x0080 l.slot (leBytes 1 code ++ leBytes 1 0 ++ leBytes 2 id ++ leBytes 4 chunk) s
    let s := wr WLD_STAT.busy 0 (wr WLD_STAT.err 1 (wr WLD_STAT.code code s))
    let s := { s with wld := { s.wld with load := none } }
    let s := if l.kind = 1 && !s.wld.upSent then
        let d := match (genAt l.slot s).manifest with | some m => m.digest.setWidth 64 | none => 0
        send (.parcelFrame ⟨3, 0, rd WLD_PARCEL_STAT.hop s, id, 0, d, 0, 0, 0, 0⟩ [])
          { s with wld := { s.wld with upSent := true } } else s
    let s := setGen l.slot (fun g => { g with programming := [] }) (stopProgramming s)
    if invalidCode code then freeSlot l.slot s
    else if l.resume && (!l.verified || rdb (WLD_GEN.resident l.slot) s) then s
    else if (genAt l.slot s).wrote || l.resume then setGenState l.slot 5 s
    else freeSlot l.slot s

/-! ## Retraction -/

/-- The provisional entries of a request in a list of steps, and the first position they stand at (R261). -/
def releasedIn (key : Nat) (l : List Step) : Nat × Nat :=
  (l.flatMap fun t => t.parts.filter fun p => p.key == key && p.released != 0).foldl
    (fun a p => (a.1 + p.released, if a.1 = 0 then p.first else min a.2 p.first)) (0, 0)

/-- One retraction entry for a request whose released tokens in these steps are void (R261). -/
def retractRequest (key : Nat) (l : List Step) (s : State) : State :=
  let r := releasedIn key l
  if r.1 = 0 then s
  else putEntry key ⟨r.1, r.2, false, true, false, (l.head?.map (·.num)).getD 0, 0⟩ s

/-- The retraction entries of a list of void steps (R261). -/
def retractSteps (l : List Step) (s : State) : State :=
  ((l.flatMap fun t => t.parts.map (·.key)).dedup).foldl (fun a k => retractRequest k l a) s

/-- Every step that has not committed, oldest first. -/
def uncommitted (s : State) : List Step := s.srv.voids ++ s.srv.done ++ s.srv.running.toList

/-- The parts of a step whose request a test keeps, its released counts cleared. -/
def keepParts (f : Nat → Bool) (t : Step) : Step :=
  { t with parts := (t.parts.filter fun p => f p.key).map fun p => { p with released := 0 }, void := true }

/-- What only lasts for a step ends (R77, R101, R303): tiles' content and operations, blocks' reads and lost results. A tile stays bound. -/
def clearStep (s : State) : State :=
  let s := mapBlocks (fun _ _ b => { b with lost := false, queue := [], ahead := [], partials := [] }) s
  let quiet := fun t : Tile => { t with
    elems := [], base := identity t.kind, sat := false, klong := false, busy := false, costume := false, contribs := [], adds := []
    header := 0, waiting := [], held := [] }
  { s with regions := s.regions.map fun p => (p.1, { p.2 with tiles := p.2.tiles.map (fun e => (e.1, quiet e.2)) }) }

/-- Every uncommitted step is void: retractions are written, the parts that `f` keeps run again, the rest is discarded
(R261, R361, R551). -/
def abandonSteps (f : Nat → Bool) (s : State) : State :=
  let all := uncommitted s
  let s := retractSteps all s
  let rest := (all.map (keepParts f)).filter fun t => !t.parts.isEmpty
  let s := { s with srv := { s.srv with running := none, done := [], voids := rest } }
  let s := clearStep s
  let s := { s with regions := s.regions.map fun p => (p.1, { p.2 with shadows := [] }) }
  wr CHK_COMMIT_LAG.lag 0 s

/-! ## The pair -/

/-- Nothing of the partner's is left in the part: plan, hashes, settlement, provisional results, mirrors. -/
def dropPartner (s : State) : State :=
  wr PAIR_STAT.stage 0 { s with pair := { Pair.init with partner := s.pair.partner } }

/-- A leaving notice to a paired partner (R348); the part serves alone. -/
def leavePair (s : State) : State :=
  if paired s || rd PAIR_STAT.state s == 6 then wr PAIR_STAT.state 4 (dropPartner (send .leavingNotice s)) else s

/-! ## Tin Soldier mode -/

/-- Cause bit `c` of the Tin Soldier cause set (R360). -/
def tinBit (c : Nat) (s : State) : Bool := (rd GLB_STATE.tin_cause s).testBit c

/-- The cause set with bit `c` set or cleared. -/
def putTinBit (c : Nat) (b : Bool) (s : State) : State :=
  let v := rd GLB_STATE.tin_cause s
  wr GLB_STATE.tin_cause (if b then Nat.lor v (2 ^ c) else v - (if v.testBit c then 2 ^ c else 0)) s

/-- PWR_STATE.tin and the event of an entry or an added cause (R360). -/
def noteTin (s : State) : State :=
  log 3 4 0x0030 0 [BitVec.ofNat 8 (rd GLB_STATE.tin_cause s)] (wr PWR_STATE.tin 1 s)

/-- Every main request TAKEN or RUNNING ends FAILED with a cause. -/
def failMain (cause : Nat) (s : State) : State :=
  ((s.srv.requests.filter fun r => !isKeep r).map (·.key)).foldl (fun a k => finish k cause a) s

/-- Stand-in of service regions and their blocks ends (R362). -/
def dropServiceCover (s : State) : State :=
  let s := { s with regions := s.regions.map fun p =>
    if p.1 < 48 then (p.1, { p.2 with want := p.2.want.filter (· != .rattle), stood := none }) else p }
  mapBlocks (fun r _ b => if r < 48 then { b with stood := false } else b) s

/-- A Rattle test that runs on a keep region is abandoned without a result; a running test elsewhere as well, since its
stand-in stops (R362). -/
def abandonRattle (s : State) : State :=
  if rdb CHK_RATTLE_STAT.running s then
    unwantRegion (rd CHK_RATTLE_STAT.region s) .rattle (wr CHK_RATTLE_STAT.running 0 (wr CHK_RATTLE_STAT.deferred 1 s))
  else s

/-- No usable keep region and no master copy is left to serve from: the part halts; a part without a model never does (R367). -/
def haltNoKeep (s : State) : State :=
  if keepServed s && rdb (RGN_STATE.unusable 50) s && rdb (RGN_STATE.unusable 51) s && !s.tin.master
      && !rdb BOOT_STAT.no_tin s then haltPart 4 s
  else s

/-- Entry into Tin Soldier mode (R361): that instant counts as a step boundary. -/
def enterTin (s : State) : State :=
  let s := abandonSteps (fun k => decide (16384 ≤ k)) (wakePart 6 s)
  let s := failMain 0x1E s
  let s := leavePair (setGlb 3 s)
  let s := abandonRattle (dropServiceCover s)
  let s := { s with tin := { s.tin with exact := tinBit 2 s && s.tin.master, leaving := false } }
  admitAll (scanAll (haltNoKeep s))

/-- A Tin Soldier cause arises (R360): in SERVICE the part enters the mode, in TIN the bit is added; in the states before
service it is recorded and CAL_END acts on it (R508). A part without a Tin Soldier model that meets "no main generation"
does not enter (R360). -/
def raiseTin (c : Nat) (s : State) : State :=
  if c = 0 && rdb BOOT_STAT.no_tin s then s
  else
    let st := rd GLB_STATE.state s
    let fresh := !tinBit c s
    let s := putTinBit c true s
    if st = 2 then enterTin (noteTin s) else if st = 3 && fresh then noteTin (wakePart 6 s) else s

/-- Leaving takes effect (R371): SERVICE again, main tables scanned. -/
def leaveTinNow (s : State) : State :=
  let s := setGlb 2 { s with tin := { s.tin with leaving := false, exact := false } }
  log 3 1 0x0031 0 [] s

/-- With every cause clear the part leaves at the next Tin Soldier step boundary; while no step runs that is now (R249,
R371). -/
def tryLeaveTin (s : State) : State :=
  if inTin s && rd GLB_STATE.tin_cause s == 0 then
    if s.srv.running.isNone then leaveTinNow s else { s with tin := { s.tin with leaving := true } }
  else s

/-! ## GLB_CMD (R550) -/

/-- Halt (R551). -/
def haltCommand (s : State) : State :=
  let s := abandonSteps (fun _ => false) (leavePair s)
  haltPart 1 (endLoad 12 0 s)

/-- Everything the reference and the supplies need for the Supply cause to clear (R371). -/
def supplyInRange (s : State) : Bool := s.pins.railsOut.isEmpty && !rdb CAL_REF.fail s

/-- A leave command is refused: a bit other than Command or Supply is set, or Supply is still out of range (R371). -/
def leaveRefused (s : State) : Bool :=
  [0, 1, 2, 4].any (fun c => tinBit c s) || (tinBit 3 s && !supplyInRange s)

/-- The result code of a GLB_CMD write, first fault first (R550). -/
def glbStatus (cmd key : Nat) (s : State) : Nat :=
  let st := rd GLB_STATE.state s
  if key != 0x0650 then 2
  else if cmd = 0 ∨ 4 < cmd then 1
  else if (cmd = 2 ∧ st ≠ 2 ∧ st ≠ 3) ∨ (cmd = 3 ∧ st ≠ 3) ∨ (cmd = 4 ∧ st = 5) then 3
  else if cmd = 3 ∧ leaveRefused s then 4
  else 0

/-- A write to GLB_CMD wakes the part (R488), then acts or is logged with its status (R550). The accepted command's effect is
`k`. -/
def glbCommand (who : Master) (cmd key : Nat) (k : State → State) (s : State) : State :=
  let value := cmd + 256 * key
  byWriter who GLB_CMD value s fun s =>
    let s := wakePart 4 s
    let st := glbStatus cmd key s
    let s := wr GLB_CMD.status st s
    if st = 0 then k s else logIgnored who GLB_CMD value s

/-- The enter command: sets cause 5 (R360). -/
def enterCommand (s : State) : State := raiseTin 5 s

/-- The leave command: clears Command, and Supply once in range (R371). -/
def leaveCommand (s : State) : State :=
  let s := putTinBit 5 false s
  let s := if supplyInRange s then putTinBit 3 false s else s
  tryLeaveTin s

/-- ENTER_TIN_SOLDIER (R360, R361, R550). -/
def execEnterTinSoldier (who : Master) (key : BitVec 16) (s : State) : Host.Outcome State Fault Refusal :=
  .next (glbCommand who 2 key.toNat enterCommand s)

/-- LEAVE_TIN_SOLDIER (R371, R550). -/
def execLeaveTinSoldier (who : Master) (key : BitVec 16) (s : State) : Host.Outcome State Fault Refusal :=
  .next (glbCommand who 3 key.toNat leaveCommand s)

/-- HALT (R550, R551). -/
def execHalt (who : Master) (key : BitVec 16) (s : State) : Host.Outcome State Fault Refusal :=
  .next (glbCommand who 4 key.toNat haltCommand s)

/-- SUPPLY_OUT_OF_RANGE (R360, R561): the rail, numbered in the order of R558, is out of range and the Supply cause is raised. -/
def execSupplyOutOfRange (rail : Fin 8) (s : State) : Host.Outcome State Fault Refusal :=
  .next (raiseTin 3 { s with pins := { s.pins with
    railsOut := if s.pins.railsOut.contains rail.val then s.pins.railsOut else s.pins.railsOut ++ [rail.val] } })

/-- SUPPLY_IN_RANGE (R371, R561): every monitored supply has been in range for 1 s; the cause clears on a leave command. -/
def execSupplyInRange (s : State) : Host.Outcome State Fault Refusal :=
  .next { s with pins := { s.pins with railsOut := [] } }

end Sys2Proof.Machine
end

