-- ==== Sys2Proof/Machine/Thermal.lean ====
section
/-! DEFINITION. Temperatures, bands, rise rates, throttling and HBM refresh (R80, R173, R180, R385, R472 to R483).
Temperatures are in 2⁻⁶ °C. -/

namespace Sys2Proof.Machine

/-- A whole number of degrees. -/
def deg (c : Int) : Int := 64 * c

/-! ## Sensors (R472 to R477) -/

/-- The sensor temperature of a converter code (R472), rounded to 2⁻⁶ °C. -/
def sensorTemp (n : Nat) (code : Int) (s : State) : Int :=
  let eta : Rat := (tget (2 ^ 20) s.nv.etaTrim n : Nat) / 2 ^ 20
  let v : Rat := (code : Rat) * (5 / 4) / 2 ^ 23
  rneRat (64 * (v / ((2867 : Rat) / 1000000 * eta) - (27315 : Rat) / 100)) + tget 0 s.nv.offTrim n

/-- The neighbours of sensor `n` on the 4 × 13 grid (R474). -/
def neighbours (n : Nat) : List Nat :=
  if n = 52 then [19, 32]
  else (if 13 ≤ n then [n - 13] else []) ++ (if n < 39 then [n + 13] else [])
    ++ (if n % 13 != 0 then [n - 1] else []) ++ (if n % 13 != 12 then [n + 1] else [])

/-- Sensor `n` is suspect. -/
def sensorSuspect (n : Nat) (s : State) : Bool := rdb (THM_SENSOR.suspect n) s

/-- The middle of a sorted list; the mean of the middle two for an even count (R474). -/
def median (l : List Int) : Int :=
  let l := sortBy (fun a b : Int => decide (a ≤ b)) l
  let k := l.length
  if k % 2 = 1 then l.getD (k / 2) 0 else (l.getD (k / 2 - 1) 0 + l.getD (k / 2) 0) / 2

/-- The temperatures of a sensor's neighbours that are not suspect (R474). -/
def nearTemps (n : Nat) (s : State) : List Int :=
  ((neighbours n).filter fun k => !sensorSuspect k s).map fun k => rds (THM_SENSOR.temp k) s

/-- The guard in force (R477). -/
def guardTemp (s : State) : Int := if rdb THM_STAT.guard s then deg 8 else 0

/-- The effective temperature of a sensor without the guard (R476). With every sensor suspect its own reading stands. -/
def effective (n : Nat) (s : State) : Int :=
  let own := rds (THM_SENSOR.temp n) s
  if !sensorSuspect n s then own
  else
    let near := nearTemps n s
    let any := (List.range 53).filter fun k => !sensorSuspect k s
    if !near.isEmpty then median near
    else match any with
      | [] => own
      | k :: t => t.foldl (fun a j => max a (rds (THM_SENSOR.temp j) s)) (rds (THM_SENSOR.temp k) s)

/-- Every effective temperature brought up to date (R476, R477). -/
def updateEffective (s : State) : State :=
  (List.range 53).foldl (fun a n => wrs (THM_SENSOR.eff n) (effective n s + guardTemp s) a) s

/-- The region temperature T of R80. -/
def regionTemp (r : Nat) (s : State) : Int := rds (THM_SENSOR.eff r) s

/-- The junction temperature T_j (R476). -/
def junction (s : State) : Int :=
  (List.range 53).foldl (fun a n => max a (rds (THM_SENSOR.eff n) s)) (rds (THM_SENSOR.eff 0) s)

/-! ## Refresh (R385) -/

/-- The band whose junction range contains a temperature (R172). -/
def bandOf (t : Int) : Nat :=
  if t < deg 0 then 0 else if t < deg 40 then 1 else if t < deg 70 then 2 else if t < deg 95 then 3 else 4

/-- The refresh mode of a band (R172). -/
def bandRefresh (b : Nat) : Nat := if b = 4 then 2 else if b = 3 then 1 else 0

/-- The highest band any region's temperature lies in, temperatures raised by a margin. -/
def hottestBand (margin : Int) (s : State) : Nat :=
  (List.range 52).foldl (fun a r => max a (bandOf (regionTemp r s + margin))) 0

/-- The refresh mode stack `k` calls for, with a margin on its inputs (R385, R397). -/
def refreshWanted (k : Nat) (margin : Int) (s : State) : Nat :=
  let t := rds (MEM_HBM_STAT.temp k) s + margin / 64
  let stack := if 95 ≤ t then 2 else if 70 ≤ t then 1 else 0
  max (max (bandRefresh (hottestBand margin s)) stack) (min (rd MEM_REFRESH_MODE.floor s) 2)

/-- Since when stack `k`'s inputs have held a lower mode, 3 °C below the threshold (R385). -/
def noteHold (k : Nat) (s : State) : State :=
  let rest := s.thm.holds.filter fun h => h.1 != k
  let holds :=
    if refreshWanted k (deg 3) s < rd (MEM_HBM_STAT.refresh k) s then
      (if s.thm.holds.any fun h => h.1 == k then s.thm.holds else rest ++ [(k, s.now)])
    else rest
  { s with thm := { s.thm with holds } }

/-- Every stack's mode rises where an input calls for it (R385). -/
def refreshRise (s : State) : State :=
  let s := wr MEM_REFRESH_MODE.band (hottestBand 0 s) s
  (List.range 12).foldl (fun a k =>
    noteHold k (wr (MEM_HBM_STAT.refresh k) (max (rd (MEM_HBM_STAT.refresh k) a) (refreshWanted k 0 a)) a)) s

/-- Milliseconds left before the mode may fall (R397). -/
def holdLeft (s : State) : Nat := s.thm.holds.foldl (fun a h => max a (10000 - (s.now - h.2) / 600000)) 0

/-- Stack `k`'s inputs have held a lower mode for 10 s (R385). -/
def heldLong (k : Nat) (s : State) : Bool := s.thm.holds.any fun h => h.1 == k && decide (h.2 + 10 * second ≤ s.now)

/-- REFRESH_FALL (R385): the inputs have held the lower mode for 10 s, 3 °C below the threshold. -/
def execRefreshFall (stack : Fin 12) (s : State) : Host.Outcome State Fault Refusal :=
  .next <|
    let k := stack.val
    if heldLong k s then
      noteHold k (wr (MEM_HBM_STAT.refresh k) (min (rd (MEM_HBM_STAT.refresh k) s) (refreshWanted k (deg 3) s)) s)
    else s

/-- STACK_TEMPERATURE_CROSSING (R385, R394): the stack's readout, and the rise it calls for. -/
def execStackTemperatureCrossing (stack : Fin 12) (celsius : Int) (s : State) : Host.Outcome State Fault Refusal :=
  .next (refreshRise (wrs (MEM_HBM_STAT.temp stack.val) celsius s))

/-! ## Bands and look-ahead (R173, R479) -/

/-- The lower edge of band `b`, for b from 1 to 4. -/
def bandEdge (b : Nat) : Int :=
  match b with
  | 1 => deg 0
  | 2 => deg 40
  | 3 => deg 70
  | _ => deg 95

/-- The band a region in band `b` is due to enter at temperature `t` (R479). -/
def bandDueAt (b : Nat) (t : Int) : Option Nat :=
  if b < 4 ∧ bandEdge (b + 1) ≤ t then some (b + 1)
  else if 0 < b ∧ t < bandEdge b - deg 2 then some (b - 1)
  else none

/-- The band beyond the edge that lies within the look-ahead margin (R173, R189). -/
def lookAheadBand (b : Nat) (t : Int) (s : State) : Option Nat :=
  let m : Int := 16 * min (rd CAL_CTL.la_margin s) 0x50
  if b < 4 ∧ bandEdge (b + 1) - m ≤ t then some (b + 1)
  else if 0 < b ∧ t ≤ bandEdge b + m then some (b - 1)
  else none

/-- A pass of a kind queued on a block, once (R177). -/
def queuePass (k : PassKind) (b : Block) : Block :=
  if b.passes.contains k then b else { b with passes := b.passes ++ [k] }

/-- A pass queued on every block of a region (R177, R180, R189). -/
def queueRegion (region : Nat) (k : PassKind) (s : State) : State :=
  (List.range 1312).foldl (fun a b => setBlock region b (queuePass k) a) s

/-- The staged band of a region is measured by a pass of each block (R173). -/
def measureBand (region band : Nat) (k : PassKind) (s : State) : State :=
  queueRegion region k (setRegion region (fun r => { r with bandWanted := some band, bandReady := none }) s)

/-- Look-ahead starts for a band (R173): nothing where that band is already measured or being measured. -/
def lookAhead (region band : Nat) (s : State) : State :=
  let r := regionAt region s
  if r.bandReady = some band ∨ r.bandWanted = some band then s else measureBand region band .lookAhead s

/-- A region's band follows its temperature (R173, R174, R479). -/
def selectBand (region : Nat) (s : State) : State :=
  let b := rd (RGN_STATE.band region) s
  let t := regionTemp region s
  let due := bandDueAt b t
  let s := setRegion region (fun r => { r with bandDue := due }) s
  let s := if t < deg (-40) then wr THM_STAT.below40 1 s else s
  match due with
  | some d => lookAhead region d s
  | none =>
    match (if rdb CAL_CTL.la_en s then lookAheadBand b t s else none) with
    | some d => lookAhead region d s
    | none => s

/-- A region enters the band that contains its temperature (R479); factors of another band do not stay with it (R174). -/
def enterBand (region : Nat) (s : State) : State :=
  let d := bandOf (regionTemp region s)
  let s := setRegion region (fun r => { r with bandStart := false }) s
  if rd (RGN_STATE.band region) s = d then s
  else
    let s := wr (RGN_STATE.band region) d (setRegion region (fun r => { r with bandDue := none, bandWanted := none, bandReady := none }) s)
    mapBlocks (fun p _ b => if p = region then { b with fits := [], newFits := [], bandFits := [] } else b) s

/-- A region starts in the band of its temperature (R479): at the next step boundary, or at once while no step runs (R9). -/
def startBand (region : Nat) (s : State) : State :=
  if quietNow s then enterBand region s else setRegion region (fun r => { r with bandStart := true }) s

/-! ## Rise rates and immediate recalibration (R180, R478) -/

/-- The least-squares slope of samples, in 2⁻⁶ °C per cycle; absent where they span no time. -/
def slope (l : List Sample) : Option Rat :=
  let n : Rat := l.length
  let st : Rat := l.foldl (fun a x => a + (x.time : Rat)) 0
  let sy : Rat := l.foldl (fun a x => a + (x.temp : Rat)) 0
  let stt : Rat := l.foldl (fun a x => a + (x.time : Rat) * x.time) 0
  let sty : Rat := l.foldl (fun a x => a + (x.time : Rat) * x.temp) 0
  let d := n * stt - st * st
  if d = 0 then none else some ((n * sty - st * sy) / d)

/-- The samples of a region within the last second, the new one included; those of the first second after a POR or a wake from PS4 are
discarded (R478). -/
def addSample (region : Nat) (s : State) : State :=
  let old := (tget [] s.thm.samples region).filter fun x => decide (s.now ≤ x.time + second)
  let new := if s.thm.ratesFrom + second ≤ s.now then [(⟨s.now, regionTemp region s⟩ : Sample)] else []
  { s with thm := { s.thm with samples := tset [] s.thm.samples region (old ++ new) } }

/-- The rate of a region in 1/16 °C/s; absent where it is not evaluated (R478). -/
def riseRate (region : Nat) (s : State) : Option Int :=
  let l := tget [] s.thm.samples region
  match l.head?, l.getLast? with
  | some a, some b =>
    if 10 ≤ l.length ∧ a.time + second / 2 ≤ b.time then
      (slope l).map fun q => rneRat (q * second / 4)
    else none
  | _, _ => none

/-- A region becomes affected: a pass in its band, a look-ahead upward, a deep pass (R180). -/
def affectRegion (region : Nat) (s : State) : State :=
  let b := rd (RGN_STATE.band region) s
  let s := setRegion region (fun r => { r with affected := true, deepDone := false }) s
  let s := queueRegion region .immediate s
  let s := if b < 4 then measureBand region (b + 1) .aheadNow s else s
  wantRegion region .deep s

/-- Immediate recalibration: the region and every neighbour within 6 °C of it (R180). -/
def immediateRecal (region : Nat) (s : State) : State :=
  if !rdb CAL_CTL.rise_en s then s
  else
    let t := regionTemp region s
    let near := (neighbours region).filter fun k => decide ((regionTemp k s - t).natAbs ≤ 384)
    wr CAL_STAT.immediate 1 ((region :: near).foldl (fun a r =>
      if (regionAt r a).affected then a else affectRegion r a) s)

/-- The rate of a region evaluated at a new sample (R478, R480). -/
def evalRate (region : Nat) (s : State) : State :=
  let s := addSample region s
  match riseRate region s with
  | none => wr (THM_SENSOR.rate region) 0 s
  | some q =>
    let s := wr THM_STAT.rate_on 1 (wrs (THM_SENSOR.rate region) q s)
    let s := if (max (rd THM_CFG.warn_rate s) 0x10 : Nat) ≤ q then
        log 3 2 (Config.unlistedCode 478).toNat region [] (wr THM_STAT.rise_warn 1 s) else s
    if (max (rd THM_CFG.recal_rate s) 0x30 : Nat) ≤ q then immediateRecal region s else s

/-! ## Throttling and Tin Soldier (R480 to R482) -/

/-- The throttle threshold (R499). -/
def throttleTemp (s : State) : Int := deg (max 85 (min (rd THM_CFG.throttle_c s) 105) : Nat)

/-- The core divider of a throttle level (R481). -/
def coreDivider (level : Nat) : Nat :=
  match level with
  | 0 => 3
  | 1 => 4
  | 2 => 6
  | _ => 12

/-- The throttle level set, with the divider (R481, R491). -/
def setLevel (l : Nat) (s : State) : State := wr CLK_DIV.core (coreDivider l) (wr THM_STAT.level l s)

/-- The level rises by one, up to 3. -/
def levelUp (s : State) : State :=
  let l := rd THM_STAT.level s
  if l < 3 then setLevel (l + 1) (wr THM_STAT.throttled 1 s) else s

/-- What T_j does when it was `old` before (R480, R481). -/
def actOnJunction (old : Int) (s : State) : State :=
  let t := junction s
  let s := wrs THM_STAT.tj_max (max t (rds THM_STAT.tj_max s)) s
  let s := if old < throttleTemp s ∧ throttleTemp s ≤ t then levelUp (wakePart 6 s) else s
  if deg 110 ≤ t then raiseTin 2 (wr THM_STAT.tin_temp 1 s) else s

/-- Every consequence of new temperatures (R385, R476, R479, R480); in service the bands follow. -/
def temperaturesChanged (s : State) : State :=
  let old := junction s
  let s := updateEffective s
  let s := if inService s || inTin s then (List.range 52).foldl (fun a r => selectBand r a) s else s
  actOnJunction old (refreshRise s)

/-- A valid diode sample (R473): the sensor's temperature and what follows from it. With the first one after a POR or a wake from PS4 the
region starts in its band (R479). -/
def sampleTemp (n : Nat) (code : Int) (seq : Nat) (s : State) : State :=
  let first := !rdb (THM_SENSOR.valid n) s && !sensorSuspect n s && decide (n < 52)
  let s := wrs (THM_SENSOR.temp n) (sensorTemp n code s) s
  let s := if first then startBand n (updateEffective s) else s
  let s := wr (THM_SENSOR.valid n) 1 (wr (THM_SENSOR.seq n) seq s)
  let s := { s with thm := { s.thm with validAt := tset 0 s.thm.validAt n s.now } }
  let s := temperaturesChanged s
  if n < 52 then evalRate n s else s

/-- THROTTLE_STEP_UP (R481): T_j has stayed at or above the threshold for 500 ms since the last step. -/
def execThrottleStepUp (s : State) : Host.Outcome State Fault Refusal :=
  .next (if throttleTemp s ≤ junction s then levelUp s else s)

/-- THROTTLE_STEP_DOWN (R481): T_j has stayed 3 °C below the threshold for 2 s. -/
def execThrottleStepDown (s : State) : Host.Outcome State Fault Refusal :=
  .next (if junction s ≤ throttleTemp s - deg 3 ∧ 0 < rd THM_STAT.level s then setLevel (rd THM_STAT.level s - 1) s else s)

/-! ## Suspect sensors (R473, R475, R501) -/

/-- A sensor becomes suspect (R475): flags, event, and the temperatures that change with it. -/
def markSuspect (n : Nat) (s : State) : State :=
  if sensorSuspect n s then s
  else
    let s := wr (THM_SENSOR.suspect n) 1 (wr THM_STAT.suspect 1 s)
    let s := setReg THM_SUSPECT_0 (s.reg THM_SUSPECT_0 ||| 1#64 <<< n) s
    let s := setReg THM_SUSPECT_1 (s.reg THM_SUSPECT_1 ||| 1#64 <<< n) s
    temperaturesChanged (log 3 2 (Config.unlistedCode 475).toNat n [] s)

/-- How far a sensor differs from its neighbour median (R475); none where no neighbour is usable. -/
def medianGap (n : Nat) (s : State) : Option Nat :=
  let l := nearTemps n s
  if l.isEmpty then none else some (rds (THM_SENSOR.temp n) s - median l).natAbs

/-- SENSOR_STALE (R473): no valid sample for 500 ms, counted from the last wake or POR at the earliest. -/
def execSensorStale (n : Fin 53) (s : State) : Host.Outcome State Fault Refusal :=
  .next (if max (tget 0 s.thm.validAt n.val) s.thm.ratesFrom + second / 2 ≤ s.now then markSuspect n.val (wr (THM_SENSOR.valid n.val) 0 s) else s)

/-- SENSOR_SUSPECT (R475): more than 6 °C from the neighbour median, for 3 s. -/
def execSensorSuspect (n : Fin 53) (s : State) : Host.Outcome State Fault Refusal :=
  .next (match medianGap n.val s with
    | some d => if 384 < d then markSuspect n.val s else s
    | none => s)

/-- SENSOR_CLEARED (R475): within 3 °C of the neighbour median, for 30 s. -/
def execSensorCleared (n : Fin 53) (s : State) : Host.Outcome State Fault Refusal :=
  .next <|
    if sensorSuspect n.val s && (match medianGap n.val s with | some d => decide (d ≤ 192) | none => false) then
      let s := wr (THM_SENSOR.suspect n.val) 0 s
      let s := setReg THM_SUSPECT_0 (s.reg THM_SUSPECT_0 &&& ~~~ (1#64 <<< n.val)) s
      temperaturesChanged (log 3 2 (Config.unlistedCode 475).toNat n.val [] s)
    else s

/-- TEMP_CAUSE_CLEAR (R371): after 5 s of a junction at or below 100 °C the Temperature cause clears. -/
def execTempCauseClear (s : State) : Host.Outcome State Fault Refusal :=
  .next (if tinBit 2 s && decide (junction s ≤ deg 100) then tryLeaveTin (putTinBit 2 false s) else s)

/-! ## Trip (R483) -/

/-- THERMAL_TRIP (R483): THERM_TRIP_N is latched low, phase issue stops, HBM goes into self-refresh, the part halts; a paired
partner gets its leaving notice (R348). -/
def execThermalTrip (n : Fin 53) (s : State) : Host.Outcome State Fault Refusal :=
  let s := leavePair (wakePart 6 s)
  let s := wr (THM_SENSOR.trip n.val) 1 (wr THM_STAT.trip 1 s)
  let s := { s with pins := { s.pins with tripLatch := true } }
  .next (haltPart 3 ((List.range 12).foldl (fun a k =>
    if rd (MEM_HBM_STAT.state k) a = 2 then wr (MEM_HBM_STAT.sr k) 1 a else a) (stopPhases s)))

/-- PS4_WAKE_COMPARATOR (R483, R488): armed only in PS4. -/
def execPs4WakeComparator (_n : Fin 53) (s : State) : Host.Outcome State Fault Refusal :=
  .next (if rd PWR_STATE.state s = 4 then wakePart 6 s else s)

end Sys2Proof.Machine
end

