-- ==== Sys2Proof/Machine/Converter.lean ====
section
/-! DEFINITION. The measurement converter: scan, results, FIFO, self-calibration, the reference check
(07_measurement_converter.md R145 to R167, R169, R191). -/

namespace Sys2Proof.Machine

/-! ## The scan's progress (R150) -/

/-- What follows a finished conversion (R150): the entry's next channel, the next entry, the host's turn, the next cycle. -/
def advanceScan (e c : Nat) (s : State) : State :=
  if e < 24 then
    if c < s.mcv.content.toNat / 64 % 64 then startConv e (c + 1) s.mcv.content s else scanFrom true (e + 1) s
  else scanFrom false 0 (incWrap MCV_STAT.cycles 1 s)

/-! ## Results (R153 to R157) -/

/-- The corrected value of a filter output (R157) and whether it is out of range; an input out of range gives the end of the range on its
side (R145). -/
def correctResult (raw : Int) (outOfRange : Bool) (s : State) : Int × Bool :=
  let ofs : Rat := (rds MCV_OFS.ofs s : Rat) / 16
  let gain : Rat := (rd MCV_GAIN.gain s : Rat) / 2 ^ 30
  let v := rneRat ((raw - ofs) * gain)
  let c := if outOfRange then (if raw < 0 then -2 ^ 23 else 2 ^ 23 - 1) else max (-2 ^ 23) (min v (2 ^ 23 - 1))
  (c, outOfRange || c != v)

/-- Results carry uncal: the factors hold their reset values, or the last self-calibration failed (R155). -/
def uncal (s : State) : Bool := (s.reg MCV_OFS == 0 && rd MCV_GAIN.gain s == 0x40000000) || s.mcv.failed

/-- A result word (R155). -/
def resultWord (value : Int) (ch seq entry : Nat) (nset clip unc : Bool) : Word :=
  BitVec.ofNat 64 ((value % 2 ^ 24).toNat + 2 ^ 24 * ch + 2 ^ 30 * nset.toNat + 2 ^ 31 * clip.toNat + 2 ^ 32 * seq
    + 2 ^ 48 * entry + 2 ^ 53 * unc.toNat + 2 ^ 63)

/-- The result is also pushed into the FIFO (R154). -/
def pushes (e : Nat) (s : State) : Bool := if e < 24 then rdb MCV_CTL.fw_fifo s else s.mcv.content.getLsbD 16

/-- A result pushed, or dropped at a full FIFO (R154). -/
def pushFifo (w : Word) (s : State) : State :=
  if s.mcv.fifo.length < 64 then setMcv (fun m => { m with fifo := m.fifo ++ [w] }) s
  else incHold MCV_STAT.lost 1 (wr MCV_STAT.overflow 1 s)

/-- CONVERSION_RESULT (R154): the conversion in progress completes; none runs: nothing happens. -/
def execConversionResult (raw : Int) (outOfRange : Bool) (s : State) : Host.Outcome State Fault Refusal :=
  .next <|
    match s.mcv.conv with
    | none => s
    | some (e, c) =>
      let v := correctResult raw outOfRange s
      let clip := v.2
      let nset := !s.mcv.startSettled
      let unc := uncal s
      let seq := tget 0 s.mcv.seqs c
      let w := resultWord v.1 c seq e nset clip unc
      let s := setMcv (fun m => { m with seqs := tset 0 m.seqs c ((seq + 1) % 65536) }) s
      let s := setReg (MCV_RESULT c) w s
      let s := if pushes e s then pushFifo w s else s
      let s := if c ≤ 52 && !nset && !clip && !unc then sampleTemp c v.1 seq s else s
      advanceScan e c s

/-! ## Commands (R156, R158, R159, R161, R162) -/

/-- The host may write MCV_CMD and MCV_REFBUF.en now (R156, R159); control cores always may. -/
def mayTouchMcv (who : Master) (s : State) : Bool :=
  let st := rd GLB_STATE.state s
  who != .host || st == 0 || st == 1 || st == 4 || s.nv.lcs == 2

/-- A self-calibration starts: the scan stops (R158), once the buffer has settled; during one it is ignored (R159). -/
def startSelfCal (s : State) : State :=
  if rdb MCV_STAT.cal_busy s then s
  else
    let s := wr MCV_STAT.cal_busy 1 s
    if rdb MCV_REFBUF.settled s then stopScan s else s

/-- The scan restarts at entry 0 (R162); while it does not run, as during a self-calibration, which resumes there anyway, nothing
else changes. -/
def restartScan (s : State) : State :=
  if rdb MCV_CTL.run s then scanFrom true 0 s else setMcv (fun m => { m with resumeAt := 0 }) s

/-- MCV_CMD written (R159, R162). -/
def mcvCmdWrite (w : Write) (s : State) : State :=
  guarded MCV_CMD w s fun s =>
    let cmd := fget MCV_CMD.cmd (wdata w)
    if w.half = .upper then s
    else if !mayTouchMcv w.who s then logIgnored w.who MCV_CMD w.data.toNat s
    else if cmd = 1 then startSelfCal s
    else if cmd = 2 then restartScan s
    else logIgnored w.who MCV_CMD w.data.toNat s

/-- SELF_CALIBRATION (R158, R162). -/
def execSelfCalibration (w : Write) (s : State) : Host.Outcome State Fault Refusal := .next (mcvCmdWrite w s)

/-- SCAN_RESTART (R162). -/
def execScanRestart (w : Write) (s : State) : Host.Outcome State Fault Refusal := .next (mcvCmdWrite w s)

/-- The offset from the sum of 9 outputs with the input shorted, in 2⁻⁴ LSB (R158, R165). DESIGN CHOICE (log entry 154): it
and the gain are rounded to nearest, ties to even. -/
def calOffset (zero : Int) : Int := rneRat (16 * (zero : Rat) / 9)

/-- The gain 6,291,456 / (raw mean − offset) from the sums of 9 outputs at 3/4 of VREF_EXT and with the input shorted, in 2⁻³⁰ (R158, R165);
none where the mean does not exceed the offset. -/
def calGain (zero full : Int) : Option Nat :=
  if full ≤ zero then none else some (rneRat (6291456 * 9 * 2 ^ 30 / ((full - zero : Int) : Rat))).toNat

/-- A self-calibration's results are in range (R158): the offset in 2⁻⁴ LSB, the gain in 2⁻³⁰, the ground check, corrected with both, in
LSB. -/
def selfCalOk (offset : Int) (gain : Nat) (ground : Int) : Bool :=
  decide (offset.natAbs ≤ 1048576) && decide (98 * 2 ^ 30 ≤ 100 * gain) && decide (100 * gain ≤ 102 * 2 ^ 30)
    && decide ((rneRat (((ground : Rat) - (offset : Rat) / 16) * ((gain : Rat) / 2 ^ 30))).natAbs ≤ 8)

/-- The second failure in a row brings the guard of R477. -/
def selfCalFailed (s : State) : State :=
  let s := wr MCV_STAT.cal_fail 1 (wr MCV_STAT.cal_ok 0 (setMcv (fun m => { m with failed := true }) s))
  let n := s.thm.calFails + 1
  let s := { s with thm := { s.thm with calFails := n } }
  if n = 2 then temperaturesChanged (wr THM_STAT.uncal 1 (wr THM_STAT.guard 1 s)) else s

/-- A success stores the factors; the guard ends (R158, R477). -/
def selfCalPassed (offset : Int) (gain : Nat) (s : State) : State :=
  let s := wrs MCV_OFS.ofs offset (wr MCV_GAIN.gain gain s)
  let s := wr MCV_STAT.cal_ok 1 (setMcv (fun m => { m with failed := false }) s)
  let s := { s with thm := { s.thm with calFails := 0 } }
  if rdb THM_STAT.guard s then temperaturesChanged (wr THM_STAT.guard 0 s) else s

/-- The boot goes on to CAL (R506, R515): GLB_STATE reads CAL, but RECOVERY until an image streamed there leaves CAL (R519). -/
def beginCal (s : State) : State :=
  let s := wr BOOT_STAT.stage 4 s
  if rd GLB_STATE.state s = 0 then setGlb 1 s else s

/-- What the boot does when the buffer has settled (R506, R515): after POR the self-calibration unless the boot ROM has made it, after a
warm reset CAL. In RECOVERY the ROM calibrates. -/
def bootSettled (s : State) : State :=
  if rd BOOT_STAT.stage s = 3 then
    if rdb MCV_STAT.cal_busy s then s
    else if s.boot.warm || rdb MCV_STAT.cal_ok s then beginCal s else startSelfCal s
  else if rd GLB_STATE.state s == 4 && !s.boot.warm then startSelfCal s
  else s

/-- What the boot does when the self-calibration is over: firmware retries once on failure (R158). -/
def bootCalibrated (passed : Bool) (s : State) : State :=
  if !passed && s.thm.calFails == 1 && (rd BOOT_STAT.stage s == 3 || rd GLB_STATE.state s == 4) then startSelfCal s
  else if rd BOOT_STAT.stage s = 3 then beginCal s
  else s

/-- SELF_CAL_COMPLETE (R158, R477): the sums of 9 outputs with the input shorted and at 3/4 of VREF_EXT, and channel 63's raw output; the
scan resumes at entry 0. -/
def execSelfCalComplete (zero full ground : Int) (s : State) : Host.Outcome State Fault Refusal :=
  .next <|
    if !rdb MCV_STAT.cal_busy s || !rdb MCV_REFBUF.settled s then s
    else
      let s := wr MCV_CTL.run 1 (wr MCV_STAT.cal_busy 0 s)
      let offset := calOffset zero
      let gain := (calGain zero full).getD 0
      let ok := selfCalOk offset gain ground
      let s := if ok then selfCalPassed offset gain s else selfCalFailed s
      restartScan (bootCalibrated ok s)

/-- MCV_REFBUF written (R156, R164). DESIGN CHOICE (log entry 155): in PS4, where the buffer is off until the wake, a write is ignored and
logged. -/
def refbufWrite (w : Write) (s : State) : State :=
  guarded MCV_REFBUF w s fun s =>
    if w.half = .upper then s
    else if !mayTouchMcv w.who s || rd PWR_STATE.state s == 4 then logIgnored w.who MCV_REFBUF w.data.toNat s
    else setRefbuf (fget MCV_REFBUF.en (wdata w) != 0) s

/-- REFBUF_ENABLE (R156). -/
def execRefbufEnable (w : Write) (s : State) : Host.Outcome State Fault Refusal := .next (refbufWrite w s)

/-- REFBUF_SETTLED (R156): 5 ms after the enable; a self-calibration that waited starts (R158). -/
def execRefbufSettled (s : State) : Host.Outcome State Fault Refusal :=
  .next (
    if rdb MCV_REFBUF.en s then
      let s := wr MCV_REFBUF.settled 1 s
      bootSettled (if rdb MCV_STAT.cal_busy s then stopScan s else s)
    else s)

/-- MCV_CTL written (R161). -/
def mcvCtlWrite (w : Write) (s : State) : State :=
  guarded MCV_CTL w s fun s =>
    let s := wtake MCV_CTL.fw_fifo w (wtake MCV_CTL.fifo_thr w s)
    if wone MCV_CTL.flush w then setMcv (fun m => { m with fifo := [] }) s else s

/-- FIFO_FLUSH (R161). -/
def execFifoFlush (w : Write) (s : State) : Host.Outcome State Fault Refusal := .next (mcvCtlWrite w s)

/-- A read of MCV_FIFO (R167): a full read or one of the upper half removes the entry. -/
def fifoRead (who : Master) (half : Half) (s : State) : State :=
  viaBar who s fun s =>
    let s' := answer (.word (halfOf half (s.mcv.fifo.headD 0))) s
    if half = .lower then s' else setMcv (fun m => { m with fifo := m.fifo.tail }) s'

/-- FIFO_READ (R167). -/
def execFifoRead (who : Master) (half : Half) (s : State) : Host.Outcome State Fault Refusal := .next (fifoRead who half s)

/-! ## The reference check (R169, R191) -/

/-- A result word is valid and unflagged. -/
def usableResult (w : Word) : Bool := w.getLsbD 63 && !w.getLsbD 30 && !w.getLsbD 31 && !w.getLsbD 53

/-- VREF_EXT in µV estimated from channel 54 (R169); a code that is not positive gives no estimate and stands for one out
of range. DESIGN CHOICE (log entry 156): the estimate is rounded to whole microvolts, nearest with ties to even, before it is compared. -/
def vrefEstimate (code : Int) (s : State) : Nat :=
  if code ≤ 0 then 2 ^ 24 - 1 else min (rneDiv (600000 * s.nv.kBg * 2 ^ 23) (2 ^ 20 * code.toNat)) (2 ^ 24 - 1)

/-- REFERENCE_CHECK (R169, R191): once per firmware scan cycle. The third failing cycle in a row is handled as a supply out
of range (R360). -/
def execReferenceCheck (s : State) : Host.Outcome State Fault Refusal :=
  .next <|
    let a := s.reg (MCV_RESULT 53)
    let b := s.reg (MCV_RESULT 54)
    if !usableResult a || !usableResult b then s
    else
      let v := vrefEstimate (signed 24 b.toNat) s
      let dev := signed 24 a.toNat - 2 ^ 22
      let off := ((v : Int) - 1250000).natAbs
      let warn := decide (2500 < off)
      let fail := decide (6250 < off) || decide (2097 < dev.natAbs)
      let n := if fail then min (rd CAL_REF.fails s + 1) 3 else 0
      let dev16 := max (-32767) (min dev 32767)
      let s := wr CAL_REF.vref_uv v (wrs CAL_REF.buf_dev dev16 (wrb CAL_REF.warn warn (wrb CAL_REF.fail fail
        (wr CAL_REF.fails n s))))
      let s := if warn then wr CAL_STAT.ref_warn 1 s else s
      let s := if warn || fail then
        log 4 2 0x0041 0 (leBytes 4 v ++ leBytes 2 (dev16 % 65536).toNat ++ leBytes 1 fail.toNat) s else s
      if n = 3 then raiseTin 3 (wr CAL_STAT.ref_fail 1 s) else s

end Sys2Proof.Machine
end

