-- ==== Sys2Proof/Machine/Power.lean ====
section
/-! DEFINITION. Power states: idleness, known events, the choice at a scan, due windows, wakes (R242, R484 to R496). -/

namespace Sys2Proof.Machine

/-- Cycles as microseconds, rounded down. -/
def micros (n : Nat) : Nat := n / 600

/-- Some slot of a table that is scanned holds POSTED (R485). -/
def somePosted (s : State) : Bool :=
  [0, 1, 2, 3, 4].any fun k => tableScanned k s && decide (tableBase k s + 256 * tableSlots k s ≤ hdmSize)
    && (List.range (tableSlots k s)).any fun i => slotState (4096 * k + i) s == 1

/-- A Toybox transfer is in progress. -/
def transfers (s : State) : Bool :=
  s.srv.seqs.any fun q => match q.place with | .copying _ _ => true | .fetching _ => true | .copyingMirror => true | _ => false

/-- Programming, a rewrite or a stand-in is in progress. -/
def arraysBusy (s : State) : Bool :=
  (s.blocks.any fun p => p.2.rewriting || p.2.stood || !p.2.want.isEmpty)
    || (s.regions.any fun p => p.2.stood.isSome || !p.2.want.isEmpty)
    || (s.wld.gens.any fun p => !p.2.programming.isEmpty)

/-- The part is idle (R485). -/
def idle (s : State) : Bool :=
  s.srv.requests.isEmpty && !somePosted s && s.wld.load.isNone && s.wld.install.isNone && !transfers s && !arraysBusy s
    && !rdb CHK_RATTLE_STAT.running s && !rdb MCV_STAT.cal_busy s && !rdb MBX_STAT.busy s && (inService s || inTin s)
    && rdb PWR_POLICY.auto s && s.srv.running.isNone && s.srv.done.isEmpty && s.srv.voids.isEmpty

/-- A known event: its instant in cycles, its kind and its id (R486, R494). -/
structure Known where
  time : Nat
  kind : Nat
  id : Nat

/-- The recalibration interval of a band in cycles (R193). -/
def passInterval (band : Nat) (s : State) : Nat := max 10 (min (rd (CAL_SCHED.interval band) s) 3600) * second

/-- 30 days in cycles (R182). -/
def thirtyDays : Nat := 30 * 86400 * second

/-- The start of the next Rattle test (R310, R329). -/
def rattleDue (s : State) : Nat := s.pwr.rattleAt + max 1 (min (rd CHK_RATTLE_CTL.interval s) 1440) * 60 * second

/-- The instant at which the oldest row of a block was last written (R182, R207): over the arrays of the tiers it holds. -/
def oldestRow (b : Block) : Nat :=
  let l := ((List.range 512).filter fun a => b.tiers.isEmpty || b.tiers.any fun t => t.1 == a / 128).map fun a => tget 0 b.written a
  l.foldl min (l.headD 0)

/-- The known events of R486. -/
def knownEvents (s : State) : List Known :=
  (s.pwr.dues.map fun d => ⟨d.2, 1, d.1⟩)
    ++ (s.srv.seqs.filterMap fun q => match q.place with
      | .paused ends => some ⟨ends, 2, q.id⟩
      | _ => none)
    ++ (if rdb PWR_POLICY.maint_wake s && rdb CAL_CTL.sched_en s then
        (s.blocks.filter fun p => p.2.swept && !p.2.retired).map fun p =>
          ⟨p.2.lastPass + passInterval (rd (RGN_STATE.band (p.1 / 1312)) s) s, 3, p.1 / 1312⟩ else [])
    ++ ((s.blocks.filter fun p => p.2.swept && !p.2.retired).map fun p => ⟨oldestRow p.2 + thirtyDays, 4, p.1 / 1312⟩)
    ++ (if rdb PWR_POLICY.maint_wake s && rdb CHK_RATTLE_CTL.en s then
        [⟨rattleDue s, 5, rd CHK_RATTLE_CTL.next s⟩] else [])

/-- The earliest of a list of events. -/
def earliest : List Known → Option Known
  | [] => none
  | k :: t =>
    match earliest t with
    | none => some k
    | some j => if k.time ≤ j.time then some k else some j

/-- Wake time in µs (R484). -/
def wakeTime (st : Nat) : Nat :=
  match st with
  | 0 => 0
  | 1 => 20
  | 2 => 1500
  | 3 => 15000
  | _ => 250000

/-- Break-even in µs (R484). -/
def breakEven (st : Nat) : Nat :=
  match st with
  | 0 => 0
  | 1 => 50
  | 2 => 20000
  | 3 => 200000
  | _ => 5000000

/-- The guard in µs (R493). -/
def guardUs (s : State) : Nat := max 100 (rd PWR_POLICY.guard_us s)

/-- A state fits before an event `t` µs away (R487). -/
def fits (st : Nat) (t : Option Nat) (s : State) : Bool :=
  match t with
  | none => true
  | some t => decide (wakeTime st + breakEven st + guardUs s ≤ t)

/-- The deepest state allowed now (R484, R485, R487). -/
def deepest (s : State) : Nat :=
  let d := min (rd PWR_FLOOR.max_state s) 4
  let d := if inTin s || paired s then min d 2 else d
  let d := if !s.evt.staged.isEmpty then min d 2 else d
  if s.pwr.open_.isEmpty then d else min d 1

/-- The state R487 chooses. -/
def chooseState (t : Option Nat) (s : State) : Nat :=
  match ([4, 3, 2, 1].filter fun st => decide (st ≤ deepest s)).find? fun st => fits st t s with
  | some st => st
  | none => 0

/-- What a state turns off (R156, R374, R484). -/
def gate (st : Nat) (s : State) : State :=
  let s := if 2 ≤ st then { s with regions := s.regions.map fun p => (p.1, { p.2 with tiles := [], flags := [] }) } else s
  let s := if 3 ≤ st then (List.range 12).foldl (fun a k =>
    if rd (MEM_HBM_STAT.state k) a = 2 then wr (MEM_HBM_STAT.sr k) 1 a else a) s else s
  if st = 4 then setRefbuf false s else s

/-- The evaluation of R487: PWR_NEXT_EVENT and the state entered (R494). -/
def evaluatePower (s : State) : State :=
  let e := earliest (knownEvents s)
  let t := e.map fun k => micros (k.time - s.now)
  let s := match e, t with
    | some k, some u => wr PWR_NEXT_EVENT.time_us (min u (2 ^ 40 - 1)) (wr PWR_NEXT_EVENT.kind k.kind
        (wr PWR_NEXT_EVENT.id k.id s))
    | _, _ => wr PWR_NEXT_EVENT.time_us (2 ^ 40 - 1) (wr PWR_NEXT_EVENT.kind 0 (wr PWR_NEXT_EVENT.id 0 s))
  let st := chooseState t s
  let wake := e.map fun k => k.time - (guardUs s + wakeTime st) * 600
  let s := { s with pwr := { s.pwr with scheduled := if st = 0 then none else wake } }
  if st = rd PWR_STATE.state s then s
  else
    let s := wr PWR_STATE.state st (wr PWR_STATE.target st s)
    gate st { s with pwr := { s.pwr with since := s.now } }

/-- The part evaluates its power state at each idle scan once it has been idle at two in a row (R485). -/
def powerAtScan (s : State) : State :=
  if !idle s then { s with pwr := { s.pwr with idleScans := 0 } }
  else
    let n := s.pwr.idleScans + 1
    let s := { s with pwr := { s.pwr with idleScans := n } }
    if 2 ≤ n then evaluatePower s else s

/-- A scan that finds a POSTED slot, or a keep-table slot in TIN, wakes the part from PS1 and PS2 (R488). -/
def wakeForPosted (s : State) : State := if rd PWR_STATE.state s ≤ 2 && somePosted s then wakePart 2 s else s

/-- SCAN (R242, R488): the tables are scanned; while no step runs, what can be admitted is admitted at once (R249); an idle
part chooses its power state (R487). In PS3 and PS4 there is no scan (R413). -/
def execScan (s : State) : Host.Outcome State Fault Refusal :=
  .next <|
    if 3 ≤ rd PWR_STATE.state s then s
    else
      let s := scanAll (wakeForPosted s)
      let s := if s.srv.running.isNone && s.srv.done.isEmpty && s.srv.voids.isEmpty then admitAll s else s
      powerAtScan s

/-- SCHEDULED_WAKE (R487, R489): the wake of the chosen event, due at its instant; begun after it the part reaches PS0 within the guard and
is late. The event is served and the choice made again at the scans. -/
def execScheduledWake (s : State) : Host.Outcome State Fault Refusal :=
  .next <|
    match s.pwr.scheduled with
    | none => s
    | some t => if s.now < t then s else wakePart 1 (if t < s.now then wr PWR_STATE.late 1 s else s)

/-- The PWR_STATE.cause of a wake cause (R492). -/
def causeCode : WakeCause → Nat
  | .postedSlot => 2
  | .memAccess => 3
  | .registerWrite => 4
  | .powerFloor => 5
  | .thermal => 6
  | .linkTraining => 7

/-- From which states a cause wakes the part (R488). -/
def wakesFrom (c : WakeCause) (st : Nat) : Bool :=
  match c with
  | .postedSlot => st == 1 || st == 2
  | .memAccess => decide (3 ≤ st)
  | .linkTraining => decide (3 ≤ st)
  | _ => decide (1 ≤ st)

/-- WAKE_EVENT (R488). -/
def execWakeEvent (cause : WakeCause) (s : State) : Host.Outcome State Fault Refusal :=
  .next (if wakesFrom cause (rd PWR_STATE.state s) then wakePart (causeCode cause) s else s)

/-- A context's due time has come (R486). -/
def dueNow (ctx : Nat) (s : State) : Bool := s.pwr.dues.any fun d => d.1 == ctx && decide (d.2 ≤ s.now)

/-- DUE_TIME (R486, R489): a context's due time opens a due window of hold_ms; a part that is deeper than PS1 then is late, wakes, and
serves the event at once. -/
def execDueTime (ctx : Fin 4096) (s : State) : Host.Outcome State Fault Refusal :=
  .next <|
    if dueNow ctx.val s then
      let s := if 2 ≤ rd PWR_STATE.state s then wakePart 1 (wr PWR_STATE.late 1 s) else s
      wr PWR_STATE.due_open 1 { s with pwr := { s.pwr with
        dues := s.pwr.dues.filter (fun d => d.1 != ctx.val)
        open_ := s.pwr.open_ ++ [(ctx.val, s.now + rd PWR_POLICY.hold_ms s * 600000)] } }
    else s

/-- DUE_WINDOW_CLOSE (R486): the windows that have lasted hold_ms close. -/
def execDueWindowClose (s : State) : Host.Outcome State Fault Refusal :=
  .next (let l := s.pwr.open_.filter fun w => decide (s.now < w.2)
    wrb PWR_STATE.due_open (!l.isEmpty) { s with pwr := { s.pwr with open_ := l } })

end Sys2Proof.Machine
end

