-- ==== Sys2Proof/Machine/Faults.lean ====
section
/-! DEFINITION. Faults and spares: region reset, retirement of columns, blocks and regions, keep regions, bring-up of a
spare region (R14 to R16, R42, R43, R305 to R317, R367). -/

namespace Sys2Proof.Machine

/-- Code 0x0094: the level a fault was absorbed at: 0 cell, 1 block, 2 region, 3 chip (R14). -/
def logAbsorbed (level region block col : Nat) (s : State) : State :=
  log 9 1 0x0094 region (leBytes 1 level ++ leBytes 2 block ++ leBytes 1 col) s

/-- A region is retired or marked unusable (R315, R316). -/
def regionDown (p : Nat) (s : State) : Bool := rd (RGN_STATE.state p) s == 4 || rdb (RGN_STATE.unusable p) s

/-- No keep region is usable (R367). -/
def keepsDown (s : State) : Bool := regionDown 50 s && regionDown 51 s

/-- The keep region that runs the model (R366, R520): the lower usable one that is not being programmed. -/
def keepInUse (s : State) : Nat :=
  if regionDown 50 s || (s.tin.reprogram == [50] && !regionDown 51 s) then 51 else 50

/-! ## Regions -/

/-- Code 0x0092 and CHK_STAT.rgn_retired; `spare` 0x3F for none (R315, R316). -/
def noteRegion (p spare : Nat) (s : State) : State :=
  log 9 4 0x0092 p (leBytes 1 spare) (wr CHK_STAT.rgn_retired 1 s)

/-- A retired region enters the fault record (R331). -/
def recordFail (p : Nat) (last : Bool) (s : State) : State :=
  if last then wr CHK_RETIRED.fail2 p s
  else if rd CHK_RETIRED.fail0 s = 0x3F then wr CHK_RETIRED.fail0 p s
  else if rd CHK_RETIRED.fail1 s = 0x3F then wr CHK_RETIRED.fail1 p s
  else wr CHK_RETIRED.fail2 p s

/-- The lower-numbered spare region still usable (R315). -/
def usableSpare (s : State) : Option Nat :=
  [48, 49].find? fun p => !regionDown p s && rd (serves p) s == 0x3F

/-- A spare region takes logical region `l` and is brought up, or none is left and Tin Soldier mode is entered (R14, R315). -/
def assignSpare (p l : Nat) (s : State) : State :=
  match usableSpare s with
  | some n =>
    let s := setRegion n (fun r => { r with bringUp := some l, qualified := false, qualFails := 0 }) (wr (serves n) l s)
    logAbsorbed 2 p 0 0 (noteRegion p n s)
  | none => raiseTin 1 (logAbsorbed 3 p 0 0 (noteRegion p 0x3F s))

/-- A keep region is marked unusable (R316); the model moves to the other one, or to stand-in from its master copy, or the
part halts (R367). -/
def failKeep (p : Nat) (s : State) : State :=
  let s := wr (RGN_STATE.unusable p) 1 (wrb (if p = 50 then CHK_RETIRED.keep0_bad else CHK_RETIRED.keep1_bad) true s)
  let s := noteRegion p 0x3F s
  let running := s.tin.region == p
  let s := { s with tin := { s.tin with region := keepInUse s } }
  let s := if keepServed s && (running || !s.tin.master) then voidRunning s else s
  if keepsDown s && s.tin.master then wantRegion 50 .retire (wantRegion 51 .retire s) else haltNoKeep s

/-- A spare region is marked unusable; the other one is brought up for the logical region it was meant for (R315). -/
def failSpare (p : Nat) (s : State) : State :=
  let l := (regionAt p s).bringUp
  let s := wr (serves p) 0x3F (wr (RGN_STATE.unusable p) 1 s)
  let s := setRegion p (fun r => { r with bringUp := none, qualified := false }) s
  match l with
  | some l => assignSpare p l s
  | none => noteRegion p 0x3F s

/-- A service region, or a spare that serves for one, is retired (R315): the step in flight is void, its replay stands the
region in. -/
def failService (p : Nat) (s : State) : State :=
  let s := recordFail p (usableSpare s).isNone (wr (RGN_STATE.state p) 4 s)
  let s := wantRegion p .retire (unwantRegion p .engineTest (unwantRegion p .rattle (voidRunning s)))
  assignSpare p (logRegion p s) s

/-- A region is retired or marked unusable, by its role (R15, R315, R316). -/
def retireRegion (p : Nat) (s : State) : State :=
  if regionDown p s then s
  else if 50 ≤ p then failKeep p s
  else if 48 ≤ p ∧ logRegion p s = 0x3F then failSpare p s
  else failService p s

/-! ## Blocks -/

/-- A spare block of a region that is free and usable: the lowest (R14, R42). -/
def freeSpare (region : Nat) (s : State) : Option Nat :=
  let r := regionAt region s
  ((List.range 32).map (1280 + ·)).find? fun b =>
    !(blockAt region b s).retired && !((r.blockMap ++ r.mapNext ++ r.spareFor).any fun p => p.2 == b)

/-- The block number of 0x0091's detail where no spare block takes over: the spec names none. -/
def noSpareCode : Nat := (Config.unlistedCode 306).toNat

/-- A block is retired (R14, R306): fault record, its logical block stood in from the next boundary, a spare block to be programmed for it;
with no spare block left the region is retired. A spare that fails before it serves is replaced in the same way. -/
def retireBlock (region block : Nat) (s : State) : State :=
  if (blockAt region block s).retired then s
  else
    let s := setBlock region block (fun b => { b with retired := true, window := none, overCheck := false, journal := none }) s
    let s := updateSuspect (incHold CHK_RETIRED.blocks 1 (wr CHK_STAT.blk_retired 1 s))
    match roleOf region block s with
    | none => logAbsorbed 1 region block 0 (log 9 4 0x0091 region (leBytes 2 block ++ leBytes 2 noSpareCode) s)
    | some l =>
      let s := setRegion region (fun r => { r with mapNext := r.mapNext.filter fun p => p.2 != block }) s
      let s := wantBlock region (physBlock region l s) .retire s
      match freeSpare region s with
      | none => retireRegion region (log 9 4 0x0091 region (leBytes 2 block ++ leBytes 2 noSpareCode) s)
      | some n =>
        let s := setRegion region (fun r => { r with spareFor := (r.spareFor.filter fun p => p.1 != l) ++ [(l, n)] }) s
        logAbsorbed 1 region block 0 (log 9 4 0x0091 region (leBytes 2 block ++ leBytes 2 n) s)

/-! ## Columns (R42, R43) -/

/-- The remap entry an array has after the changes that wait. -/
def nextMap (b : Block) (array : Nat) : Nat × Nat :=
  match b.remapNext.find? fun p => p.1 == array with
  | some p => p.2
  | none => remapOf b array

/-- The target of spare `k` of a remap entry. -/
def target (m : Nat × Nat) (k : Nat) : Nat := if k = 0 then m.1 else m.2

/-- A remap entry with the target of spare `k` set. -/
def putTarget (m : Nat × Nat) (k j : Nat) : Nat × Nat := if k = 0 then (j, m.2) else (m.1, j)

/-- The entry of an array after column `j` got a spare; absent: the block has to be retired. The flag: the drift monitor is
lost. -/
def giveSpare (b : Block) (array j : Nat) (m : Nat × Nat) : Option ((Nat × Nat) × Bool) :=
  let ok := fun k => !b.badSpares.contains (2 * array + k)
  match [0, 1].find? fun k => target m k == 31 && ok k with
  | some k => some (putTarget m k j, false)
  | none =>
    if j = 29 then some (m, true)
    else match [0, 1].find? fun k => target m k == 29 && ok k with
      | some k => some (putTarget m k j, true)
      | none => none

/-- A remap entry waits for the end of the stand-in it needs (R43). -/
def stageRemap (region block array col : Nat) (e : (Nat × Nat) × Bool) (s : State) : State :=
  let s := setBlock region block (fun b => { b with
    remapNext := (b.remapNext.filter fun p => p.1 != array) ++ [(array, e.1)]
    noMonitor := if e.2 && !b.noMonitor.contains array then b.noMonitor ++ [array] else b.noMonitor }) s
  logAbsorbed 0 region block col (wantBlock region block .spare s)

/-- Column `j` of an array needs a spare (R42). -/
def coverColumn (region block array col j : Nat) (m : Nat × Nat) (s : State) : State :=
  match giveSpare (blockAt region block s) array j m with
  | some e => stageRemap region block array col e s
  | none => retireBlock region block s

/-- A physical column of an array is found bad (R42). -/
def remapColumn (region block array col : Nat) (s : State) : State :=
  let b := blockAt region block s
  let m := nextMap b array
  if b.retired then s
  else if col = 14 ∨ col = 30 then
    let k := if col = 14 then 0 else 1
    let j := target m k
    let s := setBlock region block (fun b => { b with
      badSpares := if b.badSpares.contains (2 * array + k) then b.badSpares else b.badSpares ++ [2 * array + k] }) s
    if j = 31 then s else coverColumn region block array col j (putTarget m k 31) s
  else match columnAt col with
    | none => s
    | some j => if m.1 = j ∨ m.2 = j then s else coverColumn region block array col j m s

/-- The order in which columns of an array are given spares: the reference, data columns ascending, the drift monitor
(R42). -/
def columnRank (col : Nat) : Nat := if col = 15 then 0 else if col = 31 then 40 else col + 1

/-- Failed columns (32 × array + physical column) remapped in that order. -/
def remapColumns (region block : Nat) (l : List Nat) (s : State) : State :=
  (sortBy (fun a b => decide (columnRank (a % 32) ≤ columnRank (b % 32))) l).foldl
    (fun a c => remapColumn region block (c / 32) (c % 32) a) s

/-! ## Region reset (R313, R314) -/

/-- What a reset loses: tiles, recipe counters, flag queue, captured words, and the registers R554 names. Comparisons are other
engines' work and go on (R303). DESIGN CHOICE (log entry 160): the layers in sequenced mode, on whose survival R106 is
silent, survive a region reset. -/
def clearRegion (p : Nat) (s : State) : State :=
  let s := setRegion p (fun r => { r with
    flags := [], tiles := [], counts := [], lastCounts := [], counted := false, capture := [] }) s
  let s := setReg (RGN_SAT_CNT p) 0 (wr (RGN_ZERO_CNT.zero p) 0 (setReg (RGN_TILE_SAT p) 0 s))
  let s := setReg (RGN_RECIPE_FLAG p) 0 (setReg (RGN_CFG_VOTE p) 0 s)
  setReg (RGN_DEBUG_CTL p) (regPor (RGN_DEBUG_CTL p)) s

/-- Reads of a region that were on their way are dropped with its tables; passes are discarded (R179). -/
def dropWork (p : Nat) (s : State) : State :=
  let own := s.blocks.filter fun b => b.1 / 1312 == p
  let n := own.foldl (fun a b => a + ((b.2.queue.filter fun r => !r.ignore).map (·.id) ++ b.2.partials.map (·.id)).dedup.length) 0
  let s := setRunning (fun t => { t with reads := t.reads - n }) s
  mapBlocks (fun r _ b => if r = p then { b with queue := [], partials := [], pass := none, passes := [] } else b) s

/-- A region is reset (R313): `cause` 0 SRAM, 1 vote, 2 debug. The third reset within 600 s retires it (R314). -/
def resetRegion (p cause : Nat) (s : State) : State :=
  let l := recent (600 * second) (regionAt p s).resets s ++ [s.now]
  let s := log 9 4 0x0093 p (leBytes 1 cause) (wr CHK_STAT.rgn_reset 1 s)
  let s := incHold CHK_RETIRED.resets 1 (incHold (RGN_STATE.resets p) 1 s)
  let s := dropWork p (clearRegion p (setRegion p (fun r => { r with resets := l }) (voidRunning s)))
  if 3 ≤ l.length then retireRegion p s else wantRegion p .reset s

/-- The logical region of a spare that is being brought up passes to it (R315): called at a boundary once it qualified. -/
def takeOver (p : Nat) (s : State) : State :=
  match (regionAt p s).bringUp with
  | some l =>
    if (regionAt p s).qualified then
      let old := physRegion l s
      let s := if 48 ≤ old ∧ old ≠ p then wr (serves old) 0x3F s else s
      let s := setRegion p (fun r => { r with bringUp := none, qualified := false }) s
      unwantRegion old .retire s
    else s
  | none => s

end Sys2Proof.Machine
end

