-- ==== Sys2Proof/Machine/StandIn.lean ====
section
/-! DEFINITION. Stand-in and the calibration state that changes at a step boundary: which blocks and regions are stood in,
factors, bands, residual figures (R16, R20 to R25, R42, R43, R91 to R95, R172 to R179, R183, R306, R315). -/

namespace Sys2Proof.Machine

/-! ## The residual bound (R91 to R95) -/

/-- B_fresh of a band (R93), in unit products. -/
def bFresh (band : Nat) : Rat :=
  match band with
  | 0 => 36 / 100
  | 3 => 38 / 100
  | 4 => 45 / 100
  | _ => 30 / 100

/-- The highest rewrite count of a block's rows. -/
def topRewrites (b : Block) : Nat := b.rewrites.foldl (fun a p => max a p.2) 0

/-- The age fraction of a block (R93); the weighting of the hours is a free value. -/
def ageOf (region block : Nat) (s : State) : Rat :=
  max (Config.weightedHours (blockKey region block) s.now / 87600) ((topRewrites (blockAt region block s) : Rat) / 1000000)

/-- The residual bound B of a block in unit products (R93). -/
def boundOf (region block : Nat) (s : State) : Rat :=
  let f := bFresh (rd (RGN_STATE.band region) s)
  f + (6 / 10 - f) * min (ageOf region block s) 1

/-- A measured figure in 2⁻⁸ unit product exceeds the bound (R94). -/
def overBound (region block r : Nat) (s : State) : Bool := decide (256 * boundOf region block s < (r : Rat))

/-- r_eff in 1/1,280 unit product (R92, R186): 0.60 without a figure, at least 0.60 in warm-up. -/
def effOf (b : Block) : Nat :=
  match b.r with
  | none => 768
  | some r => if b.warm then max (5 * r) 768 else 5 * r

/-- The 64-bit entry of the residual table (R95, R579): 2⁻⁸ figures, the band of the measurement. -/
def residualEntry (region block : Nat) (s : State) : Nat :=
  let b := blockAt region block s
  let age := min 127 (64 * ageOf region block s).floor.toNat
  b.r.getD 0 % 2 ^ 16 + 2 ^ 16 * (b.rEff / 5 % 2 ^ 16) + 2 ^ 32 * b.rBand + 2 ^ 35 * b.warm.toNat
    + 2 ^ 36 * (b.r.isSome && knownBlock region block s).toNat + 2 ^ 37 * (b.stood || (regionAt region s).stood.isSome).toNat + 2 ^ 40 * age
    + 2 ^ 48 * ((256 * boundOf region block s).floor.toNat % 2 ^ 16)

/-- RGN_RESID_BASE.addr (R96): 0 before firmware has placed the tables; then the tables follow one another in the part-owned scratch
from a free address on. -/
def residBase (region : Nat) (s : State) : Nat :=
  if s.boot.placed then 8 * (1 + Config.residualStart % 12514000 + 1312 * region) else 0

/-- The entry of a block written where firmware has placed the table (R95, R96). -/
def putResidual (region block : Nat) (s : State) : State :=
  let a := residBase region s
  if a = 0 then s else putScr (a + 8 * block) 8 (residualEntry region block s) s

/-! ## Factors, bands and figures at a boundary -/

/-- A region enters the band whose staged factors are valid (R174, R179): old-band passes start again in the new band. -/
def changeBand (region : Nat) (s : State) : State :=
  let r := regionAt region s
  match r.bandDue with
  | none => s
  | some d =>
    if r.bandReady != some d then s
    else
      let s := wr (RGN_STATE.band region) d s
      let s := setRegion region (fun r => { r with bandDue := none, bandWanted := none, bandReady := none }) s
      mapBlocks (fun p _ b =>
        if p = region then
          { b with fits := b.bandFits, bandFits := [], newFits := []
                   pass := b.pass.map fun q => (q.1, 0, d), passSums := [] } else b) s

/-- Blocks whose factors a boundary changes (R178). -/
def changedBlocks (s : State) : Nat :=
  (s.blocks.filter fun p => !p.2.newFits.isEmpty || (!p.2.bandFits.isEmpty &&
    (let r := regionAt (p.1 / 1312) s; r.bandDue.isSome && r.bandReady == r.bandDue))).length

/-- Staged factors of every block take effect and CAL_COMMIT records it (R178). -/
def commitFactors (s : State) : State :=
  let n := changedBlocks s
  let s := (List.range 52).foldl (fun a r => changeBand r (if (regionAt r a).bandStart then enterBand r a else a)) s
  let s := mapBlocks (fun _ _ b => if b.newFits.isEmpty then b else { b with fits := b.newFits, newFits := [] }) s
  if n = 0 then s else wr CAL_COMMIT.step (boundaryStep s) (wr CAL_COMMIT.blocks n s)

/-- A block's new figure takes effect and its warm-up ends where it is over, with r_eff (R91, R92, R187). -/
def latchFigure (b : Block) : Block :=
  let b := match b.rNext with
    | some x => { b with r := some x.1, rBand := x.2, rNext := none }
    | none => b
  let b := { b with warm := b.warm && !b.warmEnds, warmEnds := false }
  { b with rEff := effOf b }

/-- New figures take effect (R91, R92). -/
def commitFigures (s : State) : State := mapBlocks (fun _ _ b => latchFigure b) s

/-- Each engine reads its region's temperature (R80). -/
def latchTemps (s : State) : State :=
  (List.range 52).foldl (fun a r => setRegion r (fun x => { x with temp := rds (THM_SENSOR.eff r) a }) a) s

/-! ## Stand-in (R22 to R24) -/

/-- The rank of a demand in R24's order. -/
def coverRank : Cover → Nat
  | .deep => 1
  | .program => 2
  | .rewrite => 3
  | .rattle => 4
  | _ => 0

/-- The best rank among demands. -/
def bestRank (l : List Cover) : Nat := l.foldl (fun a c => min a (coverRank c)) 5

/-- The blocks of a region that may be stood in now: fault cover, which never waits, then those already stood in, then by rank
(R20, R24, R94). -/
def standOrder (region : Nat) (s : State) : List Nat :=
  let own := s.blocks.filter fun p => p.1 / 1312 == region && !p.2.want.isEmpty
    && !awaitsChunk region (p.1 % 1312) s
  let rank := fun p : Nat × Block => if bestRank p.2.want = 0 then 0 else if p.2.stood then 1 else 1 + bestRank p.2.want
  (sortBy (fun a b => decide (rank a ≤ rank b)) own).map fun p => p.1 % 1312

/-- A rewrite that has to give its place up stops at the row being written, which is not to be used until the block is written again
(R24, R184). -/
def dropRewrite (b : Block) : Block := if b.rewriting then { giveUpRows b with rewriting := false } else b

/-- A block's stand-in ends (R22, R43, R305): the remap entries that waited take effect, their spares programmed; a suspect
window opens. -/
def endStandIn (region block : Nat) (s : State) : State :=
  let b := blockAt region block s
  let s := b.remapNext.foldl (fun a e =>
    (List.range 32).foldl (fun a i =>
      let k := rowKey region block e.1 i
      setRow k (spareLevels e.2 (rowAt k a)) a) a) s
  setBlock region block (fun b => { dropRewrite b with
    stood := false, remap := b.remapNext.foldl (fun m e => tset (31, 31) m e.1 e.2) b.remap, remapNext := []
    window := b.window.map fun w => { w with open_ := true } }) s

/-- The drift threshold of a band in 1/256 level step (R193). -/
def driftThr (band : Nat) (s : State) : Nat := max 0x10 (min (rd (CAL_SCHED.drift_thr band) s) 0x40)

/-- Arrays whose last drift reading lies within 10 % of the threshold or beyond it (R183). -/
def nearDue (thr : Nat) (b : Block) : List Nat :=
  (b.drift.filter fun p => p.2.delta.any fun e =>
    decide ((9 * thr : Nat) ≤ 2560 * e.2) || decide ((9 * thr : Nat) ≤ -(2560 * e.2))).map Prod.fst

/-- Blocks programming now (R205, R229). -/
def programmingNow (s : State) : Nat := (s.blocks.filter fun p => p.2.journal.isSome).length

/-- The concurrency limit (R205, R229), lowered with the throttle level (R481). -/
def programLimit (s : State) : Nat := max 1 (max 1 (min (rd WLD_PROG.max_blocks s) 16384) / 2 ^ rd THM_STAT.level s)

/-- Blocks the load in progress has still to program, and spare blocks to be programmed (R205): they go before rewrites. -/
def programWaiting (s : State) : Nat :=
  let spares := s.regions.foldl (fun a p => a + (p.2.spareFor.filter fun q => (blockAt p.1 q.2 s).journal.isNone).length) 0
  match s.wld.load with
  | some l =>
    let g := genAt l.slot s
    if l.phase = 4 then
      match g.manifest with
      | some m => spares + ((mainBlocks m).filter fun k => !g.blocksDone.contains k && !g.programming.contains k).length
      | none => spares
    else spares
  | none => spares

/-- The row after row `k` of a list of arrays in ascending order (R204); 16,384 after the last. -/
def rowAfter (arrays : List Nat) (k : Nat) : Nat :=
  if k % 32 < 31 then k + 1
  else match (arrays.filter fun a => decide (k / 32 < a)) with
    | [] => 16384
    | a :: t => 32 * t.foldl min a

/-- The first row of a list of arrays. -/
def firstRowOf (arrays : List Nat) : Nat :=
  match arrays with
  | [] => 16384
  | a :: t => 32 * t.foldl min a

/-- Arrays whose rows a rewrite can be given (R183, R579): with a generation's levels, or the test pattern. -/
def writable (region block : Nat) (s : State) : List Nat :=
  (List.range 512).filter fun a =>
    (tierRow (blockAt region block s).tiers (placeOf region block s).1 (placeOf region block s).2 a 0 s).isSome

/-- A rewrite can start: under the limit, once loads and spares have their blocks (R183, R205). -/
def rewriteRoom (s : State) : Bool := decide (programmingNow s + programWaiting s < programLimit s)

/-- A block is stood in from this boundary; a rewrite it was wanted for begins where there is room (R183): of the arrays due and those
near it, of every array for a figure over its bound. -/
def startStandIn (region block : Nat) (s : State) : State :=
  let thr := driftThr (rd (RGN_STATE.band region) s) s
  let room := rewriteRoom s
  let all := writable region block s
  setBlock region block (fun b =>
    let go := room && !b.rewriting && b.journal.isNone && (b.want.contains .rewrite || b.want.contains .overBound)
    let due := if !go then b.due else if b.want.contains .overBound then all
      else ((b.due ++ nearDue thr b).dedup).filter all.contains
    { b with stood := true, rewriting := b.rewriting || go, due
             journal := if go then some ⟨2, firstRowOf due, 0⟩ else b.journal }) s

/-- A column programmed onto its spare within the stand-in that ends here (R43). -/
def spareDone (b : Block) : Block := if b.stood then { b with want := b.want.filter (· != .spare) } else b

/-- Stand-in of a region's blocks latched: at most 32 (R24); none on a keep region before its master copy is complete (R358). -/
def latchBlocks (region : Nat) (s : State) : State :=
  let s := mapBlocks (fun r _ b => if r = region then spareDone b else b) s
  let now := if (inTin s && decide (region < 48)) || (decide (50 ≤ region) && !s.tin.master) then [] else (standOrder region s).take 32
  let old := ((s.blocks.filter fun p => p.1 / 1312 == region && p.2.stood).map fun p => p.1 % 1312)
  let s := (old.filter fun b => !now.contains b).foldl (fun a b => endStandIn region b a) s
  now.foldl (fun a b => startStandIn region b a) s

/-- The fault cover a region needs (R24). -/
def faultCover (r : Region) : Option Cover := r.want.find? fun c => coverRank c == 0

/-- Regions under fault cover now. -/
def coverCount (s : State) : Nat := (s.regions.filter fun p => (faultCover p.2).isSome).length

/-- The hottest of the regions that want a deep pass (R180). -/
def hottestDeep (s : State) : Option Nat :=
  (s.regions.filter fun p => p.2.want.contains .deep).foldl (fun a p =>
    match a with
    | none => some p.1
    | some q => if (regionAt q s).temp < p.2.temp then some p.1 else a) none

/-- The region stood in for a planned cause, and the cause. -/
def plannedNow (s : State) : Option (Nat × Cover) :=
  s.regions.findSome? fun p => match p.2.stood with
    | some .deep => some (p.1, .deep)
    | some .rattle => some (p.1, .rattle)
    | _ => none

/-- The planned whole-region stand-in from this boundary on (R24). -/
def plannedNext (s : State) : Option (Nat × Cover) :=
  if 2 < coverCount s then none
  else
    let go := match plannedNow s with
      | some (r, c) => if (regionAt r s).want.contains c then some (r, c) else none
      | none => none
    match go with
    | some x => some x
    | none =>
      match hottestDeep s with
      | some r => some (r, .deep)
      | none =>
        if coverCount s = 0 then
          (s.regions.find? fun p => p.2.want.contains .rattle).map fun p => (p.1, .rattle)
        else none

/-- A planned stand-in ended before its time (R24): a Rattle test is abandoned and falls due again, a deep pass goes on in
calibration slots. -/
def abandonPlanned (x : Nat × Cover) (s : State) : State :=
  if !(regionAt x.1 s).want.contains x.2 then s
  else if x.2 = .rattle then
    wr CHK_RATTLE_STAT.running 0 (wr CHK_RATTLE_STAT.deferred 1 (wr CHK_RATTLE_CTL.next x.1 (unwantRegion x.1 .rattle s)))
  else unwantRegion x.1 .deep s

/-- The cover of a region from this boundary on. -/
def regionCover (p : Nat) (r : Region) (planned : Option (Nat × Cover)) (s : State) : Option Cover :=
  if (inTin s && decide (p < 48)) || (decide (50 ≤ p) && !s.tin.master) then none
  else match faultCover r with
    | some c => some c
    | none => match planned with
      | some (q, c) => if q = p then some c else none
      | none => none

/-- A placement record is rebuilt within the stand-in that ends here (R318). -/
def placeDone (s : State) : State :=
  { s with regions := s.regions.map fun p =>
    (p.1, if p.2.stood = some .place then { p.2 with want := p.2.want.filter (· != .place) } else p.2) }

/-- Whole-region stand-in latched (R23, R24). -/
def latchRegions (s : State) : State :=
  let s := placeDone s
  let was := plannedNow s
  let next := plannedNext s
  let s := match was with
    | some x => if next = some x || faultCover (regionAt x.1 s) != none then s else abandonPlanned x s
    | none => s
  { s with regions := s.regions.map fun p => (p.1, { p.2 with stood := regionCover p.1 p.2 next s }) }

/-- Logical blocks and regions pass to the spares that are ready (R16, R306, R315). -/
def latchSpares (s : State) : State :=
  let s := s.regions.foldl (fun a p =>
    let a := p.2.mapNext.foldl (fun a e => unwantBlock p.1 (physBlock p.1 e.1 a) .retire a) a
    setRegion p.1 (fun r => { r with
      blockMap := r.mapNext.foldl (fun m e => (m.filter fun x => x.1 != e.1) ++ [e]) r.blockMap, mapNext := [] }) a) s
  takeOver 49 (takeOver 48 s)

/-- Every stand-in that starts or ends at a boundary. -/
def latchStandIn (s : State) : State :=
  let s := latchRegions (latchSpares s)
  ((s.blocks.map fun p => p.1 / 1312).dedup).foldl (fun a r => latchBlocks r a) s

/-- Affected regions whose passes have committed leave immediate recalibration (R180). -/
def settleAffected (s : State) : State :=
  let now := fun k : PassKind => k == .immediate || k == .aheadNow
  let busy := fun r : Nat => s.blocks.any fun p => p.1 / 1312 == r && knownBlock r (p.1 % 1312) s &&
    (p.2.passes.any now || (match p.2.pass with | some q => now q.1 | none => false) || !p.2.newFits.isEmpty)
  let s := { s with regions := s.regions.map fun p =>
    (p.1, { p.2 with affected := p.2.affected && !(p.2.deepDone && !busy p.1) }) }
  if s.regions.any fun p => p.2.affected then s else wr CAL_STAT.immediate 0 s

/-- The entry without its age fraction and bound, which change with time. -/
def entryCore (e : Nat) : Nat := e % 2 ^ 40

/-- A block's entry in scratch is no longer what it is to be (R95). -/
def entryDue (region block : Nat) (s : State) : Bool :=
  entryCore (scrNat (residBase region s + 8 * block) 8 s) != entryCore (residualEntry region block s)

/-- The entries of blocks that have changed, and of those whose figure took effect at this boundary (`fresh`), written (R95). -/
def putResiduals (fresh : List Nat) (s : State) : State :=
  if !s.boot.placed then s
  else (List.range 52).foldl (fun a r => (List.range 1312).foldl (fun a b =>
    if fresh.contains (blockKey r b) || entryDue r b a then putResidual r b a else a) a) s

/-- Blocks whose figure takes effect at the next boundary. -/
def freshFigures (s : State) : List Nat := (s.blocks.filter fun p => p.2.rNext.isSome).map Prod.fst

/-- What a step boundary does for calibration and stand-in (R9, R80, R174, R178, R22, R95). -/
def latchArrays (s : State) : State :=
  putResiduals (freshFigures s) (settleAffected (latchStandIn (commitFigures (latchTemps (commitFactors s)))))

/-- A change that is due takes effect at once while no step runs (R249). -/
def settle (s : State) : State := if quietNow s then latchArrays s else s

end Sys2Proof.Machine
end

