-- ==== Sys2Proof/Machine/Calibration.lean ====
section
/-! DEFINITION. Calibration slots, passes, drift, rewrites, the power-up sweep, warm-up and Abacus vector sets
(08_calibration.md R172 to R195, R579; 12_integrity.md R299 to R301). What a reading gives is the ideal code of the cells with the
converter's free error (R36). -/

namespace Sys2Proof.Machine

/-! ## Residual over bound, failing fits (R94, R176) -/

/-- A block is to be rewritten under stand-in at fault-cover priority; one that fails after that rewrite is retired. -/
def failBlock (region block : Nat) (s : State) : State :=
  let b := blockAt region block s
  if b.rewriting && b.overCheck then retireBlock region block s
  else settle (wantBlock region block .overBound (setBlock region block (fun b => { b with overCheck := true }) s))

/-! ## Readings of a phase (R36, R81, R175, R181, R299) -/

/-- The rows of an array as the part knows them, spares included (R43, R175, R579); level 0 where it does not. -/
def knownRows (region block array : Nat) (s : State) : List Word :=
  let b := blockAt region block s
  let l := placeOf region block s
  (List.range 32).map fun i =>
    spareLevels (remapOf b array) ((tierRow b.tiers l.1 l.2 array i s).getD 0)

/-- Σ digit × level over the rows of a column. -/
def digitLevels (digits : List Nat) (rows : List Word) (col : Nat) : Nat :=
  (List.zip digits rows).foldl (fun a q => a + q.1 * level q.2 col) 0

/-- The code of a column for a phase's digits (R36); `n` numbers the conversion. -/
def slotCode (digits : List Nat) (rows : List Word) (n col : Nat) : Nat := convCode (64 + 2 * digitLevels digits rows col) n

/-- A code corrected with its column's factors, in half unit products from the floor (R81). -/
def correctedCode (g : Gains) (col code : Nat) : Rat :=
  let f := fitOf g.block col
  ((code : Rat) - 64 - (f.offset : Rat) / 256) / effGain f g.temp g.band

/-- The corrected reading of a column, (C − R)/2 in unit products (R81, R91); of the reference column its own code. -/
def phaseReading (g : Gains) (col ref code refCode digits : Nat) : Rat :=
  if col = ref then (correctedCode g ref refCode - 4 * digits) / 2
  else
    let fc := fitOf g.block col
    let fr := fitOf g.block ref
    (((code : Rat) - refCode - (fc.offset - fr.offset : Int) / 256 + 4 * effGain fr g.temp g.band * digits)
      / effGain fc g.temp g.band - 4 * digits) / 2

/-! ## Drift (R181 to R183) -/

/-- The digits of a drift read: 3 in the rows of one level of the monitor (R181). -/
def driftDigits (lvl : Nat) : List Nat := (List.range 32).map fun i => if i % 4 = lvl then 3 else 0

/-- The corrected difference of a drift read of one level of an array (R181): the monitor against the reference, each on the column that
holds it. -/
def driftReading (region block array lvl : Nat) (s : State) : Rat :=
  let g := gainsOf region block array s
  let rows := arrayRows region block array s
  let mon := physCol g.map 29
  let ref := physCol g.map 28
  let code := fun c => slotCode (driftDigits lvl) rows (s.draws + c) c
  correctedCode g mon (code mon) - correctedCode g ref (code ref)

/-- delta(ℓ) in level steps from the sum of corrected differences (R181). -/
def driftDelta (lvl : Nat) (sum : Rat) (n : Nat) : Rat := sum / (48 * (n : Rat)) - ((lvl : Rat) - 2)

/-- A reading joins its level's sum. -/
def addReading (lvl : Nat) (x : Rat) (d : Drift) : Drift :=
  let old := tget (0, 0) d.sums lvl
  { d with sums := tset (0, 0) d.sums lvl (old.1 + x, old.2 + 1) }

/-- The deviations of the levels read. -/
def driftLevels (d : Drift) : List (Nat × Rat) := d.sums.map fun p => (p.1, driftDelta p.1 p.2.1 p.2.2)

/-- A deviation lies beyond a threshold in 1/256 level step (R182, R193). -/
def beyond (thr : Nat) (e : Rat) : Bool := decide ((thr : Rat) < 256 * e) || decide (256 * e < -(thr : Rat))

/-- An array falls due for rewrite (R182): its block is wanted for stand-in. -/
def fallDue (region block array : Nat) (s : State) : State :=
  let s := setBlock region block (fun b => if b.due.contains array then b else { b with due := b.due ++ [array] }) s
  settle (wantBlock region block .rewrite s)

/-- A complete read of an array: due when two in a row cross (R182), or at once where `single` is set (R185). -/
def endDriftRead (region block array : Nat) (single : Bool) (s : State) : State :=
  let d := tget Drift.init (blockAt region block s).drift array
  let far := (driftLevels d).any fun e => beyond (driftThr (rd (RGN_STATE.band region) s) s) e.2
  let s := setBlock region block (fun b => { b with
    drift := tset Drift.init b.drift array ⟨[], driftLevels d, far⟩ }) s
  if far && (d.crossed || single) then fallDue region block array s else s

/-- One drift read of a level of an array joins its sums (R181). -/
def readDrift (region block array lvl : Nat) (s : State) : State :=
  let x := driftReading region block array lvl s
  setBlock region block (fun b => { b with
    drift := tset Drift.init b.drift array (addReading lvl x (tget Drift.init b.drift array)) }) { s with draws := s.draws + 32 }

/-- The arrays that have drift reads: with a usable monitor (R181). -/
def driftArray (b : Block) (n : Nat) : Option Nat :=
  ((List.range 512).map fun i => (n / 64 + i) % 512).find? fun a => !b.noMonitor.contains a

/-- One drift read (R45, R181): 16 reads of each level of an array, then the next array. -/
def driftSlot (region block : Nat) (s : State) : State :=
  let b := blockAt region block s
  match driftArray b b.driftNext with
  | none => s
  | some a =>
    let k := if a = b.driftNext / 64 then b.driftNext % 64 else 0
    let s := setBlock region block (fun b => { b with driftNext := (64 * a + k + 1) % 32768 })
      (readDrift region block a (k / 16) s)
    if k = 63 then endDriftRead region block a false s else s

/-- A complete drift read of every array that has a monitor, `n` reads of each level (R180, R185). -/
def driftAll (region block n : Nat) (single : Bool) (s : State) : State :=
  ((List.range 512).filter fun a => !(blockAt region block s).noMonitor.contains a).foldl (fun a arr =>
    endDriftRead region block arr single
      ((List.range (4 * n)).foldl (fun a k => readDrift region block arr (k / n) a) a)) s

/-! ## Passes (R175 to R180) -/

/-- The next pass of the slot queue (R177, R180). -/
def nextPass (b : Block) : Option PassKind :=
  [PassKind.immediate, .aheadNow, .scheduled, .lookAhead].find? fun k => b.passes.contains k

/-- A pass measures the staged band (R173, R180). -/
def aheadPass (k : PassKind) : Bool := k == .lookAhead || k == .aheadNow

/-- The band a pass measures: the staged one for look-ahead (R173). -/
def passBand (region : Nat) (k : PassKind) (s : State) : Nat :=
  let band := rd (RGN_STATE.band region) s
  if aheadPass k then (regionAt region s).bandWanted.getD band else band

/-- A queued pass of a kind starts. -/
def startPass (region block : Nat) (k : PassKind) (s : State) : State :=
  let band := passBand region k s
  setBlock region block (fun b => { b with passes := b.passes.filter (· != k), pass := some (k, 0, band), passSums := [] }) s

/-- A keep region before its master copy is complete: its passes take uniform patterns and the weight-sum tables (R579). -/
def uniformOnly (region : Nat) (s : State) : Bool := decide (50 ≤ region) && !s.tin.master

/-- The arrays a pass or a set may take (R579): known ones whose levels are at hand. -/
def readableArrays (region block : Nat) (s : State) : List Nat :=
  let b := blockAt region block s
  (List.range 512).filter fun a => knownArray region block a s &&
    (tierRow b.tiers (placeOf region block s).1 (placeOf region block s).2 a 0 s).isSome

/-- The digits of pattern `k` of a pass (R175). -/
def passDigits (k : Nat) : List Nat :=
  (List.range 32).map fun i =>
    match k with
    | 0 => 1
    | 1 => 3
    | 2 => if i % 2 = 0 then 3 else 0
    | _ => if i % 2 = 1 then 3 else 0

/-- The logical column a physical one holds under a remap entry. -/
def logicalAt (m : Nat × Nat) (col : Nat) : Option Nat :=
  if col = 14 then (if m.1 < 30 then some m.1 else none)
  else if col = 30 then (if m.2 < 30 then some m.2 else none)
  else columnAt col

/-- Σ level of a column from the periphery's table (R32): the weight sum above 64, the reference's 64, the monitor's 48. -/
def tableLevels (region block array col : Nat) (s : State) : Nat :=
  match logicalAt (remapOf (blockAt region block s) array) col with
  | none => 0
  | some j => if j < 28 then (64 + (tableSums region block array s).getD j 0).toNat else if j = 28 then 64 else 48

/-- The expected code of a column from 64 (R175): from the master copy or the test pattern, or from the weight-sum tables. -/
def expectedCode (region block array pattern col : Nat) (s : State) : Nat :=
  if uniformOnly region s then 2 * (if pattern = 0 then 1 else 3) * tableLevels region block array col s
  else 2 * digitLevels (passDigits pattern) (knownRows region block array s) col

/-- One reading joins a column's sums. -/
def addFit (f : FitSums) (x y : Int) : FitSums := ⟨f.n + 1, f.x + x, f.y + y, f.xx + x * x, f.xy + x * y⟩

/-- One slot of the running pass (R175): the next pattern on the next array of the round robin, all 32 columns converted. -/
def passSlot (region block : Nat) (s : State) : State :=
  let b := blockAt region block s
  match b.pass with
  | none => s
  | some q =>
    let l := readableArrays region block s
    if 1024 ≤ q.2.1 ∨ l.isEmpty then s
    else
      let array := l.getD ((b.passNext + q.2.1 / 4) % l.length) 0
      let pattern := if uniformOnly region s then q.2.1 % 2 else q.2.1 % 4
      let rows := arrayRows region block array s
      let sums := (List.range 32).map fun c =>
        addFit (b.passSums.getD c FitSums.init) (expectedCode region block array pattern c s)
          ((slotCode (passDigits pattern) rows (s.draws + c) c : Int) - 64)
      setBlock region block (fun b => { b with pass := some (q.1, q.2.1 + 1, q.2.2), passSums := sums })
        { s with draws := s.draws + 32 }

/-- A region is gated in Tin Soldier mode (R362): a main region or spare in which nothing is being programmed. -/
def gatedInTin (region : Nat) (s : State) : Bool :=
  inTin s && decide (region < 50) && !(s.blocks.any fun p => p.1 / 1312 == region && p.2.journal.isSome)

/-- A calibration slot of a block as R177 serves it: the running pass, else the next queued one, else a drift read; passes only where
some array is known (R579). -/
def calSlot (region block : Nat) (s : State) : State :=
  let b := blockAt region block s
  if b.rewriting || b.retired || gatedInTin region s then s
  else if !knownBlock region block s then driftSlot region block s
  else match b.pass with
    | some q => if q.2.1 < 1024 then passSlot region block s else driftSlot region block s
    | none =>
      match nextPass b with
      | some k => passSlot region block (startPass region block k s)
      | none => driftSlot region block s

/-- CALIBRATION_SLOT (R45, R177, R181). -/
def execCalibrationSlot (region : Fin 52) (block : Fin 1312) (s : State) : Host.Outcome State Fault Refusal :=
  .next (calSlot region.val block.val s)

/-- The scheduled pass of a block is due (R177): by its band's interval since its last pass, and no other block of the region was started
in this millisecond. -/
def passDue (region block : Nat) (s : State) : Bool :=
  let b := blockAt region block s
  rdb CAL_CTL.sched_en s && !b.passes.contains .scheduled
    && decide (b.lastPass + passInterval (rd (RGN_STATE.band region) s) s ≤ s.now)
    && (regionAt region s).passStart != some (s.now / 600000)

/-- Firmware starts the scheduled pass of a block. -/
def schedulePass (region block : Nat) (s : State) : State :=
  setRegion region (fun r => { r with passStart := some (s.now / 600000) }) (setBlock region block (queuePass .scheduled) s)

/-- RECAL_PASS_START (R177): the scheduled pass that falls due now is queued, and the next queued pass starts; behind a running pass it
waits; during a rewrite it is left to the pass that ends it (R179). -/
def execRecalPassStart (region : Fin 52) (block : Fin 1312) (s : State) : Host.Outcome State Fault Refusal :=
  .next <|
    let b := blockAt region.val block.val s
    if b.rewriting || !knownBlock region.val block.val s then s
    else
      let s := if passDue region.val block.val s then schedulePass region.val block.val s else s
      if b.pass.isSome then s
      else match nextPass (blockAt region.val block.val s) with
        | some k => startPass region.val block.val k s
        | none => s

/-- A fitted factor lies in the range of R79. -/
def fitOk (f : Fit) : Bool :=
  decide (2 ^ 21 ≤ f.gain) && decide (f.gain ≤ 2 ^ 23) && decide (f.offset.natAbs ≤ 16384) && decide (f.kappa.natAbs ≤ 32715)

/-- The gain and offset of a column by least squares over the pass (R175). DESIGN CHOICE (log entry 34): a column whose expected codes
do not differ, as those of an unprogrammed spare, keeps gain 1. -/
def lineFit (f : FitSums) : Rat × Rat :=
  let d := (f.n : Int) * f.xx - f.x * f.x
  let g : Rat := if d = 0 then 1 else ((f.n : Int) * f.xy - f.x * f.y : Int) / (d : Rat)
  (g, if f.n = 0 then 0 else ((f.y : Rat) - g * f.x) / f.n)

/-- The factors of a column from its line (R79, R80, R175): the coefficient from the gain change since the band's last pass when the
temperatures lie 3 °C or more apart, else the one it had; the gain referred to the band's centre. Temperatures in 2⁻⁶ °C. -/
def columnFit (line : Rat × Rat) (old : Fit) (prev : Option (Int × Rat)) (temp : Int) (band : Nat) : Fit :=
  let off := ((temp - bandCentre band : Int) : Rat)
  let keep : Rat × Int := (line.1 / (1 + (old.kappa : Rat) / 2 ^ 24 * off / 64), old.kappa)
  let r := match prev with
    | some p =>
      if 192 ≤ (temp - p.1).natAbs then
        let m := (line.1 - p.2) / ((temp - p.1 : Int) : Rat)
        let g := line.1 - m * off
        (g, rneRat (m * 64 * 2 ^ 24 / g))
      else keep
    | none => keep
  ⟨(rneRat (r.1 * 2 ^ 22)).toNat, rneRat (256 * line.2), r.2⟩

/-- The factors of a block from a pass (R175). -/
def fitBlock (b : Block) (q : PassKind × Nat × Nat) (temp : Int) : List Fit :=
  let prev := b.bandPasses.find? fun p => p.band == q.2.2
  let old := if aheadPass q.1 then b.bandFits else b.fits
  (List.range 32).map fun c =>
    columnFit (lineFit (b.passSums.getD c FitSums.init)) (old.getD c Fit.identity)
      (prev.map fun p => (p.temp, p.gains.getD c 1)) temp q.2.2

/-- Look-ahead is complete when no block of the region that can measure still does (R174, R579). -/
def lookAheadDone (region : Nat) (s : State) : Bool :=
  !s.blocks.any fun p => p.1 / 1312 == region && knownBlock region (p.1 % 1312) s && (p.2.passes.any aheadPass
    || (match p.2.pass with | some q => aheadPass q.1 | none => false))

/-- The staged band's factors are valid once the last block has them (R174). -/
def endLookAhead (region : Nat) (k : PassKind) (s : State) : State :=
  if aheadPass k && lookAheadDone region s then setRegion region (fun r => { r with bandReady := r.bandWanted }) s else s

/-- Factors staged: for the next boundary, or for the staged band (R173, R178). -/
def stageFits (region block : Nat) (k : PassKind) (fits : List Fit) (s : State) : State :=
  setBlock region block (fun b => if aheadPass k then { b with bandFits := fits } else { b with newFits := fits }) s

/-- The running pass ends and its factors are fitted (R175, R176, R178): one out of range is never staged, and the block is handled as one
failing its vector set. -/
def endPass (region block : Nat) (s : State) : State :=
  let b := blockAt region block s
  match b.pass with
  | none => s
  | some q =>
    let temp := regionTemp region s
    let fits := fitBlock b q temp
    let gains := (List.range 32).map fun c => (lineFit (b.passSums.getD c FitSums.init)).1
    let l := (readableArrays region block s).length
    let s := setBlock region block (fun b => { b with
      pass := none, passSums := [], passNext := if l = 0 then 0 else (b.passNext + 256) % l
      bandPasses := (b.bandPasses.filter fun p => p.band != q.2.2) ++ [⟨q.2.2, temp, gains⟩]
      lastPass := if aheadPass q.1 then b.lastPass else s.now }) s
    let s := wr CAL_STAT.region region (incWrap CAL_STAT.passes 1 s)
    if fits.all fitOk then settle (endLookAhead region q.1 (stageFits region block q.1 fits s))
    else endLookAhead region q.1 (failBlock region block
      (log 4 3 0x0042 region (leBytes 2 block) (wr CAL_STAT.fit_fail 1 s)))

/-- RECAL_PASS_COMPLETE (R175 to R178): the fitting of a pass of 1,024 slots ends; no such pass: nothing happens. -/
def execRecalPassComplete (region : Fin 52) (block : Fin 1312) (s : State) : Host.Outcome State Fault Refusal :=
  .next <|
    match (blockAt region.val block.val s).pass with
    | some q => if 1024 ≤ q.2.1 then endPass region.val block.val s else s
    | none => s

/-- `n` slots of the running pass. -/
def passSlots (region block : Nat) : Nat → State → State
  | 0, s => s
  | n + 1, s => passSlots region block n (passSlot region block s)

/-- A whole pass at full slot rate (R179, R183, R185, R206); none where no array is known. -/
def fullPass (region block : Nat) (s : State) : State :=
  if !knownBlock region block s then s
  else endPass region block (passSlots region block 1024 (startPass region block .scheduled s))

/-- CAL_CTL written (R189): req queues a pass of every block of a region. -/
def calCtlWrite (w : Write) (s : State) : State :=
  guarded CAL_CTL w s fun s =>
    let n := fget CAL_CTL.req_region (wdata w)
    let s := wtakeLocked [CAL_CTL.sched_en, CAL_CTL.la_en, CAL_CTL.rise_en, CAL_CTL.la_margin] w s
    if wone CAL_CTL.req w && decide (n ≤ 51) then queueRegion n .scheduled s else s

/-- PASS_REQUEST (R177, R189). -/
def execPassRequest (w : Write) (s : State) : Host.Outcome State Fault Refusal := .next (calCtlWrite w s)

/-- DRIFT_AGE_LIMIT (R182): 30 days of powered operation since the array's rows were written. -/
def execDriftAgeLimit (region : Fin 52) (block : Fin 1312) (array : Fin 512) (s : State) :
    Host.Outcome State Fault Refusal :=
  .next (if tget 0 (blockAt region.val block.val s).written array.val + thirtyDays ≤ s.now then
    fallDue region.val block.val array.val s else s)

/-! ## Abacus vector sets (R91, R299 to R301) -/

/-- One column's readings in a set: array, physical column, deviations of corrected phase readings from the ideal in unit products. -/
structure ColumnReadings where
  array : Nat
  column : Nat
  dev : List Rat
  deriving DecidableEq, Repr

/-- The next input vector of a block's generator: 32 A8 inputs from eight states of it (R299). -/
def drawVector (g : BitVec 32) : List Int × BitVec 32 :=
  (List.range 8).foldl (fun a _ =>
    let n := Config.vectorNext a.2
    (a.1 ++ (List.range 4).map fun i => signed 8 (n.toNat / 256 ^ i % 256), n)) ([], g)

/-- `n` input vectors and the generator after them. -/
def drawVectors : Nat → BitVec 32 → List (List Int) × BitVec 32
  | 0, g => ([], g)
  | n + 1, g =>
    let v := drawVector g
    let r := drawVectors n v.2
    (v.1 :: r.1, r.2)

/-- The deviation of one column in one phase of one vector (R81, R91); the conversions of an array's set are numbered from `n`. -/
def phaseDeviation (g : Gains) (cells known : List Word) (xs : List Int) (p n col : Nat) : Rat :=
  let digits := xs.map fun x => applied .a8 x p
  let ref := physCol g.map 28
  let code := fun c => slotCode digits cells (n + c) c
  let ideal := (List.zip digits known).foldl (fun a q => a + (q.1 : Int) * ((level q.2 col : Int) - 2)) 0
  phaseReading g col ref (code col) (code ref) (digits.foldl (· + ·) 0)
    - (if col = ref then 0 else (ideal : Rat))

/-- The readings of one array: 16 vectors, four phases, all 32 columns (R299). -/
def arrayReadings (region block array n : Nat) (vectors : List (List Int)) (s : State) : List ColumnReadings :=
  let g := gainsOf region block array s
  let cells := arrayRows region block array s
  let known := knownRows region block array s
  (List.range 32).map fun col => ⟨array, col, (vectors.zipIdx).flatMap fun v => (List.range 4).map fun p =>
    phaseDeviation g cells known v.1 p (n + 32 * (4 * v.2 + p)) col⟩

/-- The readings of a set over a list of arrays, in their order, with the generator after them. -/
def setReadings (region block : Nat) (s : State) : List Nat → Nat → BitVec 32 → List ColumnReadings × BitVec 32
  | [], _, g => ([], g)
  | a :: t, n, g =>
    let v := drawVectors 16 g
    let r := setReadings region block s t (n + 2048) v.2
    (arrayReadings region block a n v.1 s ++ r.1, r.2)

/-- A permutation of a list picked by a number (R299). -/
def permute : Nat → Nat → List Nat → List Nat
  | 0, _, _ => []
  | _, _, [] => []
  | n + 1, code, l =>
    let i := code % l.length
    l.getD i 0 :: permute n (code / l.length) (l.eraseIdx i)

/-- The arrays of a block's next periodic set (R299, R301, R579): four in the order of its permutation, and those with a column that failed
the last set. -/
def nextArrays (region block : Nat) (s : State) : List Nat :=
  let b := blockAt region block s
  let l := readableArrays region block s
  let order := permute 512 (Config.arrayOrder (blockKey region block)) l
  (((List.range (min 4 l.length)).map fun i => order.getD ((b.setNext + i) % l.length) 0)
    ++ (b.failing.map (· / 32)).filter l.contains).dedup

/-- The sum of squares and the number of a list of deviations. -/
def squares (l : List Rat) : Rat × Nat := l.foldl (fun a d => (a.1 + d * d, a.2 + 1)) (0, 0)

/-- The root of a mean square in 2⁻⁸ unit product, rounded to the nearest integer. -/
def rootMean (x : Rat × Nat) : Nat :=
  let q := 65536 * x.1 / (max 1 x.2 : Nat)
  let k := Nat.sqrt q.floor.toNat
  if ((2 * k + 1) * (2 * k + 1) : Nat) < 4 * q then k + 1 else k

/-- A column of the set is a data column in use: a logical data column that the array's tile uses, on the column that holds it (R91). -/
def dataColumn (region block : Nat) (c : ColumnReadings) (s : State) : Bool :=
  let b := blockAt region block s
  let used := match b.tiers.find? fun t => t.1 == c.array / 128 && t.2.gen != 0 with
    | none => List.range 28
    | some t => match tierTile t.2 (placeOf region block s).1 (placeOf region block s).2 c.array s with
      | some x => x.1.enabled
      | none => []
  used.any fun j => physCol (remapOf b c.array) j == c.column

/-- A column is judged by the set: it holds a logical column (R42, R301). -/
def usedColumn (b : Block) (c : ColumnReadings) : Bool :=
  (List.range 30).any fun j => physCol (remapOf b c.array) j == c.column

/-- A column fails the set (R301): its RMS exceeds 3 × B, or a reading lies beyond 8 × max(r_eff, 0.25). -/
def columnFails (region block : Nat) (c : ColumnReadings) (s : State) : Bool :=
  let q := squares c.dev
  let lim := 3 * boundOf region block s
  let far : Rat := 8 * ((max (blockAt region block s).rEff 320 : Nat) : Rat) / 1280
  decide (lim * lim * (q.2 : Rat) < q.1) || c.dev.any fun d => decide (far < d) || decide (d < -far)

/-- Whether the block runs vector sets now (R299, R358, R579). -/
def runsSets (region block : Nat) (s : State) : Bool :=
  knownBlock region block s && !(decide (50 ≤ region) && !s.tin.master)

/-- Columns that failed two sets of their array in a row, and those that wait for the next one (R301). -/
def judge (region block : Nat) (rs : List ColumnReadings) (s : State) : List Nat × List Nat :=
  let b := blockAt region block s
  let bad := (rs.filter fun c => usedColumn b c && columnFails region block c s).map fun c => 32 * c.array + c.column
  let seen := rs.map fun c => c.array
  (bad.filter b.failing.contains,
    (b.failing.filter fun c => !seen.contains (c / 32)) ++ bad.filter fun c => !b.failing.contains c)

/-- The outcome of a set: its figure in 2⁻⁸ unit product, whether it exceeds the bound, the columns failing for the first and for the
second time. -/
structure SetOutcome where
  r : Option Nat
  above : Bool
  again : List Nat
  failing : List Nat

/-- What a set's readings come to (R91, R94, R301). -/
def judgeSet (region block : Nat) (rs : List ColumnReadings) (s : State) : SetOutcome :=
  let q := squares ((rs.filter fun c => dataColumn region block c s).flatMap (·.dev))
  let lim := boundOf region block s
  let j := judge region block rs s
  ⟨if q.2 = 0 then none else some (rootMean q), decide (lim * lim * (q.2 : Rat) < q.1), j.1, j.2⟩

/-- A set over a list of arrays runs (R91, R299, R301): the figure for the next boundary, the failing columns, the generator; a column that
failed twice is given a spare. -/
def runSet (region block : Nat) (arrays : List Nat) (s : State) : SetOutcome × State :=
  let b := blockAt region block s
  let rs := setReadings region block s arrays s.draws b.vectors
  let o := judgeSet region block rs.1 s
  let band := rd (RGN_STATE.band region) s
  let s := setBlock region block (fun b => { b with
    rNext := match o.r with | some r => some (r, band) | none => b.rNext
    overAt := if o.above then some s.now else b.overAt
    failing := o.failing, vectors := rs.2 }) { s with draws := s.draws + 2048 * arrays.length }
  (o, remapColumns region block o.again (incWrap CHK_ABACUS_CTL.sets 1 s))

/-- A set of a block outside a rewrite: a figure above its bound is handled by R94. -/
def vectorSet (region block : Nat) (arrays : List Nat) (s : State) : State :=
  let x := runSet region block arrays s
  settle (if x.1.above && !(blockAt region block x.2).rewriting then failBlock region block x.2 else x.2)

/-- A full set of a block that runs sets (R300). -/
def fullSet (region block : Nat) (s : State) : State :=
  if runsSets region block s then vectorSet region block (readableArrays region block s) s else s

/-- ABACUS_VECTOR_SET (R299): the periodic set of a block. -/
def execAbacusVectorSet (region : Fin 52) (block : Fin 1312) (s : State) : Host.Outcome State Fault Refusal :=
  .next <|
    if runsSets region.val block.val s && rdb CHK_ABACUS_CTL.en s && !gatedInTin region.val s then
      let l := (readableArrays region.val block.val s).length
      setBlock region.val block.val (fun b => { b with setNext := (b.setNext + 4) % max 1 l })
        (vectorSet region.val block.val (nextArrays region.val block.val s) s)
    else s

/-! ## Deep passes, rewrites, sweep, warm-up (R180, R183 to R187) -/

/-- DEEP_PASS_COMPLETE (R180): the deep pass of an affected region that is stood in for it: a drift read of every array and a vector set of
each block; its stand-in ends at the next boundary. -/
def execDeepPassComplete (region : Fin 52) (s : State) : Host.Outcome State Fault Refusal :=
  .next <|
    if (regionAt region.val s).affected then
      let own := (s.blocks.filter fun p => p.1 / 1312 == region.val && !p.2.retired && !p.2.rewriting).map fun p => p.1 % 1312
      let s := own.foldl (fun a b => fullSet region.val b (driftAll region.val b 16 false a)) s
      settle (unwantRegion region.val .deep (setRegion region.val (fun r => { r with deepDone := true }) s))
    else s

/-- A block's rewrite ended well (R94, R183): the arrays written are fresh and its stand-in ends. -/
def rewritten (b : Block) : Block :=
  { b with rewriting := false, overCheck := false, due := [], journal := none
           drift := b.drift.filter fun p => !b.due.contains p.1
           want := b.want.filter fun c => c != .rewrite && c != .overBound }

/-- A block whose set failed after its rewrite is to be rewritten once more, or retired where that was the second time (R94, R176). -/
def rewriteFailed (region block : Nat) (second : Bool) (s : State) : State :=
  if second then retireBlock region block s
  else failBlock region block (setBlock region block (fun b => { b with rewriting := false, journal := none }) s)

/-- The end of a rewrite whose rows are all written (R183): a recalibration pass and a full vector set, then its stand-in ends. A pass whose
factors lie out of range has failed it too (R176). -/
def endRewrite (region block : Nat) (s : State) : State :=
  let second := (blockAt region block s).overCheck
  let x := runSet region block (readableArrays region block s) (fullPass region block s)
  let b := blockAt region block x.2
  if b.retired then x.2
  else if x.1.above || !x.1.again.isEmpty || b.overCheck != second then rewriteFailed region block second x.2
  else settle (setBlock region block rewritten x.2)

/-- REWRITE_COMPLETE (R94, R183): nothing before the last row due is written. -/
def execRewriteComplete (region : Fin 52) (block : Fin 1312) (s : State) : Host.Outcome State Fault Refusal :=
  .next <|
    let b := blockAt region.val block.val s
    if b.rewriting && (match b.journal with | some j => j.row == 16384 | none => false) then endRewrite region.val block.val s
    else s

/-- Warm-up starts with the sweep unless a warm reset or a short PS4 kept its state (R186, R188). -/
def warmAfterSweep (s : State) (b : Block) : Block :=
  if (s.boot.warm && !s.boot.badFactors) || b.swept then { b with mvms := 0 }
  else { b with warm := true, warmFrom := s.pwr.operated, warmEnds := false, mvms := 0 }

/-- The sweep of a block (R185): a drift read of each level of every array, a pass in the present band, a vector set. -/
def sweepBlock (region block : Nat) (s : State) : State :=
  fullSet region block (fullPass region block (driftAll region block 1 true s))

/-- SWEEP_COMPLETE (R185, R186, R188): the sweep of a block ends; arrays beyond their threshold are queued for rewrite. -/
def execSweepComplete (region : Fin 52) (block : Fin 1312) (ms : Nat) (s : State) : Host.Outcome State Fault Refusal :=
  .next <|
    let b := blockAt region.val block.val s
    if b.retired then s
    else
      let fresh := !((s.boot.warm && !s.boot.badFactors) || b.swept)
      let s := sweepBlock region.val block.val s
      let s := if fresh then { s with pwr := { s.pwr with warmFrom := s.pwr.operated } } else s
      let s := setBlock region.val block.val (fun b => { warmAfterSweep s b with swept := true }) s
      let s := wr CAL_WARMUP.sweep_ms ms s
      let s := if (s.blocks.filter fun p => p.2.swept || p.2.retired).length = 68224 then wr CAL_WARMUP.sweep_done 1 s else s
      settle s

/-- A block's warm-up is over (R187): its 10⁶th analogue MVM since the sweep, or 600 s of operation. -/
def warmOver (b : Block) (s : State) : Bool :=
  decide (1000000 ≤ b.mvms) || decide (b.warmFrom + 600 * second ≤ s.pwr.operated)

/-- WARMUP_END (R187): a block whose warm-up is over leaves it at the next boundary. -/
def execWarmupEnd (region : Fin 52) (block : Fin 1312) (s : State) : Host.Outcome State Fault Refusal :=
  .next <|
    if warmOver (blockAt region.val block.val s) s then
      settle (setBlock region.val block.val (fun b => { b with warmEnds := true }) s)
    else s

end Sys2Proof.Machine
end

