-- ==== Sys2Proof/Machine/Integrity.lean ====
section
/-! DEFINITION. Shadow comparisons, suspect windows, engine and Rattle tests, region resets, spare qualification, the scrub of
the hardened tables (12_integrity.md R302 to R336; 15_memory.md R393). -/

namespace Sys2Proof.Machine

/-! ## Shadow (R302 to R308) -/

/-- Q² of a weight format (R97). -/
def qSquared : WFmt → Rat
  | .tw => 1
  | .sw2 => 1
  | .sw4 => 9
  | .sw8 => 4096 / 3 + 145

/-- ρ² of a comparison in units of 2⁻¹⁶ (R304). -/
def rhoSquared (x : Shadow) (ds : List Int) : Rat :=
  let q := squares (ds.map fun d => (d : Rat))
  if q.2 = 0 || x.phaseSq = 0 then 0 else q.1 / q.2 * x.reads / (x.phaseSq * qSquared x.cmd.fmt)

/-- The tolerance on ρ in 2⁻⁸ (R304, R325) from r_eff in 1/1,280 unit product. -/
def shadowTol (rEff : Nat) (s : State) : Rat := ((max (rd CHK_TOL.mult s) 0x40 * max rEff 320 : Nat) : Rat) / 80

/-- ρ in units of 2⁻⁸ for the event log (R454). -/
def rhoCode (q : Rat) : Nat := Nat.sqrt q.floor.toNat

/-- The deviations y − x; a computing engine's own error is added to what it computed. -/
def deviations (x : Shadow) (engineDev : List Int) : List Int :=
  (List.range x.xs.length).map fun i =>
    x.ys.getD i 0 - x.xs.getD i 0 + (if x.analogue then 0 else engineDev.getD i 0)

/-- The channels of a command in order. -/
def usedChannels (c : Mvm) : List Nat := (List.range (channels c.fmt)).filter fun ch => c.enabled.contains ch

/-- A window result enters its tile with the header of its read: the exact one after a mismatch (R122, R305, R308). -/
def releaseResult (x : Shadow) (bad : Bool) (s : State) : State :=
  if x.window && x.step != 0 then deliver x.cmd x.header ((usedChannels x.cmd).zip (if bad then x.xs else x.ys)) s else s

/-- One invocation of a window is done. -/
def countWindow (bad : Bool) (w : Window) : Window :=
  { w with left := w.left - 1, hits := if bad then w.hits + 1 else w.hits }

/-- A mismatch or a pass of a window invocation of a block (R305, R306): two mismatches retire it. -/
def blockWindow (region block : Nat) (bad : Bool) (s : State) : State :=
  let s := updateSuspect (setBlock region block (fun b => { b with window := b.window.map (countWindow bad) }) s)
  match (blockAt region block s).window with
  | some w => if 2 ≤ w.hits then retireBlock region block s else s
  | none => s

/-- The same for an engine (R308). -/
def engineWindow (region : Nat) (bad : Bool) (s : State) : State :=
  let s := updateSuspect (setRegion region (fun r => { r with window := r.window.map (countWindow bad) }) s)
  match (regionAt region s).window with
  | some w => if 2 ≤ w.hits then retireRegion region (updateSuspect (setRegion region (fun r => { r with window := none }) s)) else s
  | none => s

/-- A mismatch is counted and logged (R304, R326). -/
def noteMismatch (region unit rho : Nat) (s : State) : State :=
  log 9 3 0x0090 region (leBytes 2 unit ++ leBytes 4 rho) (incHold CHK_STAT.mismatches 1 (wr CHK_STAT.mismatch 1 s))

/-- What a comparison leads to (R305 to R308): a window counts it; outside a window a mismatch voids the step and makes the
block, or the computing engine, suspect. One of a run that is gone (step 0) has no step to void; the window then opens at once. -/
def judgeShadow (region : Nat) (x : Shadow) (bad : Bool) (s : State) : State :=
  if x.analogue then
    if x.window then blockWindow region x.block bad s
    else if bad then
      if x.step = 0 then suspectBlock region x.block true s
      else suspectBlock region x.block false (wantBlock region x.block .replay (voidFrom x.step s))
    else s
  else if x.window then engineWindow x.engine bad s
  else if bad then suspectEngine x.engine (if x.step = 0 then s else voidFrom x.step s)
  else s

/-- One comparison done (R304). -/
def compareShadow (region : Nat) (x : Shadow) (engineDev : List Int) (s : State) : State :=
  let ds := deviations x engineDev
  let q := rhoSquared x ds
  let t := shadowTol x.rEff s
  let bad := if x.analogue then decide (t * t < q) else ds.any (· != 0)
  let unit := if x.analogue then x.block else 0x7FF
  let at_ := if x.analogue then region else x.engine
  let s := setRegion region (fun r => { r with shadows := r.shadows.tail }) s
  let s := setStep x.step (fun t => { t with shadows := t.shadows - 1 }) (incWrap CHK_STAT.shadows 1 s)
  let s := log 9 0 0x00F1 at_ (leBytes 2 unit ++ leBytes 4 (rhoCode q)) s
  let s := if bad then noteMismatch at_ unit (rhoCode q) s else s
  judgeShadow region x bad (releaseResult x bad s)

/-- SHADOW_COMPARISON (R304): the region's oldest comparison completes; none is ready: nothing happens. `engineDev` is what the
computing engine's values were off by, zero in every channel of a sound engine. -/
def execShadowComparison (region : Fin 52) (engineDev : List Int) (s : State) : Host.Outcome State Fault Refusal :=
  .next <|
    match (regionAt region.val s).shadows with
    | [] => s
    | x :: _ => compareShadow region.val x engineDev s

/-- SUSPECT_WINDOW_END (R306, R308): the 64th invocation of a window is done with fewer than two mismatches. -/
def execSuspectWindowEnd (region : Fin 52) (unit : Option (Fin 1312)) (s : State) : Host.Outcome State Fault Refusal :=
  .next <| updateSuspect <|
    match unit with
    | some b => setBlock region.val b.val (fun x => { x with
        window := x.window.filter fun w => decide (w.left ≠ 0) || decide (2 ≤ w.hits) }) s
    | none => setRegion region.val (fun x => { x with
        window := x.window.filter fun w => decide (w.left ≠ 0) || decide (2 ≤ w.hits) }) s

/-- ENGINE_TEST_END (R308). -/
def execEngineTestEnd (region : Fin 52) (passed : Bool) (s : State) : Host.Outcome State Fault Refusal :=
  .next <|
    if !(regionAt region.val s).want.contains .engineTest then s
    else if passed then
      settle (unwantRegion region.val .engineTest (setRegion region.val (fun r => { r with suspects := [] }) s))
    else settle (retireRegion region.val s)

/-! ## Rattle tests (R310 to R312) -/

/-- A test is due: scheduled, or asked for out of turn (R310, R334). -/
def rattleAskedFor (s : State) : Option Nat :=
  (s.regions.find? fun p => p.2.rattleAsked && !p.2.want.contains .reset).map Prod.fst

/-- The region the next test takes: one asked for, else the next in round-robin order that is neither retired nor unusable. -/
def rattleTarget (s : State) : Option Nat :=
  match rattleAskedFor s with
  | some p => some p
  | none =>
    if !rdb CHK_RATTLE_CTL.en s then none
    else ((List.range 52).map fun i => (rd CHK_RATTLE_CTL.next s + i) % 52).find? fun p => !regionDown p s

/-- A test is deferred while any of these holds (R310). -/
def rattleBlocked (p : Nat) (s : State) : Bool :=
  (s.regions.any fun q => q.1 != p && q.2.stood.isSome)
    || ((List.range 52).any fun r => rd (RGN_STATE.band r) s == 4) || rdb THM_STAT.level s
    || (s.blocks.any fun b => b.2.warm) || inTin s || rd PWR_STATE.state s != 0 || !inService s

/-- A test of region `p` starts (R310, R311). -/
def startRattle (p : Nat) (s : State) : State :=
  let asked := (regionAt p s).rattleAsked
  let s := setRegion p (fun r => { r with rattleAsked := false }) s
  let s := wr CHK_RATTLE_STAT.running 1 (wr CHK_RATTLE_STAT.deferred 0 (wr CHK_RATTLE_STAT.region p s))
  let s := if asked then s else wr CHK_RATTLE_CTL.next ((p + 1) % 52) s
  { s with pwr := { s.pwr with rattleAt := s.now } }

/-- A region that serves needs stand-in for its test (R310). -/
def rattleNeedsCover (p : Nat) (s : State) : Bool := logRegion p s != 0x3F

/-- A due test: it starts when its region is stood in or needs no stand-in; otherwise it waits for the boundary. -/
def tryRattle (p : Nat) (s : State) : State :=
  if rdb CHK_RATTLE_STAT.running s then s
  else if rattleBlocked p s then wr CHK_RATTLE_STAT.deferred 1 s
  else if !rattleNeedsCover p s then startRattle p s
  else
    let s := settle (wantRegion p .rattle s)
    if (regionAt p s).stood = some .rattle then startRattle p s else wr CHK_RATTLE_STAT.deferred 1 s

/-- RATTLE_TEST_START (R310): a test falls due; while a step runs, a service region's test starts at the next boundary. -/
def execRattleTestStart (s : State) : Host.Outcome State Fault Refusal :=
  .next (match rattleTarget s with
    | some p => tryRattle p s
    | none => s)

/-- A deferred test at a step boundary (R310). -/
def rattleAtBoundary (s : State) : State :=
  if !rdb CHK_RATTLE_STAT.deferred s then s
  else match rattleTarget s with
    | none => s
    | some p =>
      if rdb CHK_RATTLE_STAT.running s then s
      else if (regionAt p s).stood = some .rattle then startRattle p s
      else if rattleBlocked p s then s
      else if rattleNeedsCover p s then
        let s := latchStandIn (wantRegion p .rattle s)
        if (regionAt p s).stood = some .rattle then startRattle p s else s
      else startRattle p s

/-- A test ends with a result of R330; `fail` counts it as failed (R312). -/
def endRattle (p result : Nat) (fail : Bool) (s : State) : State :=
  let s := wr CHK_RATTLE_STAT.running 0 (incWrap CHK_RATTLE_STAT.tests 1 (wr CHK_RATTLE_STAT.result result s))
  let s := if fail then incHold CHK_RATTLE_STAT.fails 1 (wr CHK_STAT.rattle_fail 1 s) else s
  log 9 (if fail then 4 else 1) 0x0095 p (leBytes 1 result) (unwantRegion p .rattle s)

/-- Columns remapped and blocks retired by a test (R312). -/
def repairRegion (p : Nat) (cols : List (Fin 1312 × Fin 512 × Fin 32)) (blocks : List (Fin 1312)) (s : State) : State :=
  let s := cols.foldl (fun a c => remapColumns p c.1.val [32 * c.2.1.val + c.2.2.val] a) s
  blocks.foldl (fun a b => retireBlock p b.val a) s

/-- RATTLE_TEST_END (R312). -/
def execRattleTestEnd (finding : RattleFinding) (s : State) : Host.Outcome State Fault Refusal :=
  .next <|
    if !rdb CHK_RATTLE_STAT.running s then s
    else
      let p := rd CHK_RATTLE_STAT.region s
      settle <| match finding with
        | .clean => endRattle p 1 false s
        | .repaired cols blocks =>
          let s := repairRegion p cols blocks s
          if regionDown p s then endRattle p 3 true s else endRattle p 2 false s
        | .engine => endRattle p 3 true (retireRegion p s)
        | .otherFault => endRattle p 0 true s

/-- RGN_CTL written (R334, R543). -/
def rgnCtlWrite (p : Nat) (w : Write) (s : State) : State :=
  guarded (RGN_CTL p) w s fun s =>
    let s := if wone (RGN_CTL.rattle p) w then
        (if regionDown p s then logIgnored w.who (RGN_CTL p) w.data.toNat s
         else setRegion p (fun r => { r with rattleAsked := true }) s)
      else s
    if wone (RGN_CTL.reset p) w then
      (if debugMode s then settle (resetRegion p 2 s) else logIgnored w.who (RGN_CTL p) w.data.toNat s)
    else s

/-- RATTLE_REQUEST (R334, R543): the test runs at the region's next eligible boundary. -/
def execRattleRequest (region : Fin 52) (w : Write) (s : State) : Host.Outcome State Fault Refusal :=
  .next (rgnCtlWrite region.val w s)

/-- REGION_RESET_REQUEST (R334). -/
def execRegionResetRequest (region : Fin 52) (w : Write) (s : State) : Host.Outcome State Fault Refusal :=
  .next (rgnCtlWrite region.val w s)

/-! ## Resets -/

/-- SRAM_ECC_ERROR (R313, R393): a single-bit error is corrected and logged, an uncorrectable one resets the region. -/
def execSramEccError (region : Fin 52) (uncorrectable : Bool) (s : State) : Host.Outcome State Fault Refusal :=
  .next (if uncorrectable then settle (resetRegion region.val 0 s)
    else log (regionClass region.val) 1 (Config.unlistedCode 393).toNat region.val [] s)

/-- A full vector set on every block of a region (R300, R313). -/
def fullSets (region : Nat) (s : State) : State :=
  ((s.blocks.filter fun p => p.1 / 1312 == region && !p.2.rewriting && p.2.journal.isNone).map fun p => p.1 % 1312).foldl
    (fun a b => fullSet region b a) s

/-- REGION_RESET_COMPLETE (R313, R179): every block has run a full vector set; stand-in ends at the next boundary, passes start again on
every block. -/
def execRegionResetComplete (region : Fin 52) (s : State) : Host.Outcome State Fault Refusal :=
  .next <|
    if (regionAt region.val s).want.contains .reset then
      settle (queueRegion region.val .scheduled (unwantRegion region.val .reset (fullSets region.val s)))
    else s

/-! ## Qualification of a spare region (R315) -/

/-- The tiers a block's replacement is to hold: those its journal names a resident generation for as complete, and those of the load that
is programming (R15, R206). -/
def tiersToCopy (b : Block) (s : State) : List (Nat × Tier) :=
  b.tiers.filter fun t => t.2.gen != 0 && (slotOfGen t.2.gen s).isSome && (t.2.complete ||
    match s.wld.load with
    | some l => l.phase == 4 && rd (WLD_GEN.gen l.slot) s == t.2.gen
    | none => false)

/-- Every block of a spare region holds the share of every resident generation that it takes over (R15, R315). -/
def regionWritten (p l : Nat) (s : State) : Bool :=
  let src := physRegion l s
  s.blocks.all fun b => b.1 / 1312 != src || decide (1280 ≤ logBlock src (b.1 % 1312) s) ||
    let n := blockAt p (physBlock p (logBlock src (b.1 % 1312) s) s) s
    n.journal.isNone && (tiersToCopy b.2 s).all fun t =>
      !t.2.complete || n.tiers.any fun u => u.1 == t.1 && u.2.gen == t.2.gen && u.2.complete

/-- The spare region enters warm-up and serves from the next boundary (R186, R315). -/
def qualify (p : Nat) (s : State) : State :=
  let s := mapBlocks (fun r _ b => if r = p then
    { b with warm := true, warmFrom := s.pwr.operated, warmEnds := false, mvms := 0, swept := true } else b) s
  setRegion p (fun r => { r with qualified := true }) { s with pwr := { s.pwr with warmFrom := s.pwr.operated } }

/-- SPARE_QUALIFIED (R315): nothing before the spare's blocks are programmed; a failed qualification retires the failing blocks and is
repeated up to 3 times; beyond that the spare is unusable and the other one is brought up. -/
def execSpareQualified (spare : Fin 52) (passed : Bool) (failing : List (Fin 1312)) (s : State) :
    Host.Outcome State Fault Refusal :=
  .next <|
    match (regionAt spare.val s).bringUp with
    | none => s
    | some l =>
      if !regionWritten spare.val l s then s
      else if passed then settle (qualify spare.val s)
      else if 3 ≤ (regionAt spare.val s).qualFails then failSpare spare.val s
      else
        let s := setRegion spare.val (fun r => { r with qualFails := r.qualFails + 1 }) s
        failing.foldl (fun a b => if regionDown spare.val a then a else retireBlock spare.val b.val a) s

/-! ## The scrubber (R319, R320, R336) -/

/-- The flips of one copy of a word. -/
def flipsOf (l : List Upset) (word : Nat) (copy : Nat) : Word :=
  l.foldl (fun a u => if u.word = word ∧ u.copy.val = copy then a ^^^ u.flips else a) 0

/-- The three copies of a word as the scrub finds them: all equal, one differs, or no two agree. -/
def scrubWord (l : List Upset) (word : Nat) : Nat :=
  let a := flipsOf l word 0
  let b := flipsOf l word 1
  let c := flipsOf l word 2
  if a = b ∧ b = c then 0 else if a = b ∨ b = c ∨ a = c then 1 else 2

/-- A single disagreement corrected from the majority (R319, R336). -/
def voteFix (region word : Nat) (s : State) : State :=
  let s := wr (RGN_CFG_VOTE.last_word region) word (incHold (RGN_CFG_VOTE.corrected region) 1 s)
  log (regionClass region) 2 0x0017 region (leBytes 2 word) (wr CHK_STAT.vote 1 s)

/-- CONFIG_SCRUB (R319, R320): one pass over the region's tables. -/
def execConfigScrub (region : Fin 52) (upsets : List Upset) (s : State) : Host.Outcome State Fault Refusal :=
  let words := (upsets.map (·.word)).dedup
  let s := incWrap (RGN_CFG_VOTE.scrubs region.val) 1 s
  let s := (words.filter fun w => scrubWord upsets w == 1).foldl (fun a w => voteFix region.val w a) s
  .next <|
    if (words.any fun w => scrubWord upsets w == 2) || decide (64 < (words.filter fun w => scrubWord upsets w != 0).length) then
      settle (resetRegion region.val 1 s)
    else s

end Sys2Proof.Machine
end

