-- ==== Sys2Proof/Machine/Recipes.lean ====
section
/-! DEFINITION. Recipe windows, flags and selections, and the return of shedding stages (06_recipes.md R127 to R144;
14_tin_soldier.md R359). -/

namespace Sys2Proof.Machine

/-- recipe_window, N of R130 (R132). -/
def recipeWindow (s : State) : Nat := max 1 (param 0x01 8 s)
/-- recipe_min_groups (R132). -/
def recipeMinGroups (s : State) : Nat := param 0x02 256 s
/-- The recipe manager is host software (R132). -/
def hostManages (s : State) : Bool := param 0x03 0 s == 1
/-- storm_quiet (R132). -/
def stormQuiet (s : State) : Nat := param 0x04 64 s

/-- The number of the last committed step (R296): nothing before it is outstanding. -/
def lastCommitted (s : State) : Nat :=
  match uncommitted s with
  | t :: l => l.foldl (fun a u => min a u.num) t.num - 1
  | [] => s.srv.highest

/-- The layer of a slot was on its wide alternative in the last committed step. -/
def wasWide (slot layer : Nat) (s : State) : Bool := s.srv.lastWide.contains (slot, layer)

/-- What a layer's counts trip: the all-zero and the all-saturating test (R131). -/
def trips (r : Recipe) (c : Nat × Nat × Nat) (s : State) : Bool × Bool :=
  let enough := decide (recipeMinGroups s ≤ c.1)
  (enough && r.zeroThr != 0 && decide (r.zeroThr * c.1 < c.2.1 * 65536),
    enough && r.satThr != 0 && decide (r.satThr * c.1 < c.2.2 * 65536))

/-- The layer has a wide alternative it is not on. -/
def canWiden (slot layer : Nat) (wide : Bool) (s : State) : Bool :=
  match (recipesOf slot s)[layer]? with
  | some r => !wide && r.wide != 0xFFFF
  | none => false

/-- Code 0x0015: a flag popped, or one of the Tin Soldier model (R134, R359). -/
def logFlag (region : Nat) (f : Flag) (s : State) : State :=
  log (regionClass region) 1 0x0015 region
    ([BitVec.ofNat 8 f.slot, 0] ++ leBytes 2 f.layer ++ leBytes 1 f.zero.toNat ++ leBytes 1 f.sat.toNat
      ++ leBytes 1 f.nowide.toNat) s

/-- A flag joins the region's queue: merged, queued, or lost at a full queue (R133). DESIGN CHOICE (log entry 161): a merged
entry keeps the step and the nowide of the older one, on which R133 is silent. -/
def queueFlag (region : Nat) (f : Flag) (s : State) : State :=
  let q := (regionAt region s).flags
  if q.any fun g => g.slot == f.slot && g.layer == f.layer then
    setRegion region (fun r => { r with flags := r.flags.map fun g =>
      if g.slot = f.slot ∧ g.layer = f.layer then { g with zero := g.zero || f.zero, sat := g.sat || f.sat } else g }) s
  else if q.length < 64 then setRegion region (fun r => { r with flags := r.flags ++ [f] }) s
  else
    log (regionClass region) 2 0x0014 region ([BitVec.ofNat 8 f.slot, 0] ++ leBytes 2 f.layer)
      (wr (RGN_RECIPE_FLAG.overflow region) 1 s)

/-- A layer was flagged when `k` windows had ended (R139). -/
def noteFlag (slot layer k : Nat) (s : State) : State := setGen slot (fun g => { g with calm := tset 0 g.calm layer k }) s

/-- One layer's counts evaluated (R131, R359). -/
def evalLayer (region step : Nat) (e : Nat × (Nat × Nat × Nat)) (s : State) : State :=
  let slot := e.1 / 65536
  let layer := e.1 % 65536
  let wide := wasWide slot layer s
  match recipeAt slot layer wide s with
  | none => s
  | some r =>
    let t := trips r e.2 s
    if !t.1 && !t.2 then s
    else
      let f : Flag := ⟨slot, layer, t.1, t.2, slot == 4 || !canWiden slot layer wide s, step⟩
      if slot = 4 then logFlag region f s else queueFlag region f (noteFlag slot layer ((lastCommitted s + 1) / recipeWindow s) s)

/-- Recipe windows that have ended: their last step has committed (R130). -/
def windowsEnded (s : State) : Nat := (lastCommitted s + 1) / recipeWindow s

/-- A region's last window that ended is evaluated, once (R130). DESIGN CHOICE (log entry 162): a region's layers are
evaluated by ascending slot and layer, an order on which R131 is silent. -/
def evalWindow (region : Nat) (s : State) : State :=
  let r := regionAt region s
  let k := windowsEnded s
  if r.windowsDone < k then
    let s := r.counts.foldl (fun a e => evalLayer region (k * recipeWindow s - 1) e a) s
    setRegion region (fun r => { r with lastCounts := r.counts, counts := [], windowsDone := k, counted := true }) s
  else s

/-- RECIPE_WINDOW_EVAL (R130). -/
def execRecipeWindowEval (region : Fin 52) (s : State) : Host.Outcome State Fault Refusal := .next (evalWindow region.val s)

/-- The windows that have ended are evaluated in every region before a step of the next one adds its counts (R130). -/
def evalWindows (s : State) : State := (List.range 52).foldl (fun a r => evalWindow r a) s

/-- A selection staged for the boundary before step `step` (R138, R140). -/
def stageRecipe (step slot layer : Nat) (wide : Bool) (s : State) : State :=
  { s with srv := { s.srv with stagedRecipes := s.srv.stagedRecipes ++ [(step, slot, layer, wide)] } }

/-- The first step a change staged by firmware runs in (R138, R142). -/
def changeStep (s : State) : Nat := s.srv.highest + (if mirrored s then 2 else 1)

/-- A layer falls back to its wide alternative for step `step` where it has one it is not on. -/
def widen (step slot layer : Nat) (s : State) : State :=
  if canWiden slot layer ((genAt slot s).wide.contains layer) s then stageRecipe step slot layer true s else s

/-- Firmware acts on a popped flag (R138); in mirrored operation it tells the partner (R142). -/
def fallBack (f : Flag) (s : State) : State :=
  let s := if mirrored s then send (.recipeFlag (changeStep s) f.slot f.layer) s else s
  if f.nowide then s else widen (changeStep s) f.slot f.layer s

/-- A flag that the partner's firmware popped, with the step its change takes effect in: both parts apply the union (R142). -/
def partnerFlag (e : Nat × Fin 4 × Nat) (s : State) : State :=
  if hostManages s then s else widen e.1 e.2.1.val e.2.2 (noteFlag e.2.1.val e.2.2 (windowsEnded s) s)

/-- The writer is the recipe manager (R134). -/
def isManager (who : Master) (s : State) : Bool :=
  match who with
  | .host => hostManages s
  | .core _ => !hostManages s
  | _ => false

/-- RGN_RECIPE_FLAG written (R134, R135). -/
def recipeFlagWrite (region : Nat) (w : Write) (s : State) : State :=
  guarded (RGN_RECIPE_FLAG region) w s fun s =>
    if !wone (RGN_RECIPE_FLAG.pop region) w then s
    else if !isManager w.who s then logIgnored w.who (RGN_RECIPE_FLAG region) w.data.toNat s
    else match (regionAt region s).flags with
      | [] => s
      | f :: t =>
        let s := wr (RGN_RECIPE_FLAG.overflow region) 0 (setRegion region (fun r => { r with flags := t }) s)
        if hostManages s then s else fallBack f (logFlag region f s)

/-- RECIPE_FLAG_POP (R135). -/
def execRecipeFlagPop (region : Fin 52) (w : Write) (s : State) : Host.Outcome State Fault Refusal :=
  .next (recipeFlagWrite region.val w s)

/-- Some region holds a flag of the layer. -/
def flagged (slot layer : Nat) (s : State) : Bool :=
  s.regions.any fun p => p.2.flags.any fun f => f.slot == slot && f.layer == layer

/-- Windows that have ended in a row without a flag of the layer from any region (R139). -/
def calmWindows (slot layer : Nat) (s : State) : Nat := windowsEnded s - tget 0 (genAt slot s).calm layer

/-- RECIPE_REVERT (R139): the recipe's number of flag-free windows has passed for a layer on its wide alternative. -/
def execRecipeRevert (slot : Fin 4) (layer : Nat) (s : State) : Host.Outcome State Fault Refusal :=
  .next <|
    match recipeAt slot.val layer true s with
    | none => s
    | some r =>
      if !hostManages s && (genAt slot.val s).wide.contains layer && r.revert != 0 && decide (r.revert ≤ calmWindows slot.val layer s)
          && !flagged slot.val layer s then
        stageRecipe (changeStep s) slot.val layer false s
      else s

/-- The staged selections due at the boundary before step `n` take effect, later entries over earlier ones (R127, R140). -/
def applyRecipes (n : Nat) (s : State) : State :=
  let due := s.srv.stagedRecipes.filter fun e => decide (e.1 ≤ n)
  let s := { s with srv := { s.srv with stagedRecipes := s.srv.stagedRecipes.filter fun e => decide (n < e.1) } }
  due.foldl (fun a e => setGen e.2.1 (fun g => { g with
    wide := (g.wide.filter (· != e.2.2.1)) ++ (if e.2.2.2 then [e.2.2.1] else []) }) a) s

/-- The counts a read of RGN_ZERO_CNT selects (R136): G, Z, S, and whether the slot's generation has the layer; zero until a window has
ended since the last reset (R137). -/
def selectedCounts (region : Nat) (s : State) : (Nat × Nat × Nat) × Bool :=
  let slot := rd (RGN_ZERO_CNT.slot region) s
  let layer := rd (RGN_ZERO_CNT.layer region) s
  let key := 65536 * slot + layer
  let valid := rd (WLD_GEN.state slot) s != 0 &&
    (match (genAt slot s).manifest with | some m => decide (layer < m.layers) | none => false)
  let r := regionAt region s
  let c := match rd (RGN_ZERO_CNT.which region) s with
    | 0 => tget (0, 0, 0) r.counts key
    | 1 => tget (0, 0, 0) r.lastCounts key
    | _ => (0, 0, 0)
  (if valid && r.counted then c else (0, 0, 0), valid)

/-- A read of RGN_ZERO_CNT (R136, R137). -/
def zeroCntRead (region : Nat) (half : Half) (s : State) : State :=
  let c := selectedCounts region s
  let s := wr (RGN_ZERO_CNT.zero region) c.1.2.1 (wrb (RGN_ZERO_CNT.valid region) c.2 s)
  let s := wr (RGN_SAT_CNT.sat region) c.1.2.2 (wr (RGN_SAT_CNT.groups region) c.1.1 s)
  answer (.word (halfOf half (s.reg (RGN_ZERO_CNT region)))) s

/-- ZERO_CNT_READ (R136). -/
def execZeroCntRead (who : Master) (region : Fin 52) (half : Half) (s : State) : Host.Outcome State Fault Refusal :=
  .next (viaBar who s (zeroCntRead region.val half))

/-- STAGE_RETURN (R144): after storm_quiet quiet boundaries the scheduler goes back one stage; leaving stage 3 clears the alarm. -/
def execStageReturn (s : State) : Host.Outcome State Fault Refusal :=
  .next <|
    let st := rd SRV_STAT.stage s
    if st = 0 ∨ s.srv.quiet < stormQuiet s then s
    else
      let s := wr SRV_STAT.stage (st - 1) { s with srv := { s.srv with quiet := 0 } }
      if st = 3 then log 7 1 0x0071 0 [] { s with srv := { s.srv with storm := false } } else s

end Sys2Proof.Machine
end

