-- ==== Sys2Proof/Machine/Validate.lean ====
section
/-! DEFINITION. Validation of containers and manifests: header, signature, tables (09_weights.md R196 to R201, R210, R216;
06_recipes.md R125, R126; 15_memory.md R378), and CRC-32C. -/

namespace Sys2Proof.Machine

/-! ## CRC-32C -/

/-- One bit of the reflected polynomial. -/
def crcBit (c : BitVec 32) : BitVec 32 := if c.getLsbD 0 then (c >>> 1) ^^^ 0x82F63B78#32 else c >>> 1

/-- `n` bits. -/
def crcBits : Nat → BitVec 32 → BitVec 32
  | 0, c => c
  | n + 1, c => crcBits n (crcBit c)

/-- CRC-32C of a list of bytes. -/
def crc32c (l : List Byte) : BitVec 32 :=
  ~~~ (l.foldl (fun c b => crcBits 8 (c ^^^ b.setWidth 32)) 0xFFFFFFFF#32)

/-! ## Container header (R196) -/

/-- Every condition of R196 holds. -/
def headerOk (h : LusonHeader) : Bool :=
  h.magic == 0x4E53554C && h.version == 1 && decide (h.kind ≤ 1) && decide (h.footprint ≤ 2)
    && (if h.kind = 0 then decide (1 ≤ h.gen) && decide (h.gen ≤ 0xFFFE) else h.gen == 0xFFFF)
    && !h.reserved && h.chunks == (h.payLen + (chunkBytes - 1)) / chunkBytes && h.manOff % 4096 == 0
    && decide (h.manLen ≤ 67108864) && h.payOff % 4096 == 0 && decide (h.manOff + h.manLen ≤ h.payOff)

/-! ## Tables (R199 to R201) -/

/-- A format code is allowed for a role (R53, R199). -/
def roleFormat (role fmt : Nat) : Bool :=
  match role with
  | 0 => decide (fmt ≤ 3)
  | 1 => fmt == 0xA
  | 2 => fmt == 0xE
  | 3 => fmt == 0x8
  | 4 => decide (6 ≤ fmt) && decide (fmt ≤ 0xE) && fmt != 0xC
  | _ => false

/-- No tensor. -/
def noTensor : Nat := 0xFFFFFFFF

/-- Scale groups of a tensor's input. -/
def inputGroups (t : Tensor) : Nat := (t.cols + 31) / 32

/-- Column groups of a tensor's output channels (R200). -/
def columnGroups (t : Tensor) : Nat := (t.rows + (groupWidth t.format - 1)) / groupWidth t.format

/-- An id names a tensor of a role that passes a test, or none. -/
def namesRole (m : Manifest) (id role : Nat) (ok : Tensor → Bool) : Bool :=
  id == noTensor || (match tensorAt m id with | some t => t.role == role && ok t | none => false)

/-- What R199 and R201 ask of a cell-weight tensor: its scales, a mask for each input group, lane data exactly where its layer's
recipe has the lane, a binary point of a tile. -/
def weightTensorOk (m : Manifest) (t : Tensor) : Bool :=
  let lane := match m.recipes[t.layer]? with | some r => r.lane | none => false
  (match tensorAt m t.scale with | some u => u.role == 1 && u.rows == t.rows && u.length == 4 * t.rows | none => false)
    && namesRole m t.outl 2 (fun u => u.length == 4 * inputGroups t) && namesRole m t.patch 3 (fun _ => true)
    && (lane == (t.outl != noTensor || t.patch != noTensor)) && decide (t.bp ≤ 63)

/-- A tensor's length is that of its elements as stored (R52, R55, R56, R87, R199). -/
def lengthOk (t : Tensor) : Bool :=
  match t.role with
  | 1 => t.length == 4 * t.rows
  | 2 => t.length % 4 == 0
  | 3 => t.length % 8 == 0
  | _ => t.length == tensorBytes t.format (t.rows * t.cols)

/-- One entry of the tensor table (R199, R201). -/
def tensorOk (h : LusonHeader) (m : Manifest) (t : Tensor) : Bool :=
  roleFormat t.role t.format && !t.reserved && t.payOff % 64 == 0 && decide (t.payOff + t.length ≤ h.payLen)
    && (decide (t.layer < m.layers) || t.layer == 0xFFFF) && lengthOk t
    && (if t.role = 0 then weightTensorOk m t else t.bp == 0 && t.scale == noTensor && t.outl == noTensor && t.patch == noTensor)

/-- The tiles of a run: tensor, input group, column group, and where each lies (R200). -/
def runTiles (a : Nat) (r : Run) : List ((Nat × Nat × Nat) × (Nat × Nat × Nat)) :=
  (List.range (r.nk * r.nc)).map fun i =>
    ((r.tensor, r.kg0 + i % r.nk, r.cg0 + i / r.nk), (r.region, r.block0 + (r.array0 + i) / a, (r.array0 + i) % a))

/-- One entry of the placement table by itself (R200, R357). -/
def placedRunOk (a kind : Nat) (m : Manifest) (r : Run) : Bool :=
  !r.reserved && (if kind = 1 then r.region == 0 else decide (r.region ≤ 47)) && decide (r.array0 < a)
    && decide (r.block0 + (r.array0 + (r.nk * r.nc - 1)) / a ≤ 1279)
    && match tensorAt m r.tensor with
      | some t => t.role == 0 && decide (r.kg0 + r.nk ≤ inputGroups t) && decide (r.cg0 + r.nc ≤ columnGroups t)
      | none => false

/-- Every tile is placed exactly once and no two share a place (R201). -/
def placementOk (m : Manifest) : Bool :=
  let a := footArrays m.footprint
  let tiles := m.runs.flatMap (runTiles a)
  let want := (m.tensors.filter fun t => t.role == 0).foldl (fun n t => n + inputGroups t * columnGroups t) 0
  decide ((tiles.map Prod.fst).Nodup) && decide ((tiles.map Prod.snd).Nodup) && tiles.length == want

/-- Weight cells of a manifest's tensors, replicas included (R41, R197). -/
def usedCells (m : Manifest) : Nat :=
  (m.tensors.filter fun t => t.role == 0).foldl (fun n t => n + t.rows * t.cols * cellsPer (weightFmt t.format)) 0

/-- The cells of a keep region (R357). -/
def keepCells : Nat := 587202560

/-- A wide alternative fits its primary (R126). -/
def wideOk (p w : Recipe) : Bool :=
  w.wide == 0xFFFF && !(w.width == .a4 && p.width == .a8) && decide (p.reads ≤ w.reads) && w.lane == p.lane

/-- A primary entry is well-formed (R126). -/
def primaryOk (m : Manifest) (i : Nat) : Bool :=
  match m.recipes[i]? with
  | none => false
  | some p => p.layer == i && (p.wide == 0xFFFF || (decide (m.layers ≤ p.wide) &&
      match m.recipes[p.wide]? with | some w => w.layer == i | none => false))

/-- The recipe table meets R126: every entry beyond the primaries is a wide alternative of its layer, named or not. -/
def recipesOk (m : Manifest) : Bool :=
  decide (m.layers ≤ m.recipes.length) && decide (m.recipes.length ≤ 2 * m.layers) && (m.recipes.all fun r => !r.reserved)
    && (List.range m.layers).all (primaryOk m)
    && (m.recipes.drop m.layers).all fun w => decide (w.layer < m.layers) &&
      match m.recipes[w.layer]? with | some p => wideOk p w | none => false

/-- A section of the manifest lies in the body at a multiple of 64 (R197, R201). -/
def sectionOk (m : Manifest) (off size n : Nat) : Bool := off % 64 == 0 && decide (off + size * n ≤ m.bodyLen)

/-- The sampler tensor has the form of R274. -/
def samplerForm (m : Manifest) : Bool :=
  match samplerTensor m with
  | none => true
  | some t => t.role == 4 && t.format == 0xE && t.rows == 1 && t.cols == 4

/-- The manifest passes every check of R197, R200, R201, R126, R274, R357 and R378 beyond its signature. -/
def manifestOk (h : LusonHeader) (m : Manifest) : Bool :=
  m.magic == 0x4E414D4C && m.bytes == h.manLen && m.bodyLen + 1088 == m.bytes
    && m.gen == h.gen && m.kind == h.kind && m.footprint == h.footprint && m.chunks == h.chunks && !m.reserved
    && sectionOk m m.tensOff 64 m.tensors.length && sectionOk m m.runOff 32 m.runs.length
    && sectionOk m m.recOff 16 m.recipes.length && sectionOk m m.hashOff 64 m.chunks && decide (h.chunks ≤ 4096)
    && decide ((m.tensors.map (·.id)).Nodup) && (m.tensors.all (tensorOk h m))
    && (m.runs.all (placedRunOk (footArrays m.footprint) m.kind m)) && placementOk m && recipesOk m && samplerForm m
    && m.cells == usedCells m && (m.kind == 0 || decide (m.cells ≤ keepCells))

/-- The manifest's key is one of the record's model keys, the burnt Tin Soldier key for a Tin Soldier model, and the signature
verifies (R198, R502, R503). In RETURNED no manifest is accepted (R525). -/
def signedOk (m : Manifest) (s : State) : Bool :=
  m.signatureOk && s.boot.lcs != 3
    && (if m.kind = 1 then s.nv.tinKeyHash == some m.keyHash else s.boot.config.keys.contains m.keyHash)

/-! ## Payload (R58, R87, R199, R201, R274) -/

/-- A tensor's bytes touch chunk `c`. -/
def touches (t : Tensor) (c : Nat) : Bool :=
  decide (t.payOff < (c + 1) * chunkBytes) && decide (c * chunkBytes < t.payOff + t.length)

/-- The bytes of a tensor in chunk `c`: offsets in the payload. -/
def bytesIn (t : Tensor) (c : Nat) : List Nat :=
  let a := max t.payOff (c * chunkBytes)
  (List.range (min (t.payOff + t.length) ((c + 1) * chunkBytes) - a)).map (a + ·)

/-- The codes of a TW tensor in one byte of it hold no 0b10 (R58); pad bits are not looked at. -/
def twByteOk (t : Tensor) (p : List (Nat × List Byte)) (o : Nat) : Bool :=
  (List.range 4).all fun i => decide (t.rows * t.cols ≤ 4 * (o - t.payOff) + i) || (payByte p o).toNat / 4 ^ i % 4 != 2

/-- Set bits of a mask. -/
def bitsSet (m : BitVec 32) : Nat := ((List.range 32).filter fun i => m.getLsbD i).length

/-- Entries in the order of R87. -/
def patchSorted : List Patch → Bool
  | [] => true
  | [_] => true
  | a :: b :: t => (decide (a.input < b.input) || (a.input == b.input && decide (a.output ≤ b.output))) && patchSorted (b :: t)

/-- The weights of a layer. -/
def layerWeights (m : Manifest) (layer : Nat) : Nat :=
  (m.tensors.filter fun t => t.role == 0 && t.layer == layer).foldl (fun n t => n + t.rows * t.cols) 0

/-- Every chunk that a tensor touches is held. -/
def heldWhole (t : Tensor) (p : List (Nat × List Byte)) : Bool :=
  ((List.range ((t.length + chunkBytes - 1) / chunkBytes + 1)).map (t.payOff / chunkBytes + ·)).all fun c =>
    !touches t c || p.any fun e => e.1 == c

/-- V and the end token as R274 allows them. -/
def samplerValues (m : Manifest) (p : List (Nat × List Byte)) : Bool :=
  match samplerTensor m with
  | none => true
  | some t => decide (2 ≤ payNat p t.payOff 4) && decide (payNat p t.payOff 4 ≤ 262144) && payNat p (t.payOff + 8) 8 == 0

/-- What R201 asks of a tensor's content in chunk `c` of the payload. -/
def contentOk (m : Manifest) (p : List (Nat × List Byte)) (c : Nat) (t : Tensor) : Bool :=
  if !touches t c then true
  else match t.role with
    | 0 => t.format != 0 || (bytesIn t c).all (twByteOk t p)
    | 2 => ((bytesIn t c).filter fun o => (o - t.payOff) % 4 == 0).all fun o => decide (bitsSet (outlierMask t p ((o - t.payOff) / 4)) ≤ 4)
    | 3 => decide (t.length / 8 * 1024 ≤ layerWeights m t.layer) && (!heldWhole t p || patchSorted (patches t p))
    | 4 => t.id != 0xFFFFFFF0 || samplerValues m p
    | _ => true

/-- The payload's content in chunk `c` passes (R201). -/
def payloadOk (m : Manifest) (p : List (Nat × List Byte)) (c : Nat) : Bool := m.tensors.all (contentOk m p c)

end Sys2Proof.Machine
end

