-- ==== Sys2Proof/Machine/Weights.lean ====
section
/-! DEFINITION. Generations: loads, their slots and tiers, activation, draining, chunk reloads, programming of blocks
(09_weights.md R202 to R216, R224 to R229). -/

namespace Sys2Proof.Machine

/-! ## Pins, tiers and offsets -/

/-- The pin count of slot `g` (R211). -/
def pins (g : Nat) (s : State) : Nat := mainPins g s + draftPins g s

/-- The tiers a footprint takes at an offset (R209). -/
def tiersOf (fp off : Nat) : List Nat := if fp = 0 then [0, 1, 2, 3] else if fp = 1 then [off, off + 1] else [off]

/-- The offsets a footprint can have (R209). -/
def offsets (fp : Nat) : List Nat := if fp = 0 then [0] else if fp = 1 then [0, 2] else [0, 1, 2, 3]

/-- The tiers slots other than `skip` hold; a Tin Soldier container takes none of the service regions (R357). -/
def takenTiers (skip : List Nat) (s : State) : List Nat :=
  ((List.range 4).filter fun g => !skip.contains g && rd (WLD_GEN.state g) s != 0 && rd (WLD_GEN.gen g) s != 0xFFFF).flatMap fun g =>
    tiersOf (rd (WLD_GEN.footprint g) s) (rd (WLD_GEN.offset g) s)

/-- Rewrites of the rows of a tier over the part (R209). -/
def tierWear (t : Nat) (s : State) : Nat :=
  s.blocks.foldl (fun a p => p.2.rewrites.foldl (fun b e => if e.1 / 4096 = t then b + e.2 else b) a) 0

/-- The free offset with the lowest wear (R209, R212). -/
def freeOffset (fp : Nat) (skip : List Nat) (s : State) : Option Nat :=
  let taken := takenTiers skip s
  let ok := (offsets fp).filter fun o => (tiersOf fp o).all fun t => !taken.contains t
  let wear := fun o => (tiersOf fp o).foldl (fun a t => a + tierWear t s) 0
  ok.foldl (fun a o => match a with
    | none => some o
    | some b => if wear o < wear b then some o else a) none

/-! ## Freeing, draining, activation -/

/-- DRAINING slots whose pins are gone become FREE (R210, R213); a load that waited for one starts programming. -/
def freeDrained (s : State) : State :=
  let s := (List.range 4).foldl (fun a g =>
    if rd (WLD_GEN.state g) a = 4 ∧ pins g a = 0 then freeSlot g a else a) s
  match s.wld.load with
  | some l =>
    if l.displaces && l.phase == 3 && rd (WLD_GEN.state l.dispSlot) s == 0 then
      { s with wld := { s.wld with load := some { l with displaces := false, phase := 4 } } }
    else s
  | none => s

/-- No generation is ACTIVE from now on (R212, R228). -/
def noActive (s : State) : State :=
  wr WLD_ACTIVE.none 1 (wr WLD_ACTIVE.gen 0 (wr WLD_ACTIVE.step (boundaryStep s) s))

/-- A slot enters DRAINING (R210, R213). -/
def drainSlot (g deadline : Nat) (s : State) : State :=
  let st := rd (WLD_GEN.state g) s
  if st ≠ 2 ∧ st ≠ 3 then s
  else
    let s := setGenState g 4 (setGen g (fun x => { x with deadline := if deadline = 0 then param 0x10 2000 s else deadline }) s)
    if st = 3 then noActive s else s

/-- A slot enters READY with every layer on its primary entry (R127, R210). -/
def enterReady (g : Nat) (s : State) : State := setGenState g 2 (setGen g (fun x => { x with wide := [], calm := [] }) s)

/-- The ACTIVE slot goes back to READY unless it is `keep` (R211). -/
def standDown (keep : Nat) (s : State) : State :=
  match activeSlot s with
  | some o => if o = keep then s else enterReady o s
  | none => s

/-- WLD_ACTIVE reads what is in force again after a write that was ignored (R228). -/
def restoreActive (s : State) : State :=
  match activeSlot s with
  | some g => wr WLD_ACTIVE.slot g (wr WLD_ACTIVE.none 0 s)
  | none => wr WLD_ACTIVE.none 1 s

/-- The staged WLD_ACTIVE takes effect (R210, R228); the automatic end of Tin Soldier cause 0 (R371). -/
def applyActive (s : State) : State :=
  match s.wld.stagedActive with
  | none => s
  | some c =>
    let s := wr WLD_ACTIVE.pending 0 { s with wld := { s.wld with stagedActive := none } }
    match c with
    | none => noActive (standDown 4 s)
    | some g =>
      let st := rd (WLD_GEN.state g) s
      if st ≠ 2 ∧ st ≠ 3 then restoreActive (logIgnored .host WLD_ACTIVE g s)
      else
        let s := setGenState g 3 (standDown g s)
        let s := wr WLD_ACTIVE.slot g (wr WLD_ACTIVE.none 0 (wr WLD_ACTIVE.gen (rd (WLD_GEN.gen g) s)
          (wr WLD_ACTIVE.step (boundaryStep s) s)))
        tryLeaveTin (putTinBit 0 false s)

/-! ## Requests cut short at a boundary (R213, R261, R263) -/

/-- A request leaves every uncommitted step, with one retraction entry for what it had released (R261). -/
def dropParts (key : Nat) (s : State) : State :=
  let s := retractRequest key (uncommitted s) s
  let f := fun t : Step => { t with parts := t.parts.filter fun p => p.key != key }
  { s with srv := { s.srv with running := s.srv.running.map f, done := s.srv.done.map f, voids := s.srv.voids.map f } }

/-- A running request ends at once with a cause and without its uncommitted tokens (R11, R213, R263): it waits for no room in its ring. One
that had ended already keeps the cause it ended with. -/
def cutRequest (key cause : Nat) (s : State) : State :=
  match reqAt key s with
  | none => s
  | some r => finish key (r.endCause.getD cause) (dropParts key s)

/-- A running request fails without its uncommitted tokens; entries that are held go before its end (R260). -/
def failRequest (key cause : Nat) (s : State) : State :=
  match reqAt key s with
  | none => s
  | some r => if r.endCause.isSome then s else endRequest key cause (dropParts key s)

/-- The draft of a request is given up (R213): it goes on at depth 0. -/
def dropDraft (r : Request) (s : State) : State :=
  setReq r.key (fun r => { r with draft := 0, depth := 0
                                  frames := (needs { r with draft := 0 } s).1 }) s

/-- A slot's drain deadline has passed (R213): requests it serves end SUPERSEDED, drafts are released. -/
def expireSlot (g : Nat) (s : State) : State :=
  let main := s.srv.requests.filter fun r => r.running && decide (r.key < 16384) && r.slot == g
  let s := main.foldl (fun a r => cutRequest r.key 0x11 a) s
  let drafts := s.srv.requests.filter fun r => r.running && r.draft == 1 && r.draftSlot == g
  drafts.foldl (fun a r => dropDraft r a) s

/-- Staged generation changes at a boundary: drains, deadlines, activation, freed slots (R210 to R213, R228). -/
def latchGens (s : State) : State :=
  let s := s.wld.stagedDrain.foldl (fun a d => drainSlot d.1 d.2 a) s
  let s := { s with wld := { s.wld with stagedDrain := [] } }
  let s := s.wld.expired.foldl (fun a g => if rd (WLD_GEN.state g) a = 4 then expireSlot g a else a) s
  freeDrained (applyActive { s with wld := { s.wld with expired := [] } })

/-- The same at once while no step runs (R210, R249). -/
def settleGens (s : State) : State := if quietNow s then latchGens s else s

/-! ## Parcel frames of this part's own (R217 to R219) -/

/-- This part is the last of the chain (R219). -/
def isLast (s : State) : Bool := !(rdb WLD_PARCEL_STAT.out_up s && rdb WLD_PARCEL_CTL.fwd s)

/-- A frame of this part about a generation slot (R217): type, flags, chunk index, length of the content, ok. -/
def frameOf (type flags g index length ok : Nat) (s : State) : ParcelFrame :=
  let m := (genAt g s).manifest
  ⟨type, flags, rd WLD_PARCEL_STAT.hop s, (m.map (·.gen)).getD 0, 0, (m.map digest64).getD 0, index, length, ok, 0⟩

/-- What a type-0 or type-1 frame of a slot carries: the container header with the manifest, or a chunk (R217). -/
def frameContent (g index : Nat) (s : State) : List Byte :=
  if index = 0xFFFFFFFF then (genAt g s).header ++ (genAt g s).raw else tget [] (genAt g s).payload index

/-- A container header with its manifest, or a chunk, of slot `g` goes downstream (R217, R218). -/
def sendDown (flags g index : Nat) (s : State) : State :=
  let c := frameContent g index s
  send (.parcelFrame (frameOf (if index = 0xFFFFFFFF then 0 else 1) flags g index c.length 0 s) c) s

/-- The head sends what it fetched downstream, with hop 0 (R217). -/
def headSend (index : Nat) (s : State) : State :=
  match s.wld.load with
  | some l => if l.kind = 0 && !isLast s then sendDown 0 l.slot index (wr WLD_PARCEL_STAT.hop 0 s) else s
  | none => s

/-- A chunk of slot `g` is asked for again upstream (R203, R218). -/
def askUp (g index : Nat) (s : State) : State := send (.parcelFrame (frameOf 2 0 g index 0 0 s) []) s

/-- A lost chunk of a generation from the chain is asked for upstream (R203). -/
def askLost (g index : Nat) (s : State) : State := if (genAt g s).source.1 = 1 then askUp g index s else s

/-- The completion goes upstream once this part holds the whole container verified (R219). -/
def completeUp (s : State) : State :=
  match s.wld.chain with
  | none => s
  | some g =>
    if s.wld.upSent || !rdb (WLD_GEN.master g) s || (genAt g s).source.1 != 1 then s
    else
      let up := fun ok (s : State) => send (.parcelFrame (frameOf 3 0 g 0 0 ok s) []) { s with wld := { s.wld with upSent := true } }
      if isLast s then wr WLD_PARCEL_STAT.done 1 (wr WLD_PARCEL_STAT.ok 1 (up 1 s))
      else match s.wld.downDone with
        | some d => up d.ok s
        | none => s

/-- The slot that holds a verified copy of what a re-request names (R218). -/
def holdsFor (f : ParcelFrame) (s : State) : Option Nat :=
  (List.range 4).find? fun g => rd (WLD_GEN.gen g) s == f.gen && rd (WLD_GEN.state g) s != 0 &&
    match (genAt g s).manifest with
    | some m => digest64 m == f.digest && (f.index == 0xFFFFFFFF || (genAt g s).chunks.contains f.index)
    | none => false

/-- A re-request answered with a resend frame (R218). -/
def resend (f : ParcelFrame) (s : State) : State :=
  match holdsFor f s with
  | some g => sendDown 1 g f.index s
  | none => s

/-- Queued requests that can be answered now are (R218). -/
def answerQueued (s : State) : State :=
  let now := s.wld.queued.filter fun f => (holdsFor f s).isSome
  now.foldl (fun a f => resend f a) { s with wld := { s.wld with queued := s.wld.queued.filter fun f => (holdsFor f s).isNone } }

/-! ## The load (R210 to R216, R224) -/

/-- A load fails before it began (R224): nothing of a load in progress changes. -/
def rejectLoad (slot code : Nat) (s : State) : State :=
  log 8 3 0x0080 slot (leBytes 1 code ++ leBytes 1 0 ++ leBytes 2 (rd (WLD_GEN.gen slot) s) ++ leBytes 4 0)
    (wr WLD_STAT.err 1 (wr WLD_STAT.code code s))

/-- A LOAD accepted (R210, R216, R232). A FREE slot enters LOADING; one that may be resumed changes once the container has matched. -/
def acceptLoad (slot : Nat) (act dispEn : Bool) (dispSlot deadline : Nat) (s : State) : State :=
  let kind := rd WLD_SRC.kind s
  let addr := rd WLD_SRC.addr s
  let resume := rd (WLD_GEN.state slot) s != 0
  let l : Load := ⟨slot, act, dispEn, dispSlot, deadline, kind, addr, resume, false, [], false, 1⟩
  let s := { s with wld := { s.wld with load := some l } }
  let s := if resume then s else setGenState slot 1 (setGen slot (fun g => { g with source := (kind, addr) }) s)
  let s := wr WLD_STAT.busy 1 <| wr WLD_STAT.slot slot <| wr WLD_STAT.code 0 <| wr WLD_STAT.chunks_done 0 <| wr WLD_STAT.chunks_total 0 s
  if kind = 1 then
    setReg WLD_PARCEL_STAT (s.reg WLD_PARCEL_STAT &&& 3#64)
      { s with wld := { s.wld with upSent := false, downDone := none, queued := [], chain := some slot } }
  else s

/-- LOAD (R202, R210, R224). -/
def loadCommand (who : Master) (slot : Nat) (act dispEn : Bool) (dispSlot deadline value : Nat) (s : State) : State :=
  let st := rd (WLD_GEN.state slot) s
  let fits := st == 0 || st == 5 || (st == 1 && rdb (WLD_GEN.resident slot) s)
  let kind := rd WLD_SRC.kind s
  if s.wld.load.isSome then rejectLoad slot 1 s
  else if !fits then logIgnored who WLD_CMD value s
  else if kind = 3 ∨ (kind = 2 ∧ s.boot.lcs ≠ 1) then rejectLoad slot 10 s
  else acceptLoad slot act dispEn dispSlot deadline s

/-- RETIRE (R210, R213): READY or ACTIVE enters DRAINING at the next boundary. -/
def retireCommand (who : Master) (slot deadline value : Nat) (s : State) : State :=
  let st := rd (WLD_GEN.state slot) s
  if st = 2 ∨ st = 3 then
    settleGens { s with wld := { s.wld with stagedDrain := s.wld.stagedDrain ++ [(slot, deadline)] } }
  else logIgnored who WLD_CMD value s

/-- UNLOAD (R210). -/
def unloadCommand (who : Master) (slot value : Nat) (s : State) : State :=
  let st := rd (WLD_GEN.state slot) s
  let ok := (st == 2 && pins slot s == 0) || (st == 5 && s.wld.load.map (·.slot) != some slot)
    || (st == 1 && rdb (WLD_GEN.resident slot) s && s.wld.load.isNone)
  if ok then freeSlot slot s else logIgnored who WLD_CMD value s

/-- ABORT of the load in progress (R210, R226). -/
def abortCommand (who : Master) (slot value : Nat) (s : State) : State :=
  match s.wld.load with
  | some l => if l.slot = slot then endLoad 12 0 s else logIgnored who WLD_CMD value s
  | none => logIgnored who WLD_CMD value s

/-- RELOAD (R203, R224): WLD_SRC is the slot's new source. -/
def reloadCommand (who : Master) (slot value : Nat) (s : State) : State :=
  if rd (WLD_GEN.state slot) s = 0 ∨ 2 ≤ rd WLD_SRC.kind s then logIgnored who WLD_CMD value s
  else
    let s := setGen slot (fun g => { g with source := (rd WLD_SRC.kind s, rd WLD_SRC.addr s), sourceLost := false }) s
    (genAt slot s).reload.foldl (fun a c => askLost slot c a) s

/-- A write to WLD_CMD: it wakes the part (R488); it acts in SERVICE and TIN, and never under the ROM runner (R369, R507). -/
def wldCommand (who : Master) (value : Nat) (k : State → State) (s : State) : State :=
  byWriter who WLD_CMD value s fun s =>
    let s := wakePart 4 s
    if (inService s || inTin s) && !rdb GLB_STATE.rom_runner s then k s else logIgnored who WLD_CMD value s

/-- The value of WLD_CMD that a command spells (R224). -/
def cmdValue (cmd slot : Nat) (act dispEn : Bool) (dispSlot deadline : Nat) : Nat :=
  cmd + 16 * slot + 64 * act.toNat + 128 * dispEn.toNat + 256 * dispSlot + 1024 * deadline

/-- LOAD (R210). -/
def execLoad (who : Master) (slot : Fin 4) (activate dispEn : Bool) (dispSlot : Fin 4) (deadline : BitVec 16) (s : State) :
    Host.Outcome State Fault Refusal :=
  let v := cmdValue 1 slot.val activate dispEn dispSlot.val deadline.toNat
  .next (wldCommand who v (loadCommand who slot.val activate dispEn dispSlot.val deadline.toNat v) s)

/-- RETIRE (R210). -/
def execRetire (who : Master) (slot : Fin 4) (deadline : BitVec 16) (s : State) : Host.Outcome State Fault Refusal :=
  let v := cmdValue 2 slot.val false false 0 deadline.toNat
  .next (wldCommand who v (retireCommand who slot.val deadline.toNat v) s)

/-- UNLOAD (R210). -/
def execUnload (who : Master) (slot : Fin 4) (s : State) : Host.Outcome State Fault Refusal :=
  let v := cmdValue 3 slot.val false false 0 0
  .next (wldCommand who v (unloadCommand who slot.val v) s)

/-- ABORT (R210). -/
def execAbort (who : Master) (slot : Fin 4) (s : State) : Host.Outcome State Fault Refusal :=
  let v := cmdValue 4 slot.val false false 0 0
  .next (wldCommand who v (abortCommand who slot.val v) s)

/-- RELOAD (R203). -/
def execReload (who : Master) (slot : Fin 4) (s : State) : Host.Outcome State Fault Refusal :=
  let v := cmdValue 5 slot.val false false 0 0
  .next (wldCommand who v (reloadCommand who slot.val v) s)

/-! ## Manifest -/

/-- What the placement of a new generation comes to (R212): an offset, whether it waits for a displacement, or an error. -/
def placeGen (l : Load) (fp : Nat) (s : State) : Except Nat (Nat × Bool) :=
  match freeOffset fp [l.slot] s with
  | some o => .ok (o, false)
  | none =>
    if !l.dispEn then .error 5
    else
      let st := rd (WLD_GEN.state l.dispSlot) s
      if l.dispSlot = l.slot ∨ (st ≠ 2 ∧ st ≠ 3) then .error 6
      else match freeOffset fp [l.slot, l.dispSlot] s with
        | some o => .ok (o, true)
        | none => .error 9

/-- The checks made on the container header (R196, R202, R210, R216). -/
def headerError (l : Load) (h : LusonHeader) (s : State) : Option Nat :=
  if !headerOk h then some 2
  else if (h.kind == 1) != (l.kind == 2) then some 10
  else if l.resume then (if rd (WLD_GEN.gen l.slot) s = h.gen then none else some 13)
  else match slotOf h.gen s with
    | some g => if g = l.slot then none else some 8
    | none => none

/-- The digest of a resumed slot: its stored manifest's, else the one in the block journals (R207, R216). -/
def slotDigest (g : Nat) (s : State) : Option Nat :=
  match (genAt g s).manifest with
  | some m => some (digest12 m)
  | none => s.blocks.findSome? fun p => p.2.tiers.findSome? fun t =>
      if t.2.gen = rd (WLD_GEN.gen g) s then some t.2.digest else none

/-- A slot's chunks are all in HBM and verified. -/
def allChunks (g : Nat) (s : State) : Bool :=
  match (genAt g s).manifest with
  | some m => (genAt g s).verify.isEmpty && decide (m.chunks ≤ (genAt g s).chunks.length)
  | none => false

/-- The load's phase set. -/
def setPhase (n : Nat) (s : State) : State := { s with wld := { s.wld with load := s.wld.load.map fun l => { l with phase := n } } }

/-! ## Placement records (R32, R82) -/

/-- The column weight sums of every tile of a container on a logical block, by logical array (R82). -/
def blockSums (m : Manifest) (p : List (Nat × List Byte)) (region block : Nat) : List (Nat × List Int) :=
  (List.range (footArrays m.footprint)).filterMap fun a => (placedAt m region block a).map fun x => (a, x.sums p)

/-- The placement record of a container: every block's sums (R82). -/
def placementSums (m : Manifest) (p : List (Nat × List Byte)) : List (Nat × List Int) :=
  (genBlocks m).foldl (fun l k => (blockSums m p (k / 1280) (k % 1280)).foldl
    (fun l e => tset [] l (placeKey (k / 1280) (k % 1280) e.1) e.2) l) []

/-- The periphery's table and the placement record of the blocks a generation holds programmed are written from its master copy again
(R82, R204). -/
def rebuildSums (g : Nat) (s : State) : State :=
  match (genAt g s).manifest with
  | none => s
  | some m =>
    let shift := 128 * tierOffset g s
    let held := (mainBlocks m).filter (genAt g s).blocksDone.contains
    held.foldl (fun a k =>
      let r := physRegion (k / 1280) a
      let b := physBlock r (k % 1280) a
      (blockSums m (genAt g a).payload (k / 1280) (k % 1280)).foldl (fun a e =>
        { setGen g (fun x => { x with sums := tset [] x.sums (placeKey (k / 1280) (k % 1280) e.1) e.2 }) a with
          wsums := tset [] a.wsums (512 * blockKey r b + (e.1 + shift)) e.2 }) a) s

/-! ## Resuming (R216) -/

/-- Row 0 of the first array of every tier that a block holds complete of a generation matches the master copy (R216). -/
def readBackOk (gen key : Nat) (s : State) : Bool :=
  let r := physRegion (key / 1280) s
  let b := physBlock r (key % 1280) s
  let x := blockAt r b s
  (x.tiers.filter fun t => t.2.gen == gen && t.2.complete).all fun t =>
    match tierRow x.tiers (key / 1280) (key % 1280) (128 * t.1) 0 s with
    | some w => rowAt (rowKey r b (128 * t.1) 0) s == spareLevels (remapOf x (128 * t.1)) w
    | none => false

/-- A block whose read-back differs is to be programmed again from its first row (R216). -/
def reopenBlock (gen key : Nat) (s : State) : State :=
  let r := physRegion (key / 1280) s
  setBlock r (physBlock r (key % 1280) s) (fun b => { b with
    tiers := b.tiers.map fun t => (t.1, if t.2.gen = gen then { t.2 with complete := false } else t.2)
    untrusted := b.untrusted.filter fun k => !b.tiers.any fun t => t.1 == k / 4096 && t.2.gen == gen }) s

/-- The read-back of a resumed generation's blocks (R216). -/
def readBack (g : Nat) (s : State) : State :=
  let gen := rd (WLD_GEN.gen g) s
  let bad := (genAt g s).blocksDone.filter fun k => !readBackOk gen k s
  bad.foldl (fun a k => reopenBlock gen k a) (setGen g (fun x => { x with blocksDone := x.blocksDone.filter fun k => !bad.contains k }) s)

/-! ## Master copy, programming, READY -/

/-- The keep regions are to be programmed with a Tin Soldier container, region 51 first (R357, R520). -/
def handToKeep (m : Manifest) (p : List (Nat × List Byte)) (s : State) : State :=
  { s with tin := { s.tin with next := some m, nextPayload := p, reprogram := [51, 50] } }

/-- Every block of the load is programmed and checked and its master copy is complete (R206, R210). -/
def loadDone (l : Load) (m : Manifest) (s : State) : Bool :=
  if m.kind = 1 then s.tin.next.isNone && s.tin.reprogram.isEmpty
  else (mainBlocks m).all (genAt l.slot s).blocksDone.contains

/-- READY, and ACTIVE at the next boundary where asked (R210). A Tin Soldier container has become the keep model and its slot is free
again: the slots hold main generations (R15). -/
def loadReady (s : State) : State :=
  match s.wld.load with
  | none => s
  | some l =>
    match (genAt l.slot s).manifest with
    | none => s
    | some m =>
      if !(l.phase == 4 && loadDone l m s && allChunks l.slot s && rdb (WLD_GEN.master l.slot) s) then s
      else
        let s := wr WLD_STAT.busy 0 (wr WLD_STAT.done 1 { s with wld := { s.wld with load := none } })
        if m.kind = 1 then freeSlot l.slot s
        else
          let s := wr (WLD_GEN.resident l.slot) 0 (setGen l.slot (fun g => { g with programming := [] }) s)
          let s := enterReady l.slot s
          if l.activate then
            settleGens (wr WLD_ACTIVE.pending 1 { s with wld := { s.wld with stagedActive := some (some l.slot) } })
          else s

/-- The master copy of the load is complete (R20): a resumed generation's blocks are read back and its sums written again; programming
begins, or waits for the displaced slot (R212, R216). -/
def masterDone (l : Load) (s : State) : State :=
  let s := completeUp (wr (WLD_GEN.master l.slot) 1 s)
  let s := if l.resume then rebuildSums l.slot (readBack l.slot s) else s
  let s := match (genAt l.slot s).manifest with
    | some m => if m.kind = 1 then handToKeep m (genAt l.slot s).payload s else s
    | none => s
  if l.displaces then
    settleGens (setPhase 3 { s with wld := { s.wld with stagedDrain := s.wld.stagedDrain ++ [(l.dispSlot, l.deadline)] } })
  else setPhase 4 s

/-- What follows when the load's chunks are complete: for the first time, or after one was lost and came again (R20). -/
def chunksReady (s : State) : State :=
  match s.wld.load with
  | some l =>
    if !l.verified || !allChunks l.slot s || rdb (WLD_GEN.master l.slot) s then s
    else loadReady (if l.phase = 2 then masterDone l s else wr (WLD_GEN.master l.slot) 1 s)
  | none => s

/-- A verified manifest is taken up (R207, R216, R226, R227). -/
def takeManifest (l : Load) (h : LusonHeader) (m : Manifest) (header raw : List Byte) (place : Nat × Bool) (s : State) : State :=
  let s := setGen l.slot (fun g => { g with
    manifest := some m, header, raw, source := (l.kind, l.addr), sourceLost := false
    verify := g.verify ++ g.chunks, chunks := [], reload := []
    payload := if l.resume then g.payload else [], sums := if l.resume then g.sums else []
    blocksDone := if l.resume then g.blocksDone else [], wrote := l.resume && g.wrote }) s
  let s := wr (WLD_GEN.gen l.slot) h.gen (wr (WLD_GEN.footprint l.slot) h.footprint s)
  let s := if l.resume then s else wr (WLD_GEN.offset l.slot) place.1 s
  let s := wr (WLD_GEN.master l.slot) 0 (setGenState l.slot 1 s)
  let s := { s with wld := { s.wld with load := some { l with verified := true, displaces := place.2, phase := 2 } } }
  chunksReady (answerQueued (headSend 0xFFFFFFFF (wr WLD_STAT.chunks_total h.chunks s)))

/-- A container header and manifest arrive for the load in progress (R196 to R201, R210, R212, R216). -/
def manifestArrives (header raw : List Byte) (pageBytes : Nat) (s : State) : State :=
  match s.wld.load with
  | none => s
  | some l =>
    let h := parseHeader header
    let m := parseManifest raw pageBytes
    if l.verified then s
    else match headerError l h s with
      | some c => endLoad c 0 s
      | none =>
        match (if l.resume || h.kind = 1 then .ok (0, false) else placeGen l h.footprint s) with
        | .error c => endLoad c 0 s
        | .ok place =>
          if !signedOk m s then endLoad 3 0 s
          else if l.resume && slotDigest l.slot s != some (digest12 m) then endLoad 13 0 s
          else if !manifestOk h m then endLoad 7 0 s
          else takeManifest l h m header raw place s

/-- MANIFEST_FETCHED (R198): the bytes of the container header and of the manifest, of a load from host memory or the boot NVM. -/
def execManifestFetched (header manifest : List Byte) (pageBytes : Nat) (s : State) : Host.Outcome State Fault Refusal :=
  .next (match s.wld.load with
    | some l => if l.kind = 1 || (l.kind == 0 && !hostReach s) then s else manifestArrives header manifest pageBytes s
    | none => s)

/-! ## Chunks -/

/-- A source can be read now: host memory only with the link up and Bus Master Enable set (R414). -/
def sourceOpen (kind : Nat) (s : State) : Bool := kind != 0 || hostReach s

/-- The slot that waits for a chunk to be reloaded from a source that answers (R20, R203). -/
def reloadSlot (index : Nat) (s : State) : Option Nat :=
  (List.range 4).find? fun g => (genAt g s).reload.contains index && !(genAt g s).sourceLost
    && sourceOpen (genAt g s).source.1 s

/-- A chunk's bytes have the hash the manifest gives them (R197, R201). -/
def hashOk (m : Manifest) (index : Nat) (b : List Byte) : Bool :=
  match m.hashes[index]? with
  | some h => decide (index < m.chunks) && sha512 b == h
  | none => false

/-- A generation whose chunks had all matched before one was lost has them all again: its master copy is complete (R20, R227). -/
def copyWhole (g : Nat) (s : State) : State :=
  if allChunks g s && (genAt g s).reload.isEmpty then wr (WLD_GEN.master g) 1 s else s

/-- A slot after a reset is READY again once every chunk has matched (R215), or ACTIVE as before; one with a block that was never
programmed is INCOMPLETE. -/
def reverified (g : Nat) (s : State) : State :=
  if (s.wld.load.map (·.slot)) = some g then chunksReady s
  else if rd (WLD_GEN.state g) s = 1 && rdb (WLD_GEN.resident g) s && allChunks g s && (genAt g s).reload.isEmpty then
    let s := rebuildSums g (wr (WLD_GEN.master g) 1 (wr (WLD_GEN.resident g) 0 s))
    let whole := match (genAt g s).manifest with
      | some m => (mainBlocks m).all (genAt g s).blocksDone.contains
      | none => false
    if !whole then setGenState g 5 s
    else
      let s := enterReady g s
      if (genAt g s).wasActive then
        let s := setGen g (fun x => { x with wasActive := false }) s
        settleGens (wr WLD_ACTIVE.pending 1 { s with wld := { s.wld with stagedActive := some (some g) } })
      else s
  else copyWhole g s

/-- A reloaded chunk arrives, or its address is unreachable (R20, R203): one that fails is logged and waits for RELOAD. MVMs held for it go
on. -/
def reloadArrives (g index : Nat) (bytes : Option (List Byte)) (s : State) : State :=
  let good := match bytes, (genAt g s).manifest with
    | some b, some m => hashOk m index b
    | _, _ => false
  if good then
    let s := setGen g (fun x => { x with
      reload := x.reload.filter (· != index), payload := tset [] x.payload index (bytes.getD [])
      chunks := if x.chunks.contains index then x.chunks else x.chunks ++ [index] }) s
    let s := (List.range 52).foldl (fun a r => releaseEngine r a) (answerQueued s)
    settle (reverified g s)
  else log 8 3 0x0081 g (leBytes 4 index) (setGen g (fun x => { x with sourceLost := true }) s)

/-- A chunk of the load arrives and is good or ends it (R201). -/
def loadChunk (l : Load) (index : Nat) (bytes : List Byte) (s : State) : State :=
  match (genAt l.slot s).manifest with
  | none => s
  | some m =>
    let p := tset [] (genAt l.slot s).payload index bytes
    if !l.verified || decide (m.chunks ≤ index) || (genAt l.slot s).chunks.contains index then s
    else if !hashOk m index bytes then endLoad 4 index s
    else if !payloadOk m p index then endLoad 7 index s
    else
      let s := setGen l.slot (fun g => { g with
        chunks := g.chunks ++ [index], verify := g.verify.filter (· != index), payload := p }) s
      chunksReady (answerQueued (headSend index (incHold WLD_STAT.chunks_done 1 s)))

/-- CHUNK_FETCHED (R201, R203): a reload where one waits for this chunk, else a chunk of the load. A load that is paused fetches
nothing (R414); no bytes: the source's address is unreachable. -/
def execChunkFetched (index : Nat) (bytes : Option (List Byte)) (s : State) : Host.Outcome State Fault Refusal :=
  .next <|
    match reloadSlot index s with
    | some g => reloadArrives g index bytes s
    | none => match s.wld.load with
      | some l =>
        if l.kind = 1 || !sourceOpen l.kind s then s
        else match bytes with
          | some b => loadChunk l index b s
          | none => endLoad 11 index s
      | none => s

/-- Re-verification is over and left no generation that can be ACTIVE: Tin Soldier cause 0 (R215, R360, R515). -/
def lastReverified (s : State) : State :=
  let open_ := (List.range 4).any fun g =>
    let st := rd (WLD_GEN.state g) s
    st == 2 || st == 3 || !(genAt g s).verify.isEmpty || !(genAt g s).reload.isEmpty
  if open_ || s.wld.load.isSome || s.wld.stagedActive.isSome then s else raiseTin 0 s

/-- CHUNK_REVERIFIED (R215, R216): a chunk held in HBM is hashed again; one that differs is fetched again. -/
def execChunkReverified (slot : Fin 4) (index : Nat) (s : State) : Host.Outcome State Fault Refusal :=
  .next <|
    if !(genAt slot.val s).verify.contains index then s
    else
      let matched := match (genAt slot.val s).manifest with
        | some m => hashOk m index (tget [] (genAt slot.val s).payload index)
        | none => false
      let loading := (s.wld.load.map (·.slot)) == some slot.val
      let s := setGen slot.val (fun g => { g with
        verify := g.verify.filter (· != index)
        chunks := if matched then g.chunks ++ [index] else g.chunks
        payload := if matched then g.payload else tset [] g.payload index []
        reload := if matched || loading then g.reload else g.reload ++ [index] }) s
      let s := if loading && matched then incHold WLD_STAT.chunks_done 1 s else s
      let s := if matched then answerQueued s else askLost slot.val index s
      lastReverified (reverified slot.val s)

/-- Every block of the load in progress is written: only checks remain (R206, R226). -/
def onlyChecks (l : Load) (s : State) : Bool :=
  l.phase == 4 && match (genAt l.slot s).manifest with
  | none => false
  | some m => m.kind == 0 && (mainBlocks m).all fun k =>
      (genAt l.slot s).blocksDone.contains k ||
        (match (blockAt (physRegion (k / 1280) s) (physBlock (physRegion (k / 1280) s) (k % 1280) s) s).journal with
          | some j => j.op == 1 && j.row == 16384
          | none => false)

/-- WLD_STAT.phase (R215, R226): 6 while a generation is verified again, else that of the load. -/
def wldPhase (s : State) : Nat :=
  if (List.range 4).any fun g => !(genAt g s).verify.isEmpty then 6
  else match s.wld.load with
    | some l => if onlyChecks l s then 5 else l.phase
    | none => 0

/-! ## WLD_ACTIVE and drains -/

/-- WLD_ACTIVE written (R228). -/
def wldActiveWrite (w : Write) (s : State) : State :=
  guarded WLD_ACTIVE w s fun s =>
    let g := wbits WLD_ACTIVE.slot w s
    let off := wbits WLD_ACTIVE.none w s != 0
    let st := rd (WLD_GEN.state g) s
    if w.half = .upper then s
    else if !off && st != 2 && st != 3 then logIgnored w.who WLD_ACTIVE w.data.toNat s
    else
      let s := wr WLD_ACTIVE.pending 1 (wtake WLD_ACTIVE.none w (wtake WLD_ACTIVE.slot w s))
      settleGens { s with wld := { s.wld with stagedActive := some (if off then none else some g) } }

/-- WLD_ACTIVE_WRITE (R228). -/
def execWldActiveWrite (w : Write) (s : State) : Host.Outcome State Fault Refusal := .next (wldActiveWrite w s)

/-- DRAIN_DEADLINE (R213): acts at the first boundary after it. -/
def execDrainDeadline (slot : Fin 4) (s : State) : Host.Outcome State Fault Refusal :=
  .next <|
    if rd (WLD_GEN.state slot.val) s = 4 then
      settleGens { s with wld := { s.wld with expired := s.wld.expired ++ [slot.val] } }
    else s

end Sys2Proof.Machine
end

