-- ==== Sys2Proof/Machine/Program.lean ====
section
/-! DEFINITION. Programming of blocks: loads, spare blocks and regions, keep regions, drift rewrites (09_weights.md R204 to R209, R229;
08_calibration.md R183; 12_integrity.md R306, R315; 19_boot_security.md R520). -/

namespace Sys2Proof.Machine

/-! ## What is to be programmed (R205, R206) -/

/-- The key of the logical block whose weights a block is to hold: 1,280 × logical region + logical block. -/
def logicalKey (region block : Nat) (s : State) : Nat := 1280 * (placeOf region block s).1 + (placeOf region block s).2

/-- The logical block a spare is being written for, and the physical block it replaces (R306, R315). -/
def spareJob (region block : Nat) (s : State) : Option (Nat × Nat) :=
  match (regionAt region s).spareFor.find? fun p => p.2 == block with
  | some p => some (region, physBlock region p.1 s)
  | none => match (regionAt region s).bringUp with
    | some l => some (physRegion l s, physBlock (physRegion l s) (logBlock region block s) s)
    | none => none

/-- The master copy a tier is written from is complete (R20, R358). -/
def tierReady (t : Tier) (s : State) : Bool := if t.gen = 0xFFFF then s.tin.master || s.tin.next.isSome else masterHeld t.gen s

/-- The tiers a spare is still to be given: those of the block it replaces that it does not hold complete. -/
def missingTiers (region block : Nat) (src : Nat × Nat) (s : State) : List (Nat × Tier) :=
  (tiersToCopy (blockAt src.1 src.2 s) s).filter fun t =>
    !(blockAt region block s).tiers.any fun u => u.1 == t.1 && u.2.gen == t.2.gen && u.2.complete

/-- A spare's programming can start: something is missing and every master copy it needs is complete. -/
def spareReady (region block : Nat) (s : State) : Bool :=
  match spareJob region block s with
  | none => false
  | some src =>
    let ts := missingTiers region block src s
    let b := blockAt region block s
    b.journal.isNone && !b.retired && (ts.all fun t => tierReady t.2 s)
      && (!ts.isEmpty || (regionAt region s).spareFor.any fun p => p.2 == block)

/-- The physical blocks that are to be programmed as spares (R306, R315). -/
def spareBlocks (s : State) : List (Nat × Nat) :=
  s.regions.flatMap fun p =>
    (p.2.spareFor.map fun q => (p.1, q.2)) ++
      (if p.2.bringUp.isSome then (List.range 1280).map fun b => (p.1, physBlock p.1 b s) else [])

/-- Spares that wait and could start. -/
def sparesWaiting (s : State) : List (Nat × Nat) := (spareBlocks s).filter fun x => spareReady x.1 x.2 s

/-- The manifest that keep regions are programmed with (R520): an update's while no region holds it. -/
def keepModel (s : State) : Option Manifest :=
  match s.tin.next with
  | some m => some m
  | none => s.tin.model

/-- A block of a keep region holds the model's tiers. -/
def keepHolds (m : Manifest) (region block : Nat) (s : State) : Bool :=
  (blockAt region block s).tiers.any fun t => t.2.gen == 0xFFFF && t.2.complete && t.2.digest == digest12 m

/-- A keep region is being programmed with a new Tin Soldier container, and the block belongs to it and comes next (R205, R520): during boot
either region, after it one at a time while the other serves. -/
def forKeep (region block : Nat) (s : State) : Bool :=
  s.tin.reprogram.contains region && (rd BOOT_STAT.stage s != 5 || s.tin.reprogram.head? == some region) &&
    match keepModel s with
    | some m =>
      let l := logBlock region block s
      let waits := fun k => !keepHolds m region (physBlock region k s) s && (blockAt region (physBlock region k s) s).journal.isNone
        && !(blockAt region (physBlock region k s) s).retired
      (genBlocks m).contains l && waits l && (genBlocks m).all fun k => decide (l ≤ k) || !waits k
    | none => false

/-- A generation in use has arrays on the block (R206): one that is READY, ACTIVE or DRAINING, in a mode that runs main generations. -/
def blockInUse (region block : Nat) (s : State) : Bool :=
  !inTin s && (List.range 4).any fun g =>
    let st := rd (WLD_GEN.state g) s
    decide (2 ≤ st) && decide (st ≤ 4) &&
      match (genAt g s).manifest with
      | some m => (mainBlocks m).contains (logicalKey region block s)
      | none => false

/-- The load in progress has still to program a logical block, and its physical block is fit for it (R205). -/
def loadWants (key : Nat) (s : State) : Bool :=
  match s.wld.load with
  | some l =>
    let g := genAt l.slot s
    let r := physRegion (key / 1280) s
    l.phase == 4 && !g.blocksDone.contains key && !g.programming.contains key
      && !(blockAt r (physBlock r (key % 1280) s) s).retired &&
      match g.manifest with
      | some m => (mainBlocks m).contains key
      | none => false
  | none => false

/-- The block of a logical key waits to be stood in before it can be programmed (R206). -/
def waitsCover (key : Nat) (s : State) : Bool :=
  let r := physRegion (key / 1280) s
  let b := physBlock r (key % 1280) s
  blockInUse r b s && (blockAt r b s).want.contains .program && !(blockAt r b s).stood

/-- The load's next block in ascending order (R205): none before it waits for anything but its stand-in. -/
def loadTurn (key : Nat) (s : State) : Bool :=
  match s.wld.load with
  | some l =>
    match (genAt l.slot s).manifest with
    | some m => (mainBlocks m).all fun k => decide (key ≤ k) || !loadWants k s || waitsCover k s
    | none => false
  | none => false

/-- A physical block serves the logical one of its key: it is no spare in waiting and no retired block. -/
def servesKey (region block : Nat) (s : State) : Bool :=
  decide (region < 50) && physBlock region (logBlock region block s) s == block
    && physRegion (logRegion region s) s == region && decide (logRegion region s < 48)

/-- The load in progress programs this block next (R205, R206). -/
def forLoad (region block : Nat) (s : State) : Bool :=
  servesKey region block s && loadWants (logicalKey region block s) s && loadTurn (logicalKey region block s) s

/-! ## Starting (R205 to R208) -/

/-- Tiers of a block opened (R207). -/
def openTiers (region block : Nat) (ts : List (Nat × Tier)) (s : State) : State :=
  setBlock region block (fun b => { b with
    tiers := (b.tiers.filter fun x => !ts.any fun t => t.1 == x.1) ++ ts.map fun t => (t.1, { t.2 with complete := false }) }) s

/-- The arrays whose rows an operation writes: those due for a rewrite, else those of open tiers (R183, R207). -/
def jobArrays (op : Nat) (b : Block) : List Nat :=
  if op = 2 then b.due
  else (b.tiers.filter fun t => !t.2.complete).flatMap fun t => (List.range 128).map fun a => 128 * t.1 + a

/-- The tiers are open for the same generation already: its programming is resumed (R216). -/
def resumes (b : Block) (ts : List (Nat × Tier)) : Bool :=
  ts.all fun t => b.tiers.any fun u => u.1 == t.1 && u.2.gen == t.2.gen && u.2.digest == t.2.digest

/-- The first row to write: resuming, the first untrusted row of the open tiers, else their first (R208, R216). -/
def firstRow (again : Bool) (b : Block) (arrays : List Nat) : Nat :=
  let own := b.untrusted.filter fun k => arrays.contains (k / 32)
  if again && !own.isEmpty then own.foldl min (own.headD 0) else firstRowOf arrays

/-- Programming of a block begins with its journal entry (R207, R208). -/
def beginProgram (region block op gen : Nat) (ts : List (Nat × Tier)) (s : State) : State :=
  let again := resumes (blockAt region block s) ts
  let s := openTiers region block (if again then [] else ts) s
  setBlock region block (fun b => { b with journal := some ⟨op, firstRow again b (jobArrays op b), gen⟩ }) s

/-- The tiers of a generation with a footprint at an offset (R207, R209). -/
def genTiers (gen fp off digest : Nat) : List (Nat × Tier) := (tiersOf fp off).map fun i => (i, ⟨gen, false, fp, digest⟩)

/-- The block of a load starts (R205, R206): one in use is stood in first. -/
def startLoadBlock (region block : Nat) (s : State) : State :=
  match s.wld.load with
  | none => s
  | some l =>
    let s := if blockInUse region block s && !(blockAt region block s).stood then
        settle (wantBlock region block .program s) else s
    if blockInUse region block s && !(blockAt region block s).stood then s
    else
      let gen := rd (WLD_GEN.gen l.slot) s
      let d := match (genAt l.slot s).manifest with | some m => digest12 m | none => 0
      let s := setGen l.slot (fun g => { g with programming := g.programming ++ [logicalKey region block s] }) s
      beginProgram region block 1 gen (genTiers gen (rd (WLD_GEN.footprint l.slot) s) (rd (WLD_GEN.offset l.slot) s) d) s

/-- A block of a keep region starts (R357, R520). -/
def startKeepBlock (region block : Nat) (s : State) : State :=
  match keepModel s with
  | none => s
  | some m => beginProgram region block 1 0xFFFF (genTiers 0xFFFF m.footprint 0 (digest12 m)) s

/-- A spare starts (R306, R315): the tiers it is still to be given. -/
def startSpare (region block : Nat) (s : State) : State :=
  match spareJob region block s with
  | none => s
  | some src => beginProgram region block 3 0 (missingTiers region block src s) s

/-- BLOCK_PROGRAM_START (R205, R206): spares first, then the load and the keep regions, each in ascending order; nothing where the block has
nothing to program or its turn has not come, the limit is reached, or it still has to be stood in. -/
def execBlockProgramStart (region : Fin 52) (block : Fin 1312) (s : State) : Host.Outcome State Fault Refusal :=
  .next <|
    let waiting := sparesWaiting s
    let now := programmingNow s
    if (blockAt region.val block.val s).journal.isSome then s
    else if waiting.contains (region.val, block.val) then
      if decide (now < programLimit s) && (waiting.all fun x => decide (logicalKey region.val block.val s ≤ logicalKey x.1 x.2 s)) then
        startSpare region.val block.val s
      else s
    else if programLimit s ≤ now + waiting.length then s
    else if forKeep region.val block.val s then startKeepBlock region.val block.val s
    else if forLoad region.val block.val s then startLoadBlock region.val block.val s
    else s

/-! ## Rows (R28, R43, R204, R208) -/

/-- The word a row is programmed to: the levels of the tier's generation, with the spare columns as assigned (R28, R43, R183). -/
def programmedRow (region block array row : Nat) (s : State) : Word :=
  let b := blockAt region block s
  let l := placeOf region block s
  spareLevels (nextMap b array) ((tierRow b.tiers l.1 l.2 array row s).getD (rowAt (rowKey region block array row) s))

/-- The weight-sum table of the periphery and the placement record as an array completes (R32, R82, R204). -/
def writeSums (region block array : Nat) (s : State) : State :=
  let b := blockAt region block s
  let l := placeOf region block s
  match b.tiers.find? fun t => t.1 == array / 128 && t.2.gen != 0 with
  | none => s
  | some t =>
    match tierTile t.2 l.1 l.2 array s with
    | none => s
    | some x =>
      let w := x.1.sums x.2
      let s := { s with wsums := tset [] s.wsums (512 * blockKey region block + array) w }
      match slotOf t.2.gen s with
      | some g => setGen g (fun y => { y with sums := tset [] y.sums (placeKey l.1 l.2 (array - 128 * tierOffset g s)) w }) s
      | none => s

/-- A tier is complete once its last row is written (R208). -/
def closeTier (array row : Nat) (b : Block) : Block :=
  if array % 128 = 127 ∧ row = 31 then
    { b with tiers := b.tiers.map fun t => (t.1, if t.1 = array / 128 then { t.2 with complete := true } else t.2) }
  else b

/-- A row written and verified (R204, R208): the journal names the next one, 16,384 after the last. -/
def writeRow (region block array row : Nat) (j : Journal) (s : State) : State :=
  let k := 32 * array + row
  let s := incWrap WLD_PROG.rows 1 (setRow (rowKey region block array row) (programmedRow region block array row s) s)
  let s := if row = 31 then writeSums region block array s else s
  setBlock region block (fun b => closeTier array row { b with
    journal := some { j with row := rowAfter (jobArrays j.op b) k }, untrusted := b.untrusted.filter (· != k)
    rewrites := tset 0 b.rewrites k (tget 0 b.rewrites k + 1), written := tset 0 b.written array s.now }) s

/-- A block whose programming stops because it is retired is off the load's list: its spare goes on with it (R206). -/
def dropRetired (region block key : Nat) (s : State) : State :=
  match s.wld.load with
  | some l => if (blockAt region block s).retired then
      setGen l.slot (fun g => { g with programming := g.programming.filter (· != key) }) s else s
  | none => s

/-- ROW_PROGRAMMED (R171, R204, R208): the row the journal names is written and verified; a column with a cell that does not verify is
given a spare (R42). Any other row: nothing. -/
def execRowProgrammed (region : Fin 52) (block : Fin 1312) (array : Fin 512) (row : Fin 32) (excluded : BitVec 32) (s : State) :
    Host.Outcome State Fault Refusal :=
  .next <|
    match (blockAt region.val block.val s).journal with
    | none => s
    | some j =>
      if j.row ≠ 32 * array.val + row.val then s
      else
        let key := logicalKey region.val block.val s
        let s := writeRow region.val block.val array.val row.val j s
        let s := match s.wld.load with
          | some l => if j.op = 1 && decide (region.val < 50) then setGen l.slot (fun g => { g with wrote := true }) s else s
          | none => s
        let bad := (List.range 32).filter fun c => excluded.getLsbD c
        dropRetired region.val block.val key
          (remapColumns region.val block.val (bad.map fun c => 32 * array.val + c) s)

/-! ## Completion (R206) -/

/-- A spare takes over the role of the block it replaces at the next boundary (R306). -/
def finishSpare (region block : Nat) (s : State) : State :=
  match (regionAt region s).spareFor.find? fun p => p.2 == block with
  | none => s
  | some p =>
    let s := setBlock region block (fun b => { b with swept := true }) s
    setRegion region (fun r => { r with
      spareFor := r.spareFor.filter fun q => q.2 != block, mapNext := r.mapNext ++ [(p.1, block)] }) s

/-- A logical block of the load is programmed and checked, on a block that holds the load's generation. -/
def markDone (region block : Nat) (s : State) : State :=
  match s.wld.load with
  | none => s
  | some l =>
    let key := logicalKey region block s
    let gen := rd (WLD_GEN.gen l.slot) s
    let listed := match (genAt l.slot s).manifest with | some m => (mainBlocks m).contains key | none => false
    let holds := (blockAt region block s).tiers.any fun t => t.2.gen == gen && t.2.complete
    if !listed || !holds then s
    else loadReady (setGen l.slot (fun g => { g with
      programming := g.programming.filter (· != key)
      blocksDone := if g.blocksDone.contains key then g.blocksDone else g.blocksDone ++ [key] }) s)

/-- The model an update brought is in use once a region holds it, or no keep region is usable (R367, R520). -/
def switchModel (s : State) : State :=
  let usable := [50, 51].filter fun p => !regionDown p s
  let s := match s.tin.next with
    | some m =>
      if usable.isEmpty || decide (s.tin.reprogram.length < usable.length) then
        wr BOOT_STAT.no_tin 0 { s with tin := { s.tin with
          model := some m, payload := s.tin.nextPayload, sums := placementSums m s.tin.nextPayload
          master := false, next := none, nextPayload := [] } }
      else s
    | none => s
  { s with tin := { s.tin with region := keepInUse s } }

/-- Keep regions whose blocks are all complete leave the reprogram list (R520); the load of a Tin Soldier container may be over. -/
def keepDone (s : State) : State :=
  match keepModel s with
  | none => s
  | some m =>
    let whole := fun p : Nat => (genBlocks m).all fun b => keepHolds m p (physBlock p b s) s
    loadReady (switchModel { s with tin := { s.tin with reprogram := s.tin.reprogram.filter fun p => !whole p } })

/-- The pass and the vector set after the last row (R206): whether the block meets its bound, and the state after them. -/
def checkBlock (region block : Nat) (s : State) : Bool × State :=
  let s := fullPass region block (setBlock region block (fun b => { b with overCheck := false }) s)
  let fitFailed := (blockAt region block s).overCheck
  let x := if knownBlock region block s then runSet region block (readableArrays region block s) s
    else (⟨none, false, [], []⟩, s)
  (!fitFailed && !x.1.above, unwantBlock region block .overBound x.2)

/-- The tiers an operation wrote are open again. -/
def reopen (j : Journal) (b : Block) : Block :=
  { b with tiers := b.tiers.map fun t : Nat × Tier =>
      if t.2.gen = j.gen ∨ (j.op = 3 ∧ t.2.gen ≠ 0) then (t.1, { t.2 with complete := false }) else t }

/-- A block that fails its checks is written once more, and retired where that was the second time (R176, R206). -/
def programFailed (region block : Nat) (j : Journal) (second : Bool) (s : State) : State :=
  if second then retireBlock region block s
  else setBlock region block (fun b =>
    let b := reopen j b
    { b with overCheck := true, journal := some { j with row := firstRowOf (jobArrays j.op b) } }) s

/-- What a block that passed its checks leads to: its spare's role, the load, the keep region (R206, R306, R520). -/
def programDone (region block op : Nat) (s : State) : State :=
  let s := unwantBlock region block .program (setBlock region block (fun b => { b with journal := none, overCheck := false, drift := [] }) s)
  let s := if op = 3 then markDone region block (finishSpare region block s) else markDone region block s
  settle (if 50 ≤ region then keepDone s else s)

/-- BLOCK_PROGRAM_COMPLETE (R206): the pass and the vector set of a block whose rows are all written; a rewrite ends with
REWRITE_COMPLETE. -/
def execBlockProgramComplete (region : Fin 52) (block : Fin 1312) (s : State) : Host.Outcome State Fault Refusal :=
  .next <|
    match (blockAt region.val block.val s).journal with
    | none => s
    | some j =>
      if j.op = 2 ∨ j.row ≠ 16384 then s
      else
        let second := (blockAt region.val block.val s).overCheck
        let key := logicalKey region.val block.val s
        let x := checkBlock region.val block.val s
        if (blockAt region.val block.val x.2).retired then dropRetired region.val block.val key x.2
        else if x.1 then programDone region.val block.val j.op x.2
        else dropRetired region.val block.val key (programFailed region.val block.val j second x.2)

/-! ## The journal's header row (R207) -/

/-- The minutes since the block's oldest row was last written. -/
def rowAge (b : Block) (s : State) : Nat := (s.now - oldestRow b) / (60 * second)

/-- The state code of a tier (R207). -/
def tierWord (t : Option Tier) : Nat :=
  match t with
  | none => 0
  | some t => t.gen + 2 ^ 16 * (if t.complete then 2 else 1) + 2 ^ 18 * t.footprint + 2 ^ 20 * t.digest

/-- The 256 bits of a block's header row (R207), from the journal, the age and the tiers. -/
def headerRow (region block : Nat) (s : State) : BitVec 256 :=
  let b := blockAt region block s
  let j := match b.journal with
    | some j => j.op + 2 ^ 2 * (j.row / 32 % 512) + 2 ^ 11 * (j.row % 32) + 2 ^ 16 * j.gen
    | none => 0
  BitVec.ofNat 256 (j + 2 ^ 32 * (rowAge b s % 2 ^ 32)
    + (List.range 4).foldl (fun a t => a + 2 ^ (128 + 32 * t) * tierWord ((b.tiers.find? fun x => x.1 == t).map Prod.snd)) 0)

end Sys2Proof.Machine
end

