-- ==== Sys2Proof/Machine/Nvm.lean ====
section
/-! DEFINITION. The boot NVM: its header, its items, how its sectors are read and programmed (19_boot_security.md R504, R505, R518, R520;
22_board.md R574). -/

namespace Sys2Proof.Machine

/-! ## Bytes -/

/-- The bytes of one sector from `lo` on, at most `n`; what is not programmed reads 0xFF. -/
def sectorPart (v : Nvm) (k lo n : Nat) : List Byte :=
  let b := ((tget [] v.sectors k).drop lo).take n
  b ++ List.replicate (n - b.length) 0xFF

/-- `n` bytes from `a` on, over at most `fuel` sectors. -/
def nvmRead (v : Nvm) : Nat → Nat → Nat → List Byte
  | 0, _, _ => []
  | fuel + 1, a, n =>
    let k := min n (4096 - a % 4096)
    sectorPart v (a / 4096) (a % 4096) k ++ nvmRead v fuel (a + k) (n - k)

/-- `n` bytes from `a` on. -/
def nvmBytes (v : Nvm) (a n : Nat) : List Byte := nvmRead v (n / 4096 + 2) a n

/-- A part of a sector programmed from `lo` on: what stood behind it is erased with the sector (R520). -/
def programSector (k lo : Nat) (l : List Byte) (v : Nvm) : Nvm :=
  { v with sectors := tset [] v.sectors k (sectorPart v k 0 lo ++ l) }

/-- Bytes programmed from `a` on, over at most `fuel` sectors. -/
def nvmProgram : Nat → Nat → List Byte → Nvm → Nvm
  | 0, _, _, v => v
  | fuel + 1, a, l, v =>
    if l.isEmpty then v
    else
      let k := 4096 - a % 4096
      nvmProgram fuel (a + k) (l.drop k) (programSector (a / 4096) (a % 4096) (l.take k) v)

/-! ## The header (R504) -/

/-- An item of the boot header: 1 firmware, 2 record, 3 Tin Soldier container. Its offset and its length, 0 where it is absent. -/
def itemOffset (item : Nat) (v : Nvm) : Nat := listNat (nvmBytes v 0 64) (8 * item) 4

/-- The length of an item; 0: absent. -/
def itemLength (item : Nat) (v : Nvm) : Nat := listNat (nvmBytes v 0 64) (8 * item + 4) 4

/-- The size of the device in bytes. -/
def nvmSize (v : Nvm) : Nat := 2 ^ v.log2Size

/-- An item lies on the device, clear of the header and of a later item (R504). -/
def itemClear (item : Nat) (v : Nvm) : Bool :=
  let a := itemOffset item v
  let n := itemLength item v
  n == 0 || (decide (64 ≤ a) && decide (a + n ≤ nvmSize v) && [1, 2, 3].all fun j =>
    j == item || itemLength j v == 0 || decide (a + n ≤ itemOffset j v) || decide (itemOffset j v + itemLength j v ≤ a))

/-- The header is usable (R504). -/
def headerUsable (v : Nvm) : Bool :=
  let b := nvmBytes v 0 64
  listNat b 0 4 == 0x544F424C && listNat b 60 4 == (crc32c (b.take 60)).toNat && [1, 2, 3].all fun i => itemClear i v

/-- The bytes of an item that is present in a readable device with a usable header (R504, R509). -/
def nvmItem (item : Nat) (v : Nvm) : Option (List Byte) :=
  if v.readable && headerUsable v && itemLength item v != 0 then some (nvmBytes v (itemOffset item v) (itemLength item v)) else none

/-- The header with an item's length changed, and its CRC (R520). -/
def putLength (item n : Nat) (v : Nvm) : Nvm :=
  let b := nvmBytes v 0 60
  let b := b.take (8 * item + 4) ++ leBytes 4 n ++ b.drop (8 * item + 8)
  { v with sectors := tset [] v.sectors 0 (b ++ leBytes 4 (crc32c b).toNat ++ (tget [] v.sectors 0).drop 64) }

/-- How far an item may reach: the next item's offset, or the end of the device (R518). -/
def itemRoom (item : Nat) (v : Nvm) : Nat :=
  let a := itemOffset item v
  (([1, 2, 3].map fun j => itemOffset j v).filter fun o => decide (a < o)).foldl min (nvmSize v) - a

/-! ## The Tin Soldier container (R357, R358, R505) -/

/-- A Luson container as it stands in the NVM: header, manifest, payload by chunks (R196, R378). -/
structure Container where
  header : LusonHeader
  manifest : Manifest
  payload : List (Nat × List Byte)
  deriving DecidableEq, Repr

/-- A container read from its bytes; `page` is the KV page size of its model (R251). -/
def parseContainer (b : List Byte) (page : Nat) : Container :=
  let h := parseHeader (b.take 64)
  let pay := (b.drop h.payOff).take h.payLen
  { header := h, manifest := parseManifest ((b.drop h.manOff).take h.manLen) page
    payload := (List.range ((pay.length + chunkBytes - 1) / chunkBytes)).map fun i => (i, (pay.drop (chunkBytes * i)).take chunkBytes) }

/-- Every chunk of a container has its hash and passes R201. -/
def containerWhole (c : Container) : Bool :=
  (List.range c.manifest.chunks).all fun i => hashOk c.manifest i (tget [] c.payload i) && payloadOk c.manifest c.payload i

/-- A container passes R198 and R201 against the burnt Tin Soldier key hash (R369, R520). -/
def containerOk (c : Container) (s : State) : Bool :=
  headerOk c.header && c.header.kind == 1 && signedOk c.manifest s && manifestOk c.header c.manifest && containerWhole c

/-- The container of the boot NVM, in PROVISIONED only (R357, R521, R525). -/
def nvmContainer (s : State) : Option Container :=
  if s.boot.lcs = 1 then (nvmItem 3 s.nv.nvm).map fun b => parseContainer b s.nv.nvm.tinPage else none

/-- TIN_MASTER_COPY_COMPLETE (R358): the master copy of the model in use, from the NVM container, every chunk verified; another container,
or one that fails, gives none. -/
def execTinMasterCopyComplete (s : State) : Host.Outcome State Fault Refusal :=
  .next (match s.tin.model, nvmContainer s with
    | some m, some c =>
      if containerOk c s && c.manifest.digest == m.digest then
        { s with tin := { s.tin with master := true, payload := c.payload } }
      else s
    | _, _ => s)

end Sys2Proof.Machine
end

