-- ==== Sys2Proof/Machine/Parcel.lean ====
section
/-! DEFINITION. The Parcel chain: frames, re-requests, completion (09_weights.md R203, R217 to R219, R231, R232). A frame arrives as bytes: its
64-byte header and what follows it. -/

namespace Sys2Proof.Machine

/-- The header of a frame (R217). -/
def parseFrame (b : List Byte) : ParcelFrame :=
  ⟨listNat b 0 1, listNat b 1 1, listNat b 2 2, listNat b 4 2, listNat b 6 2, BitVec.ofNat 64 (listNat b 8 8), listNat b 16 4, listNat b 20 4,
    listNat b 24 1, listNat b 25 39⟩

/-- What follows the header. -/
def frameBody (b : List Byte) : List Byte := b.drop 64

/-- The frame is a resend frame (R217). -/
def ParcelFrame.resent (f : ParcelFrame) : Bool := f.flags.testBit 0

/-- The frame is whole: as long as its header says. -/
def frameWhole (b : List Byte) : Bool := decide (64 ≤ b.length) && (frameBody b).length == (parseFrame b).length

/-- A hop count one further, saturating (R217). -/
def nextHop (h : Nat) : Nat := min (h + 1) 65535

/-- A type-0 or type-1 frame goes on downstream whether or not it is kept; a resend frame goes no further (R218). -/
def forwardFrame (b : List Byte) (s : State) : State :=
  let f := parseFrame b
  if isLast s || f.resent then s else send (.parcelFrame { f with hop := nextHop f.hop } (frameBody b)) s

/-- The load from the chain, if one is in progress. -/
def parcelLoad (s : State) : Option Load :=
  match s.wld.load with
  | some l => if l.kind = 1 then some l else none
  | none => none

/-- The most re-requests for one chunk (R231). -/
def maxResend (s : State) : Nat := max 1 (rd WLD_PARCEL_CTL.max_resend s)

/-- A frame of the load is asked for again (R218); one time too many ends the load: a chunk with the code of a bad hash, the container
header and manifest with that of a rejected signature. -/
def reRequest (l : Load) (f : ParcelFrame) (index : Nat) (s : State) : State :=
  let n := tget 0 l.resends index
  if maxResend s ≤ n then (if index = 0xFFFFFFFF then endLoad 3 0 s else endLoad 4 index s)
  else
    let s := incHold WLD_PARCEL_STAT.resends 1 s
    let s := { s with wld := { s.wld with load := some { l with resends := tset 0 l.resends index (n + 1) } } }
    send (.parcelFrame ⟨2, 0, rd WLD_PARCEL_STAT.hop s, f.gen, 0, f.digest, index, 0, 0, 0⟩ []) s

/-- PARCEL_MANIFEST_FRAME (R217, R218): forwarded, and checked while a load from the chain waits for it. One that fails R198 is asked for
again. -/
def execParcelManifestFrame (frame : List Byte) (pageBytes : Nat) (s : State) : Host.Outcome State Fault Refusal :=
  .next <|
    let s := forwardFrame frame s
    match parcelLoad s with
    | none => s
    | some l =>
      if l.verified then s
      else
        let f := parseFrame frame
        let raw := (frameBody frame).drop 64
        let s := wr WLD_PARCEL_STAT.hop (nextHop f.hop) s
        if frameWhole frame && signedOk (parseManifest raw pageBytes) s then manifestArrives ((frameBody frame).take 64) raw pageBytes s
        else reRequest l f 0xFFFFFFFF s

/-- A frame is about slot `g`'s generation. -/
def frameFits (f : ParcelFrame) (g : Nat) (s : State) : Bool :=
  rd (WLD_GEN.gen g) s == f.gen && match (genAt g s).manifest with
    | some m => digest64 m == f.digest
    | none => false

/-- A chunk that comes before the manifest has verified cannot be checked: it and the container header are asked for again (R218). -/
def chunkEarly (l : Load) (f : ParcelFrame) (s : State) : State :=
  let s := if tget 0 l.resends 0xFFFFFFFF = 0 then reRequest l f 0xFFFFFFFF s else s
  match parcelLoad s with
  | some l => reRequest l f f.index s
  | none => s

/-- A chunk of the load from the chain: kept if it has its hash, asked for again if not (R218). -/
def chunkKept (l : Load) (f : ParcelFrame) (frame : List Byte) (s : State) : State :=
  if !l.verified then chunkEarly l f s
  else if !frameFits f l.slot s then s
  else match (genAt l.slot s).manifest with
    | none => s
    | some m =>
      if frameWhole frame && hashOk m f.index (frameBody frame) then completeUp (loadChunk l f.index (frameBody frame) s)
      else reRequest l f f.index s

/-- PARCEL_CHUNK_FRAME (R203, R218): forwarded; a reload that waits for it takes it, else the load from the chain checks it. -/
def execParcelChunkFrame (frame : List Byte) (s : State) : Host.Outcome State Fault Refusal :=
  .next <|
    let s := forwardFrame frame s
    let f := parseFrame frame
    let waits := (List.range 4).find? fun g => (genAt g s).reload.contains f.index && (genAt g s).source.1 == 1 && frameFits f g s
    match waits with
    | some g => reloadArrives g f.index (if frameWhole frame then some (frameBody frame) else none) s
    | none => match parcelLoad s with
      | some l => chunkKept l f frame s
      | none => s

/-- A re-request goes on upstream with this part's hop (R217, R218). -/
def passUp (f : ParcelFrame) (s : State) : State := send (.parcelFrame { f with hop := rd WLD_PARCEL_STAT.hop s } []) s

/-- PARCEL_RE_REQUEST (R218): answered from a verified copy, kept until one is there while a load that may bring it runs, or passed on
upstream. -/
def execParcelReRequest (frame : List Byte) (s : State) : Host.Outcome State Fault Refusal :=
  .next <|
    let f := parseFrame frame
    if (holdsFor f s).isSome then resend f s
    else
      match s.wld.load with
      | some l =>
        if l.kind ≤ 1 && (!l.verified || frameFits f l.slot s) then { s with wld := { s.wld with queued := s.wld.queued ++ [f] } }
        else passUp f s
      | none => passUp f s

/-- This part is the head for a frame's generation (R217, R219): nothing is upstream of it, or it took the container from elsewhere. -/
def isHead (f : ParcelFrame) (s : State) : Bool :=
  !rdb WLD_PARCEL_STAT.in_up s || (List.range 4).any fun g =>
    frameFits f g s && rd (WLD_GEN.state g) s != 0 && (genAt g s).source.1 != 1

/-- PARCEL_COMPLETION (R219, R232): `lastHop` is the last part's hop, from which the head records the chain's length. A part that is not
the head sends it on once it holds the container verified itself; a failure goes on at once. -/
def execParcelCompletion (frame : List Byte) (lastHop : Nat) (s : State) : Host.Outcome State Fault Refusal :=
  .next <|
    let f := parseFrame frame
    let s := wr WLD_STAT.pcl_done 1 (wr WLD_PARCEL_STAT.done 1 (wrb WLD_PARCEL_STAT.ok (f.ok % 2 == 1) s))
    if isHead f s then wr WLD_PARCEL_STAT.chain_len (lastHop + 1) s
    else
      let s := { s with wld := { s.wld with downDone := some f } }
      if f.ok % 2 = 0 then
        if s.wld.chain.isNone || s.wld.upSent then s else passUp f { s with wld := { s.wld with upSent := true } }
      else completeUp s

end Sys2Proof.Machine
end

