-- ==== Sys2Proof/Machine/Costumes.lean ====
section
/-! DEFINITION. Costumes: install, remove, versions (09_weights.md R220 to R222, R230). -/

namespace Sys2Proof.Machine

/-- One projection entry of a descriptor (R220). -/
def projectionAt (b : List Byte) (i : Nat) : Projection :=
  let o := 64 + 32 * i
  ⟨listNat b o 4, listNat b (o + 4) 1, BitVec.ofNat 32 (listNat b (o + 8) 4), listNat b (o + 16) 8, listNat b (o + 24) 8⟩

/-- Bytes a Costume matrix of `n` elements takes in a format (R56, R220). -/
def matrixBytes (fmt n : Nat) : Nat := if fmt = 9 then 2 * n else n / 2 + n / 32

/-- One entry against its generation (R220). -/
def projectionOk (m : Manifest) (fmt len : Nat) (b : List Byte) (i : Nat) : Bool :=
  let p := projectionAt b i
  let o := 64 + 32 * i
  listNat b (o + 5) 3 == 0 && listNat b (o + 12) 4 == 0
    && (if fmt = 9 then decide (1 ≤ p.rank) && decide (p.rank ≤ 64) else p.rank == 32 || p.rank == 64)
    && match tensorAt m p.tensor with
      | some t => t.role == 0 && (fmt == 9 || t.cols % 32 == 0)
          && decide (p.aOff + matrixBytes fmt (p.rank * t.cols) ≤ len)
          && decide (p.bOff + matrixBytes fmt (t.rows * p.rank) ≤ len)
      | none => false

/-- The header of a descriptor meets R220. -/
def descriptorOk (ctx : Nat) (b : List Byte) : Bool :=
  listNat b 0 4 == 0x5453434C && listNat b 4 4 == b.length && listNat b 8 2 == ctx
    && decide (1 ≤ listNat b 12 2) && decide (listNat b 12 2 ≤ 4096)
    && (listNat b 14 1 == 9 || listNat b 14 1 == 0xD) && listNat b 15 1 == 0 && listNat b 20 44 == 0
    && decide (64 + 32 * listNat b 12 2 ≤ b.length)

/-- Bytes the Costume store holds (R230). -/
def storeUsed (s : State) : Nat :=
  s.wld.wardrobes.foldl (fun a w => w.2.live.foldl (fun a c => a + c.bytes.length) a) 0

/-- The error of an install, in the order of its codes (R230); a descriptor hit by an HBM error fails with code 3 (R382); `none`: it
succeeds. -/
def installError (ctx : Nat) (bad : Bool) (b : List Byte) (s : State) : Option Nat :=
  let fmt := listNat b 14 1
  let n := listNat b 12 2
  let crc := crc32c (b.drop 64)
  let gen := slotOf (listNat b 10 2) s
  if bad then some 3
  else if !descriptorOk ctx b then some 2
  else if crc.toNat != listNat b 16 4 then some 3
  else if costumeStore s * 2 ^ 30 < storeUsed s + b.length then some 4
  else if 4 ≤ (wardrobeAt ctx s).live.length then some 5
  else match gen with
    | none => some 6
    | some g =>
      match (genAt g s).manifest with
      | none => some 6
      | some m =>
        let ts := (List.range n).map fun i => (projectionAt b i).tensor
        if rd (WLD_GEN.state g) s < 2 ∨ 4 < rd (WLD_GEN.state g) s then some 6
        else if (List.range n).all (projectionOk m fmt b.length b) && decide ts.Nodup then none else some 2

/-- A command of WLD_COSTUME_CTL fails (R230). -/
def costumeFails (code : Nat) (s : State) : State := wr WLD_COSTUME_CTL.err 1 (wr WLD_COSTUME_CTL.code code s)

/-- Staged Costume changes take effect (R221, R222). -/
def latchCostumes (s : State) : State :=
  s.wld.wardrobes.foldl (fun a w =>
    freeVersions w.1 (setWardrobe w.1 (fun x =>
      match x.staged with
      | some v => { x with current := v, staged := none }
      | none => x) a)) s

/-- At once while no step runs (R249). -/
def settleCostumes (s : State) : State := if quietNow s then latchCostumes s else s

/-- A change is staged for a context; what was staged before is freed unused (R221). -/
def stageCostume (ctx : Nat) (v : Option Nat) (s : State) : State :=
  settleCostumes (freeVersions ctx (setWardrobe ctx (fun x => { x with staged := some v }) s))

/-- WLD_COSTUME_CTL written (R220, R221, R230): it wakes the part (R488). -/
def costumeWrite (w : Write) (s : State) : State :=
  guarded WLD_COSTUME_CTL w s fun s =>
    let s := wakePart 4 s
    let s := if wone WLD_COSTUME_CTL.err w then wr WLD_COSTUME_CTL.err 0 s else s
    let cmd := fget WLD_COSTUME_CTL.cmd (wdata w)
    let s := wtake WLD_COSTUME_CTL.context w (wtake WLD_COSTUME_CTL.hdm_off w s)
    if rdb WLD_COSTUME_CTL.busy s then (if cmd = 1 ∨ cmd = 2 then costumeFails 1 s else s)
    else
      let ctx := rd WLD_COSTUME_CTL.context s
      if cmd = 1 then
        wr WLD_COSTUME_CTL.busy 1 (wr WLD_COSTUME_CTL.code 0
          { s with wld := { s.wld with install := some (ctx, rd WLD_COSTUME_CTL.hdm_off s * 64) } })
      else if cmd = 2 then stageCostume ctx none (wr WLD_COSTUME_CTL.code 0 s)
      else s

/-- COSTUME_INSTALL (R221). -/
def execCostumeInstall (w : Write) (s : State) : Host.Outcome State Fault Refusal := .next (costumeWrite w s)

/-- COSTUME_REMOVE (R221). -/
def execCostumeRemove (w : Write) (s : State) : Host.Outcome State Fault Refusal := .next (costumeWrite w s)

/-- The NaN groups of a matrix of `n` MXFP4 elements at `off` of a descriptor: their numbers, counted from `first`. -/
def nanGroups (b : List Byte) (off n first : Nat) : List Nat :=
  ((List.range (n / 32)).filter fun i => b.getD (off + n / 2 + i) 0 == 0xFF#8).map (first + ·)

/-- The NaN groups of a Costume are logged as format events (R68, log entry 159): A's groups and then B's. -/
def logNanGroups (b : List Byte) (s : State) : State :=
  if listNat b 14 1 ≠ 0xD then s
  else
    let gen := listNat b 10 2
    match (slotOf gen s).bind fun g => (genAt g s).manifest with
    | none => s
    | some m => (List.range (listNat b 12 2)).foldl (fun a i =>
        let p := projectionAt b i
        match tensorAt m p.tensor with
        | none => a
        | some t => (nanGroups b p.aOff (p.rank * t.cols) 0 ++ nanGroups b p.bOff (t.rows * p.rank) (p.rank * t.cols / 32)).foldl
            (fun a g => formatEvent 0 gen t.layer g 0 a) a) s

/-- A checked descriptor becomes a version, staged for its context (R221). -/
def addVersion (ctx : Nat) (b : List Byte) (s : State) : State :=
  let n := listNat b 12 2
  let v := (wardrobeAt ctx s).next
  let c : Costume := ⟨v, listNat b 10 2, listNat b 14 1, (List.range n).map (projectionAt b), b⟩
  let s := setWardrobe ctx (fun x => { x with live := x.live ++ [c], next := (v + 1) % 4096 }) s
  stageCostume ctx (some v) (wr WLD_COSTUME_CTL.version v s)

/-- COSTUME_INSTALL_COMPLETE (R221): no install in progress: nothing happens; in Tin Soldier mode and under the ROM runner one stands still
(R362). -/
def execCostumeInstallComplete (s : State) : Host.Outcome State Fault Refusal :=
  .next <|
    match if keepServed s then none else s.wld.install with
    | none => s
    | some (ctx, off) =>
      let len := min (hdmNat (off + 4) 4 s) (min (2 ^ 30) (hdmSize - off))
      let b := bytesAt s.hdm off len
      let s := wr WLD_COSTUME_CTL.busy 0 { s with wld := { s.wld with install := none } }
      match installError ctx (spanBad off len s) b s with
      | some c => costumeFails c s
      | none => addVersion ctx b (logNanGroups b (wr WLD_STAT.cos_done 1 s))

end Sys2Proof.Machine
end

