-- ==== Sys2Proof/Machine/Sampler.lean ====
section
/-! DEFINITION. The sampler: masks, the penalty window, the final distribution, the generator, draws, and the acceptance of
proposals (11_sampling.md R274 to R292). -/

namespace Sys2Proof.Machine

/-! ## The generator (R284, R285) -/

/-- One round of Philox4x32 over counter and key. -/
def philoxRound (c : Nat × Nat × Nat × Nat) (k : Nat × Nat) : Nat × Nat × Nat × Nat :=
  let p0 := 0xD2511F53 * c.1
  let p1 := 0xCD9E8D57 * c.2.2.1
  (Nat.xor (Nat.xor (p1 / 2 ^ 32) c.2.1) k.1, p1 % 2 ^ 32, Nat.xor (Nat.xor (p0 / 2 ^ 32) c.2.2.2) k.2, p0 % 2 ^ 32)

/-- `n` rounds, the key bumped after each. -/
def philoxRounds : Nat → (Nat × Nat × Nat × Nat) → (Nat × Nat) → Nat × Nat × Nat × Nat
  | 0, c, _ => c
  | n + 1, c, k => philoxRounds n (philoxRound c k) ((k.1 + 0x9E3779B9) % 2 ^ 32, (k.2 + 0xBB67AE85) % 2 ^ 32)

/-- The generator's output for a seed, position and purpose (R284). -/
def philox (seed : Word) (pos purpose : Nat) : Nat :=
  (philoxRounds 10 (pos, purpose, 0, 0) (seed.toNat % 2 ^ 32, seed.toNat / 2 ^ 32)).1

/-- uniform(position, purpose) (R285). -/
def uniform (seed : Word) (pos purpose : Nat) : BitVec 32 :=
  toF32 (.fin false (2 * (philox seed pos purpose / 256) + 1) (2 ^ 25))

/-! ## Masks (R282, R283) -/

/-- Token `v` is allowed by a bank copied for the step. -/
def maskAllows (mask : Option (List Host.Cell)) (v : Nat) : Bool :=
  match mask with
  | none => true
  | some m => (byteAt m (v / 8)).toNat.testBit (v % 8)

/-- The HDM offset of mask table `m`. -/
def maskBase (m : Nat) (s : State) : Nat := rd SMP_CTL.mask_off s * 4096 + 69632 * m

/-- A table's header names the context (R282, R283). -/
def maskHeaderOk (m ctx : Nat) (s : State) : Bool :=
  hdmNat (maskBase m s) 4 s == 0x4B534D4C && hdmNat (maskBase m s + 4) 2 s % 4096 == ctx

/-- The selected bank of a table, copied: addresses from 0 on. -/
def maskBank (m : Nat) (s : State) : List Host.Cell :=
  let base := maskBase m s + (if hdmNat (maskBase m s + 6) 1 s % 2 = 0 then 4096 else 36864)
  (s.hdm.filter fun c => decide (base ≤ c.1) && decide (c.1 < base + 32768)).map fun c => (c.1 - base, c.2)

/-! ## Distributions (R277 to R280) -/

/-- What a request asks of the sampler at one position: R276's controls as they count for it (a keep request decodes greedily, R359,
R363), its mask, the vocabulary size. -/
structure Controls where
  temperature : BitVec 32
  topP : BitVec 32
  minP : BitVec 32
  rep : BitVec 32
  topK : Nat
  mask : Option (List Host.Cell)
  vocab : Nat

/-- 1.0 in FP32. -/
def one32 : BitVec 32 := 0x3F800000#32

/-- The controls of a request. -/
def controlsOf (r : Request) (mask : Option (List Host.Cell)) (s : State) : Controls :=
  let v := (vocabOf r s).1
  if isKeep r then ⟨0, one32, 0, one32, 0, mask, v⟩ else ⟨r.temperature, r.topP, r.minP, r.repPenalty, r.topK, mask, v⟩

/-- Greedy decoding. -/
def Controls.greedy (c : Controls) : Bool := (f32 c.temperature).eq (.fin false 0 1)

/-- Tokens with a value each, in ascending id. -/
abbrev Weights32 := List (Nat × BitVec 32)

/-- The repetition penalty on a logit (R277). -/
def penalise (rep l : BitVec 32) : BitVec 32 :=
  if f32lt 0 l then f32div l rep else if f32lt l 0 then f32mul l rep else l

/-- The kept tokens with their penalised logits. -/
def keptLogits (c : Controls) (win : List Nat) (logits : List (BitVec 32)) : Weights32 :=
  (logits.take c.vocab).zipIdx.filterMap fun e =>
    if !maskAllows c.mask e.2 || (f32 e.1).isNan then none
    else some (e.2, if win.contains e.2 then penalise c.rep e.1 else e.1)

/-- The largest of a list of values. -/
def largest : List (BitVec 32) → Option (BitVec 32)
  | [] => none
  | x :: t => match largest t with
    | none => some x
    | some y => if f32lt x y then some y else some x

/-- Tokens in descending value, ties in ascending id. -/
def descending (l : Weights32) : Weights32 := sortBy (fun a b => !f32lt a.2 b.2) l

/-- The tokens of `l` that `keep` lists. -/
def restrict (l keep : Weights32) : Weights32 := l.filter fun e => keep.any fun k => k.1 == e.1

/-- exp(l − m) with the cases R277 and R280 fix: the maximum weighs 1, −∞ nothing, and beside a +∞ every finite value nothing. -/
def weightOf (m l : BitVec 32) : BitVec 32 :=
  if (f32 m) = .inf true then 0
  else if (f32 l).eq (f32 m) then one32
  else if (f32 m) = .inf false ∨ (f32 l) = .inf true then 0
  else Config.expF32 (f32sub l m)

/-- The weights of kept tokens. -/
def weights (l : Weights32) : Weights32 :=
  match largest (l.map Prod.snd) with
  | none => []
  | some m => l.map fun e => (e.1, weightOf m e.2)

/-- The running FP32 sum of weights. -/
def total (l : Weights32) : BitVec 32 := l.foldl (fun a e => f32add a e.2) 0

/-- The shortest run whose running sum reaches a bound. -/
def reach (bound : BitVec 32) : BitVec 32 → Weights32 → Weights32
  | _, [] => []
  | acc, e :: t =>
    let acc := f32add acc e.2
    if f32lt acc bound then e :: reach bound acc t else [e]

/-- top_p (R277). -/
def topP (p : BitVec 32) (l : Weights32) : Weights32 :=
  if f32lt p one32 then restrict l (reach (f32mul p (total l)) 0 (descending l)) else l

/-- min_p (R277). -/
def minP (p : BitVec 32) (l : Weights32) : Weights32 :=
  if f32lt 0 p then l.filter fun e => !f32lt e.2 p else l

/-- The final distribution of a position (R277): for greedy decoding, as if temperature were 1.0, without truncation (R279). -/
def finalDist (c : Controls) (win : List Nat) (logits : List (BitVec 32)) : Weights32 :=
  let l := keptLogits c win logits
  if c.greedy then weights l
  else
    let l := l.map fun e => (e.1, f32div e.2 c.temperature)
    let l := if c.topK = 0 then l else restrict l ((descending l).take c.topK)
    minP c.minP (topP c.topP (weights l))

/-- An empty distribution (R281). -/
def emptyDist (d : Weights32) : Bool := d.all fun e => (f32 e.2).eq (.fin false 0 1)

/-- The first token whose running sum reaches u × W′, the last one where rounding leaves none (R279). -/
def pick (bound : BitVec 32) : BitVec 32 → Weights32 → Nat
  | _, [] => 0
  | _, [e] => e.1
  | acc, e :: t => if f32lt (f32add acc e.2) bound then pick bound (f32add acc e.2) t else e.1

/-- The token drawn from a distribution with a uniform value. -/
def drawFrom (d : Weights32) (u : BitVec 32) : Nat := pick (f32mul u (total d)) 0 d

/-- The token of the largest weight, the lowest id among equals. -/
def argmax (d : Weights32) : Nat := ((descending d).head?.map Prod.fst).getD 0

/-- The token with the largest kept logit, the lowest id among equals (R277). -/
def greedyToken (c : Controls) (win : List Nat) (logits : List (BitVec 32)) : Nat := argmax (keptLogits c win logits)

/-- The weight of a token. -/
def candWeight (d : Weights32) (v : Nat) : BitVec 32 := ((d.find? fun e => e.1 == v).map Prod.snd).getD 0

/-- A token's probability (R289). -/
def prob (d : Weights32) (v : Nat) : BitVec 32 := f32div (candWeight d v) (total d)

/-- ln(w / W′) of the main model's final distribution (R279). -/
def logpOf (d : Weights32) (v : Nat) : BitVec 32 := Config.lnF32 (prob d v)

/-- The residual weights max(0, p − q) (R289). -/
def residual (p q : Weights32) : Weights32 :=
  p.map fun e => (e.1, let x := f32sub (prob p e.1) (prob q e.1); if f32lt 0 x then x else 0)

/-! ## One request's step (R288, R289) -/

/-- What the sampler works from for one part of a step. -/
structure Job where
  ctl : Controls
  seed : Word
  first : Nat
  before : List Nat            -- the tokens at the positions before `first`
  window : Nat                 -- the penalty window's length
  room : Nat                   -- tokens the run may have (max_new, the last position)
  ends : Nat → Bool            -- an end or stop token
  logits : Logits

/-- The penalty window before the position that follows `extra` (R278). -/
def Job.win (j : Job) (extra : List Nat) : List Nat :=
  let l := j.before ++ extra
  l.drop (l.length - j.window)

/-- The main model's logits at position `first` + i. -/
def Job.main (j : Job) (i : Nat) : List (BitVec 32) := j.logits.main.getD i []

/-- The draft's proposals with their distributions, up to an empty one (R288). -/
def proposals (j : Job) : Nat → Nat → List Nat → List (Nat × Weights32)
  | 0, _, _ => []
  | k + 1, i, prev =>
    let logits := j.logits.draft.getD i []
    let d := finalDist j.ctl (j.win prev) logits
    if emptyDist d then []
    else
      let v := if j.ctl.greedy then greedyToken j.ctl (j.win prev) logits else drawFrom d (uniform j.seed (j.first + i) 2)
      (v, d) :: proposals j k (i + 1) (prev ++ [v])

/-- What the sampler comes to for one part. -/
structure Outcome where
  drawn : List (Nat × BitVec 32)
  proposed : Nat
  accepted : Nat
  empty : Bool
  rejected : Bool

/-- The run ends with a token: an end or stop token, or no room left (R289). -/
def Job.stops (j : Job) (n v : Nat) : Bool := j.ends v || decide (j.room ≤ n)

/-- The sampler's own token after a rejection, or after the last proposal. -/
def ownToken (j : Job) (i : Nat) (win : List Nat) (p : Weights32) (q : Option Weights32) : Nat :=
  if j.ctl.greedy then greedyToken j.ctl win (j.main i)
  else
    let d := match q with
      | some q => if emptyDist (residual p q) then p else residual p q
      | none => p
    drawFrom d (uniform j.seed (j.first + i) 0)

/-- A proposal is accepted (R289). -/
def accepts (j : Job) (i : Nat) (win : List Nat) (p q : Weights32) (v : Nat) : Bool :=
  if j.ctl.greedy then greedyToken j.ctl win (j.main i) == v
  else f32lt (f32mul (uniform j.seed (j.first + i) 1) (prob q v)) (prob p v)

/-- The proposals tested in order from position `first` + i; `got` are the tokens so far. -/
def acceptance (j : Job) : List (Nat × Weights32) → Nat → List (Nat × BitVec 32) → Outcome
  | ds, i, got =>
    let win := j.win (got.map Prod.fst)
    let p := finalDist j.ctl win (j.main i)
    if emptyDist p then ⟨got, 0, i, true, false⟩
    else match ds with
      | [] =>
        let v := ownToken j i win p none
        ⟨got ++ [(v, logpOf p v)], 0, i, false, false⟩
      | (v, q) :: t =>
        if accepts j i win p q v then
          let got := got ++ [(v, logpOf p v)]
          if j.stops (i + 1) v then ⟨got, 0, i + 1, false, false⟩ else acceptance j t (i + 1) got
        else
          let v := ownToken j i win p (some q)
          ⟨got ++ [(v, logpOf p v)], 0, i, false, i == 0⟩

/-- One part's tokens (R288, R289). -/
def sample (j : Job) (depth : Nat) : Outcome :=
  let ds := proposals j depth 0 []
  { acceptance j ds 0 [] with proposed := ds.length }

/-- Positions of a job whose logits hold a NaN below the vocabulary size: those of the main model and of the draft (R280). -/
def nanPositions (j : Job) : List Nat :=
  let bad := fun l : List (List (BitVec 32)) =>
    (l.zipIdx.filter fun e => (e.1.take j.ctl.vocab).any fun x => (f32 x).isNan).map fun e => j.first + e.2
  (bad j.logits.main ++ bad j.logits.draft).dedup

/-- The depth of the request's state (R291): paused, probing, or its own. -/
def ownDepth (r : Request) : Nat := if r.rejects < 8 then r.depth else if r.probe then 1 else 0

/-- The depth used in a step that begins at position `n` with `made` tokens of the request already drawn (R292). -/
def depthAt (r : Request) (n made : Nat) : Nat :=
  min (ownDepth r) (min (r.maxNew - made - 1) (16777215 - n))

/-- What a committed step does to the state of R291. -/
def noteDepth (p : Part) (r : Request) : Request :=
  if r.depth = 0 || !p.gen then r
  else if 0 < p.accepted then { r with rejects := 0, pauseLeft := 0, probe := false }
  else if r.rejects < 8 then
    if p.rejected then (if r.rejects = 7 then { r with rejects := 8, pauseLeft := 64 } else { r with rejects := r.rejects + 1 })
    else r
  else if p.probe then (if p.rejected then { r with pauseLeft := 64, probe := false } else r)
  else { r with pauseLeft := r.pauseLeft - 1 }

/-- SPEC_PAUSE_END (R291): 64 committed steps of a pause have passed; the next step is a probe. -/
def execSpecPauseEnd (table : Fin 5) (slot : Fin 4096) (s : State) : Host.Outcome State Fault Refusal :=
  .next (setReq (4096 * table.val + slot.val) (fun r =>
    if 8 ≤ r.rejects ∧ r.pauseLeft = 0 then { r with probe := true } else r) s)

end Sys2Proof.Machine
end

