-- ==== Sys2Proof/Machine/Steps.lean ====
section
/-! DEFINITION. Steps: what a boundary ends and starts, batch formation, the commit gate, replays (R9, R10, R22, R143, R144,
R249 to R264, R283, R296 to R298, R342 to R345, R366, R368). -/

namespace Sys2Proof.Machine

/-! ## Time -/

/-- The clocks of classes 4 and 10 stop in PS4 (R484). -/
def clockStopped (c : Nat) (s : State) : Bool := rd PWR_STATE.state s == 4 && (c == 4 || c == 10)

/-- The measured figures of the blocks in analogue service (R195): physical region, block, figure. -/
def figures (s : State) : List (Nat × Nat × Nat) :=
  s.blocks.filterMap fun b =>
    if b.2.stood || b.2.retired || (regionAt (b.1 / 1312) s).stood.isSome then none else b.2.r.map fun r => (b.1 / 1312, b.1 % 1312, r)

/-- Blocks whose figure exceeded its bound in the last second (R94, R195). -/
def overCount (s : State) : Nat :=
  (s.blocks.filter fun b => match b.2.overAt with | some t => decide (s.now < t + second) | none => false).length

/-- CAL_QUALITY brought up to date (R195): the worst block, the mean, the blocks above their bound. -/
def updateQuality (s : State) : State :=
  let l := figures s
  let worst := l.foldl (fun (a x : Nat × Nat × Nat) => if a.2.2 < x.2.2 then x else a) (0, 0, 0)
  let mean := if l.isEmpty then 0 else l.foldl (fun a x => a + x.2.2) 0 / l.length
  wr CAL_QUALITY.worst_r (min worst.2.2 65535) <| wr CAL_QUALITY.worst_region worst.1 <| wr CAL_QUALITY.worst_block worst.2.1 <|
    wr CAL_QUALITY.mean_r (min mean 65535) <| wr CAL_QUALITY.over (min (overCount s) 32767) s

/-- The part operates in SERVICE or TIN outside PS4 (R187). -/
def operating (s : State) : Bool := (inService s || inTin s) && rd PWR_STATE.state s != 4

/-- `n` cycles of the management clock pass: the instant, the cycle counts of the classes (R442), the residency (R496), the time of
operation (R187); CAL_QUALITY follows once per second (R195). -/
def advance (n : Nat) (s : State) : State :=
  let old := s.now
  let s := { s with pwr := { s.pwr with operated := if operating s then s.pwr.operated + n else s.pwr.operated } }
  let clocks := (List.range 16).foldl (fun m c =>
    if stepClass c || clockStopped c s then m else tset 0 m c (tget 0 m c + n)) s.evt.clocks
  let us := micros (s.now + n) - micros s.now
  let f := PWR_RESID.us (rd PWR_STATE.state s)
  let s := incHold f us { s with now := s.now + n, evt := { s.evt with clocks } }
  if old / second < s.now / second then updateQuality s else s

/-! ## The state after the steps in flight -/

/-- The uncommitted parts of a request that ended and are not void, oldest first. -/
def inFlight (key : Nat) (s : State) : List Part :=
  (s.srv.done.filter fun t => !t.void).flatMap fun t => t.parts.filter fun p => p.key == key

/-- Prompt tokens processed and tokens drawn in those parts. -/
def flow (key : Nat) (s : State) : List Nat × List Nat :=
  ((inFlight key s).flatMap (·.tokens), (inFlight key s).flatMap fun p => p.drawn.map Prod.fst)

/-- An end token or a stop token of a request (R262, R276). -/
def endsRun (r : Request) (s : State) (v : Nat) : Bool :=
  (r.stop.contains v && v != 0xFFFFFFFF) || (vocabOf r s).2 == some v

/-- The cause a run ends with after its last token `v` at position `pos`, with `made` tokens in all (R244, R262); `none`: it goes on. -/
def tokenCause (r : Request) (made pos v : Nat) (s : State) : Option Nat :=
  if endsRun r s v then some 1 else if r.maxNew ≤ made then some 2 else if maxPos - 1 ≤ pos then some 5 else none

/-- A request drew its last token in a step that has not committed. -/
def drewLast (r : Request) (s : State) : Bool :=
  let f := flow r.key s
  match f.2.getLast? with
  | some v => (tokenCause r (r.committed + f.2.length) (seqLen r s + f.1.length + f.2.length - 1) v s).isSome
  | none => false

/-- Positions a sequence still has to rebuild after the steps in flight (R254). -/
def rebuildLeft (q : Sequence) (s : State) : Nat :=
  q.rebuild - ((s.srv.done.filter fun t => !t.void).flatMap (·.rebuilds)).foldl
    (fun a e => if e.1 = q.keep ∧ e.2.1 = q.id then a + e.2.2 else a) 0

/-! ## Batch formation (R250, R254, R259, R283, R292) -/

/-- The latched chunk limits (R270). -/
def chunkLimits (s : State) : Nat × Nat :=
  let mx := max 64 (min s.srv.chunkMax 2048)
  (min (max 64 (min s.srv.chunkMin 2048)) mx, mx)

/-- The latched step budget in µs (R269). -/
def budgetUs (s : State) : Nat := max 1000 (min s.srv.budget 1000000)

/-- Prompt tokens the remaining budget holds (R250). -/
def budgetTokens (s : State) : Nat :=
  if s.srv.tokenCost = 0 then maxPos else (budgetUs s - s.srv.predicted) * 1000 / s.srv.tokenCost

/-- A chunk of `left` tokens within `avail`: a multiple of 64 between the limits, or the rest of it; 0: it does not fit. -/
def chunkOf (left avail : Nat) (s : State) : Nat :=
  let l := chunkLimits s
  let cap := min l.2 avail
  if left ≤ cap then left
  else
    let c := cap / 64 * 64
    if l.1 ≤ c then c else 0

/-- A request may take part in a step that draws at depth `k` (R254, R259, R260). -/
def takesPart (r : Request) (k : Nat) (s : State) : Bool :=
  r.running && r.held.isEmpty && r.endCause.isNone && !drewLast r s && decide (k + 2 ≤ ringFree r s)
    && match seqAt (isKeep r) r.seq s with
      | some q => rebuildLeft q s == 0
      | none => false

/-- The mask of a request copied for the step, and whether its header is bad (R283); a table hit by an HBM error counts so (R382). -/
def maskFor (r : Request) (s : State) : Option (List Host.Cell) × Bool :=
  if r.mask = 0xFFFF then (none, false)
  else (some (maskBank r.mask s), !maskHeaderOk r.mask r.context s || spanBad (maskBase r.mask s) 69632 s)

/-- A part with nothing drawn yet. -/
def newPart (r : Request) (gen probe : Bool) (tokens : List Nat) (depth first : Nat) (s : State) : Part :=
  let m := maskFor r s
  ⟨r.key, gen, tokens.length, tokens, depth, first, probe, m.1, m.2, [], 0, 0, false, false, 0, false⟩

/-- The depth of a generation position: the plan's on a secondary (R342), else the request's (R292); no second probe is drawn before
the first has committed. -/
def depthFor (r : Request) (n made : Nat) (s : State) : Nat :=
  let own := if (inFlight r.key s).any fun p => p.probe then 0 else depthAt r n made
  if secondary s && !s.pair.alone.contains r.order then
    match s.pair.plan with
    | some p => ((p.depths.find? fun d => 4096 * d.1 + d.2.1 == r.key).map fun d => d.2.2).getD own
    | none => own
  else own

/-- The generation position of a request whose prompt is complete (R250). -/
def genPart (r : Request) (s : State) : Option Part :=
  let f := flow r.key s
  let n := seqLen r s + f.1.length + f.2.length
  let made := r.committed + f.2.length
  let k := depthFor r n made s
  if r.consumed + f.1.length < r.promptLen ∨ r.maxNew ≤ made ∨ maxPos ≤ n ∨ !takesPart r k s then none
  else some (newPart r true (r.probe && decide (0 < k) && decide (8 ≤ r.rejects)) [] k n s)

/-- Prompt tokens a request has left (R250); nothing for one that may not take part. -/
def promptLeft (r : Request) (s : State) : Nat :=
  if takesPart r 0 s then r.promptLen - (r.consumed + (flow r.key s).1.length) else 0

/-- Prompt token `i` of a request (R237). -/
def promptToken (r : Request) (s : State) (i : Nat) : Nat := hdmNat (r.promptOff + 4 * i) 4 s

/-- A prompt chunk of `c` tokens; the last one also draws the first token at depth 0 (R250, R292). -/
def chunkPart (r : Request) (c : Nat) (s : State) : Part :=
  let f := flow r.key s
  let start := r.consumed + f.1.length
  let toks := (List.range c).map fun i => promptToken r s (start + i)
  let n := seqLen r s + f.1.length + c
  newPart r (decide (start + c = r.promptLen) && decide (0 < r.maxNew) && decide (n < maxPos)) false toks 0 n s

/-- Chunks given in order until one does not fit (R250). -/
def giveChunks : List Request → Nat → State → List Part
  | [], _, _ => []
  | r :: t, avail, s =>
    let left := promptLeft r s
    if left = 0 then giveChunks t avail s
    else
      let c := chunkOf left avail s
      if c = 0 then [] else chunkPart r c s :: giveChunks t (avail - c) s

/-- The chunks of a secondary's plan (R342). -/
def plannedChunks (l : List Request) (s : State) : List Part :=
  match s.pair.plan with
  | none => []
  | some p => l.filterMap fun r =>
      match p.chunks.find? fun c => 4096 * c.1 + c.2.1 == r.key with
      | some c => let n := min c.2.2 (promptLeft r s); if n = 0 then none else some (chunkPart r n s)
      | none => none

/-- Rebuild chunks at stage 0: within the budget, ahead of every prefill; at the other stages one chunk each (R254). The rest of the
budget, and whether one did not fit. -/
def giveRebuilds (stage : Nat) : List Sequence → Nat → State → List (Bool × Nat × Nat) × Nat × Bool
  | [], avail, _ => ([], avail, false)
  | q :: t, avail, s =>
    let left := rebuildLeft q s
    if left = 0 then giveRebuilds stage t avail s
    else if stage = 0 then
      let c := chunkOf left avail s
      if c = 0 then ([], avail, true)
      else
        let x := giveRebuilds stage t (avail - c) s
        ((q.keep, q.id, c) :: x.1, x.2)
    else
      let x := giveRebuilds stage t avail s
      ((q.keep, q.id, min left (chunkLimits s).1) :: x.1, x.2)

/-- Sequences with pages in HBM. -/
def liveSeqs (s : State) : List Sequence := s.srv.seqs.filter fun q => isLive q && !q.mirror

/-- The running requests, keep requests first, then ascending class and admission order (R250, R365). -/
def runOrder (s : State) : List Request := sortBy admitBefore (s.srv.requests.filter fun r => r.running)

/-- The parts and rebuild chunks of the coming step (R143, R250, R254). -/
def formBatch (s : State) : List Part × List (Bool × Nat × Nat) :=
  let l := runOrder s
  let gens := l.filterMap fun r => genPart r s
  let stage := rd SRV_STAT.stage s
  let rb := giveRebuilds stage (liveSeqs s) (budgetTokens s) s
  let own := if secondary s then l.filter fun r => s.pair.alone.contains r.order else l
  let given := if stage != 0 || rb.2.2 then [] else giveChunks own rb.2.1 s
  (gens ++ (if secondary s then plannedChunks (l.filter fun r => !s.pair.alone.contains r.order) s else []) ++ given, rb.1)

/-- The layers of the resident generations on their wide alternative (R127). -/
def wideNow (s : State) : List (Nat × Nat) := (List.range 4).flatMap fun g => (genAt g s).wide.map fun l => (g, l)

/-- The body digest of a slot: a digest that R342 does not name, over bytes 8 to 191 with ring_rd as zero. -/
def bodyDigest (key : Nat) (s : State) : BitVec 64 :=
  let a := slotAddr key s
  Config.bodyDigest (bytesAt s.hdm (a + 8) 52 ++ List.replicate 4 0 ++ bytesAt s.hdm (a + 64) 128)

/-- A request that runs on this part alone: it was running when the pair formed (R350). -/
def runsAlone (key : Nat) (s : State) : Bool :=
  match reqAt key s with
  | some r => s.pair.alone.contains r.order
  | none => false

/-- The primary's plan of a step (R342): requests of the pair only. -/
def planOf (t : Step) (admitted : List Nat) (changes : List (Nat × Nat × Bool)) (s : State) : Plan :=
  let parts := t.parts.filter fun p => !runsAlone p.key s
  { step := t.num
    named := admitted.map fun k => (keyTable k, keySlot k, bodyDigest k s)
    depths := (parts.filter fun p => p.gen && p.chunk == 0).map fun p => (keyTable p.key, keySlot p.key, p.depth)
    chunks := (parts.filter fun p => p.chunk != 0).map fun p => (keyTable p.key, keySlot p.key, p.chunk)
    recipes := changes
    activeGen := BitVec.ofNat 16 (activeId s) }

/-- A step starts (R249): GLB_STEP shows its number. -/
def runStep (t : Step) (s : State) : State :=
  wr GLB_STEP.step t.num { s with srv := { s.srv with running := some t, highest := max s.srv.highest t.num } }

/-- A new step starts where a request can take part in one (R249), be it by the rebuilding of its sequence (R254); a secondary waits for
the plan (R342). -/
def startNew (admitted : List Nat) (changes : List (Nat × Nat × Bool)) (s : State) : State :=
  let n := s.srv.highest + 1
  let b := formBatch s
  let ready := !secondary s || (match s.pair.plan with | some p => p.step == n | none => false)
  if !ready || (b.1.isEmpty && !(b.2.any fun e => s.srv.requests.any fun r => r.running && isKeep r == e.1 && r.seq == e.2.1)) then s
  else
    let t : Step := ⟨n, b.1, b.2, wideNow s, [], 0, 0, 0, false, 0, false, none, 0, [], [], []⟩
    let s := runStep t s
    if mirrored s && !secondary s then send (.stepPlan (planOf t admitted changes s)) s else s

/-- A part of a void step formed again for its replay: the same prompt tokens, depth and mask bank, at the positions the steps before it
now give (R283, R292, R298). -/
def reformPart (p : Part) (s : State) : Option Part :=
  match reqAt p.key s with
  | none => none
  | some r =>
    let f := flow p.key s
    let n := seqLen r s + f.1.length + f.2.length + p.chunk
    if (p.gen && p.chunk == 0 && (drewLast r s || decide (r.maxNew ≤ r.committed + f.2.length))) || !r.running then none
    else some { p with first := n, drawn := [], proposed := 0, accepted := 0, empty := false, rejected := false, released := 0, fault := false
                       depth := min p.depth (min (r.maxNew - (r.committed + f.2.length) - 1) (maxPos - 1 - n)) }

/-- A void step formed again (R298). -/
def reformStep (t : Step) (s : State) : Step :=
  { t with parts := t.parts.filterMap fun p => reformPart p s
           counts := [], saves := [], work := [], discarded := [], duration := 0, reads := 0, shadows := 0, void := false, replays := t.replays + 1
           hashSent := false, hash := none }

/-- The earliest void step is replayed (R298); one that nothing is left of is passed over. -/
def startReplay (n : Nat) (s : State) : State :=
  match n, s.srv.voids with
  | 0, _ => s
  | _, [] => s
  | n + 1, t :: l =>
    let s := { s with srv := { s.srv with voids := l } }
    let u := reformStep t s
    if u.parts.isEmpty && u.rebuilds.isEmpty then startReplay n s
    else
      runStep u (incHold CHK_COMMIT_LAG.replays 1 s)

/-- A settlement waits for the partner's record list (R345). -/
def settlementWaits (s : State) : Bool := match s.pair.settling with | some z => z.waits | none => false

/-- What runs next: the earliest void step, else a new one; nothing while a settlement waits for its stage (R345). -/
def startNext (admitted : List Nat) (changes : List (Nat × Nat × Bool)) (s : State) : State :=
  if settlementWaits s then s
  else
  let s := startReplay s.srv.voids.length s
  if s.srv.running.isSome then s else startNew admitted changes s

/-! ## The end of a run -/

/-- The tokens a request's sequence holds before position `p.first` of a part of the ending step (R278). -/
def tokensBefore (p : Part) (r : Request) (s : State) : List Nat :=
  let hist := match seqAt (isKeep r) r.seq s with
    | some q => q.history
    | none => []
  let parts := (inFlight p.key s).flatMap fun o => o.tokens ++ o.drawn.map Prod.fst
  hist ++ parts ++ p.tokens

/-- The job of a part with the logits of the ending step. -/
def jobOf (p : Part) (r : Request) (l : Logits) (s : State) : Job :=
  { ctl := controlsOf r p.mask s, seed := r.seed, first := p.first, before := tokensBefore p r s
    window := s.srv.repWindow
    room := min (r.maxNew - (r.committed + (flow r.key s).2.length)) (maxPos - p.first)
    ends := endsRun r s, logits := l }

/-- The logits delivered for a request, entry `i` of those. -/
def logitsFor (inp : StepInput) (key i : Nat) : Option Logits :=
  (inp.logits.filter fun l => 4096 * l.table + l.slot == key)[i]?

/-- A NaN logit's event (R280). -/
def noteNan (key pos : Nat) (s : State) : State :=
  log 7 2 0x0073 (keyTable key) (leBytes 2 (keySlot key) ++ leBytes 4 pos) (wr SMP_STAT.nan 1 s)

/-- What the sampler draws for a part of the ending step; a bad mask header counts as an empty distribution (R283). -/
def drawPart (inp : StepInput) (p : Part) (s : State) : Part × State :=
  match reqAt p.key s with
  | none => (p, s)
  | some r =>
    if !p.gen || p.badMask then (p, s)
    else
      let j := jobOf p r ((logitsFor inp p.key 0).getD ⟨0, 0, [], []⟩) s
      let o := sample j p.depth
      let s := (nanPositions j).foldl (fun a x => noteNan p.key x a) s
      ({ p with drawn := o.drawn, proposed := o.proposed, accepted := o.accepted, empty := o.empty, rejected := o.rejected }, s)

/-- Entry `i` of the tokens a part drew (R258, R262): the last token of a request's run carries last = 1. -/
def entryOf (num : Nat) (p : Part) (r : Request) (before : Nat) (prov : Bool) (e : (Nat × BitVec 32) × Nat) (s : State) : RingEntry :=
  let pos := p.first + e.2
  ⟨e.1.1, pos, prov, false, (tokenCause r (before + e.2 + 1) pos e.1.1 s).isSome, num, e.1.2⟩

/-- The entries of a part written into its ring. -/
def putDrawn (num : Nat) (p : Part) (prov : Bool) (before : Nat) (s : State) : State :=
  match reqAt p.key s with
  | none => s
  | some r => p.drawn.zipIdx.foldl (fun a e => putEntry p.key (entryOf num p r before prov e s) a) s

/-- Early release (R261): the tokens of a part are written as they are drawn. -/
def releasePart (num : Nat) (p : Part) (s : State) : Part × State :=
  match reqAt p.key s with
  | none => (p, s)
  | some r =>
    if r.early then
      ({ p with released := p.drawn.length }, putDrawn num p true (r.committed + (flow p.key s).2.length) s)
    else (p, s)

/-- Every part of the ending step drawn, in their order. -/
def drawParts (inp : StepInput) (num : Nat) : List Part → State → List Part × State
  | [], s => ([], s)
  | p :: t, s =>
    let a := drawPart inp p s
    let b := releasePart num a.1 a.2
    let c := drawParts inp num t b.2
    (b.1 :: c.1, c.2)

/-- Both keep regions run every Tin Soldier step (R358, R368); one that is being programmed cannot (R520). -/
def dualRun (s : State) : Bool :=
  s.tin.model.isSome && !s.tin.master && s.tin.reprogram.isEmpty && !rdb (RGN_STATE.unusable 50) s && !rdb (RGN_STATE.unusable 51) s

/-- The keep requests whose tokens differ between the two runs (R368). -/
def dualDiffering (inp : StepInput) (parts : List Part) (s : State) : List Nat :=
  if !dualRun s then []
  else parts.filterMap fun p =>
    match reqAt p.key s, logitsFor inp p.key 1 with
    | some r, some l =>
      if isKeep r && p.gen && !p.badMask
          && (sample (jobOf p r l s) p.depth).drawn.map Prod.fst != p.drawn.map Prod.fst then some p.key else none
    | _, _ => none

/-- The group of an ending step quantised under its recipe (R61, R123, R128): its count, and its format events (R59, R62). -/
def countGroup (t : Step) (g : GroupInput) (s : State) : List Count × State :=
  match recipeAt g.slot.val g.layer (t.wide.contains (g.slot.val, g.layer)) s with
  | none => ([], s)
  | some r =>
    let vs := g.values.zipIdx.map fun v => (elemValue g.format.val v.1.toNat 127 g.bp.val, g.outliers.getLsbD v.2)
    let q := quantise (r.width == .a8) (if r.static then some r.scale.toNat else none) vs
    let c := classify vs q
    let gen := if g.slot.val = 4 then 0xFFFF else rd (WLD_GEN.gen g.slot.val) s
    let s := if q.nan then formatEvent g.region.val gen g.layer g.index 0 s else s
    let s := if r.static && r.scale == 0xFF then formatEvent g.region.val gen g.layer g.index 1 s else s
    ([⟨g.region.val, g.slot.val, g.layer, 1, c.1.toNat, c.2.toNat⟩], s)

/-- The group counts of a step (R129). -/
def countGroups (t : Step) (l : List GroupInput) (s : State) : List Count × State :=
  l.foldl (fun a e => let c := countGroup t e a.2; (a.1 ++ c.1, c.2)) ([], s)

/-- A NaN group written into a KV page is a format event (R68, log entry 159). -/
def noteKvNan (g : KvGroup) (e : MxGroup) (s : State) : State :=
  let gen := match s.srv.seqs.find? fun q => q.id + 65536 * q.keep.toNat == g.seq with | some q => q.genId | none => 0
  if kvMx s && e.scale == 255 then formatEvent 0 gen 0xFFFF g.index 0 s else s

/-- A KV group of the ending step stored into its sequence's pages (R251, R253). -/
def storeKv (num : Nat) (g : KvGroup) (s : State) : State :=
  let e := kvEncode (kvMx s) (g.values.map f32)
  let rest := s.srv.kv.filter fun k => !(k.seq == g.seq && k.pos == g.pos && k.index == g.index)
  noteKvNan g e { s with srv := { s.srv with kv := rest ++ [⟨g.seq, g.pos, g.index, e.elems, e.scale, num⟩] } }

/-- KV rows that void steps wrote are gone (R253). -/
def dropRows (l : List Step) (s : State) : State :=
  { s with srv := { s.srv with kv := s.srv.kv.filter fun k => !(l.any fun t => t.num == k.step) } }

/-- The commit list of a step: a record for every token it would commit, in ascending table, slot and position (R343). -/
def recordsOf (t : Step) (s : State) : List CommitRecord :=
  (sortBy (fun a b => decide (a.key ≤ b.key)) (t.parts.filter fun p => !p.empty && !p.badMask && !runsAlone p.key s)).flatMap fun p =>
    p.drawn.zipIdx.map fun e => ⟨keyTable p.key, keySlot p.key, p.first + e.2, e.1.1, t.num⟩

/-- What a part of a step gives the partner of a split pair: token-history entries and KV rows of the positions it wrote (R346). -/
def resultOf (num : Nat) (p : Part) (r : Request) (s : State) : Provisional :=
  ⟨num, r.seq, r.context, BitVec.ofNat 16 r.genId, p.tokens ++ p.drawn.map Prod.fst,
    (s.srv.kv.filter fun k => k.seq == r.seq && k.step == num).map fun k => ⟨k.pos, k.index, k.elems, k.scale⟩⟩

/-- Provisional results for the partner of a split pair (R321, R346). -/
def sendProvisional (t : Step) (s : State) : State :=
  if splitMode s then t.parts.foldl (fun a p => match reqAt p.key a with
    | some r => if isKeep r then a else send (.provisional (resultOf t.num p r s)) a
    | none => a) s else s

/-- A run that is not void ends: tokens drawn, groups counted, KV rows stored. A mismatch of dual runs makes it void (R368). -/
def finishRun (inp : StepInput) (t : Step) (s : State) : State :=
  let d := drawParts inp t.num t.parts s
  let diff := dualDiffering inp d.1 s
  let c := countGroups t inp.groups d.2
  let s := inp.kv.foldl (fun a g => storeKv t.num g a) c.2
  let n := if diff.isEmpty then 0 else t.dualDiffers + 1
  let t := { t with parts := d.1, counts := t.counts ++ c.1, void := !diff.isEmpty, dualDiffers := n }
  let s := sendProvisional t { s with srv := { s.srv with running := none, done := s.srv.done ++ [t] } }
  if 3 ≤ n then diff.foldl (fun a k => failRequest k 0x12 a) s else s

/-- Tile faults of the ending step noted at its parts (R119). -/
def noteFaults (s : State) (t : Step) : Step :=
  { t with parts := t.parts.map fun p => { p with fault := match reqAt p.key s with | some r => r.tileFault | none => false } }

/-- The running step ends; it lasted `inp.duration` µs. A void run draws nothing (R261). -/
def endRun (inp : StepInput) (s : State) : State :=
  match s.srv.running with
  | none => s
  | some t =>
    let s := advance (600 * inp.duration) s
    let t := noteFaults s { t with duration := inp.duration }
    let s := { s with srv := { s.srv with requests := s.srv.requests.map fun r => { r with tileFault := false } } }
    if t.void then { s with srv := { s.srv with running := none, done := s.srv.done ++ [t] } } else finishRun inp t s

/-- Comparisons of void runs still under way belong to no step any more: step 0. -/
def orphanShadows (l : List Step) (s : State) : State :=
  let f := fun x : Shadow => if l.any fun t => t.num == x.step then { x with step := 0 } else x
  { s with regions := s.regions.map fun p => (p.1, { p.2 with shadows := p.2.shadows.map f }) }

/-- Void steps that ended wait to run again, earliest first, with their retractions (R261, R298, R321). -/
def queueVoids (s : State) : State :=
  let bad := s.srv.done.filter (·.void)
  match bad with
  | [] => s
  | t :: _ =>
    let s := orphanShadows bad (dropRows bad (retractSteps bad s))
    let s := if splitMode s then send (.retraction t.num) s else s
    let clear := bad.map fun t => { t with parts := t.parts.map fun p => { p with released := 0 } }
    { s with srv := { s.srv with
        done := s.srv.done.filter fun t => !t.void
        voids := sortBy (fun a b => decide (a.num ≤ b.num)) (clear ++ s.srv.voids) } }

/-! ## The commit gate (R296, R343 to R345) -/

/-- A step meets its local conditions. -/
def locallyReady (t : Step) : Bool := t.reads == 0 && t.shadows == 0 && !t.void

/-- The end stage of a settlement (R345): the differing requests end, the rest of the step commits. -/
def endSettlement (num : Nat) (keys : List Nat) (s : State) : State :=
  let s := keys.foldl (fun a k => failRequest k 0x12 a) s
  let s := incHold PAIR_MISMATCH_CNT.ended 1 (wr PAIR_STAT.diverge 1 (wr PAIR_STAT.stage 0 s))
  let s := log 10 4 0x00A1 0 (leBytes 4 num ++ [4]) s
  setStep num (fun t => { t with hash := some true }) { s with pair := { s.pair with settling := none } }

/-- A settlement ends: it counts under its stage (R356). -/
def countStage (stage : Nat) (s : State) : State :=
  let f := if stage = 1 then PAIR_MISMATCH_CNT.stage1 else if stage = 2 then PAIR_MISMATCH_CNT.stage2
    else PAIR_MISMATCH_CNT.stage3
  wr PAIR_STAT.stage 0 (incHold f 1 { s with pair := { s.pair with settling := none } })

/-- A settlement ends with matching hashes. -/
def countSettled (num : Nat) (s : State) : State :=
  match s.pair.settling with
  | some z => if z.step = num then countStage z.stage s else s
  | none => s

/-- The settlement of step `num` as it stands when its hashes differ; a new one starts at stage 0. -/
def settlingOf (num : Nat) (s : State) : Settling :=
  match s.pair.settling with
  | some z => if z.step = num then z else ⟨num, 0, [], [], true⟩
  | none => ⟨num, 0, [], [], true⟩

/-- The partner's hash of a step is judged (R344, R345): equal, or the step is void and the record lists are exchanged. -/
def judgeHash (t : Step) (own theirs : BitVec 64) (s : State) : State :=
  if own = theirs then countSettled t.num (setStep t.num (fun t => { t with hash := some true }) s)
  else
    let s := wr PAIR_MISMATCH_CNT.step t.num (wr PAIR_STAT.mismatch 1 s)
    let z := settlingOf t.num s
    let own := recordsOf t s
    if z.stage = 3 then endSettlement t.num z.keys s
    else send (.recordList t.num own) (voidFrom t.num { s with pair := { s.pair with settling := some { z with own, waits := true } } })

/-- One record of a commit list as its 16 bytes (R343). -/
def recordBytes (c : CommitRecord) : List Byte :=
  leBytes 1 c.table ++ leBytes 1 0 ++ leBytes 2 c.slot ++ leBytes 4 c.pos ++ leBytes 4 c.token ++ leBytes 4 c.step

/-- The commit hash of a step: the low 64 bits of the SHA-512 of its records (R343). -/
def hashOf (t : Step) (s : State) : BitVec 64 := (sha512 ((recordsOf t s).flatMap recordBytes)).setWidth 64

/-- The hash of a step that meets its local conditions is sent once; one the partner sent before is compared (R344). -/
def offerHash (s : State) : State :=
  match s.srv.done with
  | [] => s
  | t :: _ =>
    if !mirrored s || t.num ≤ s.pair.since || t.hashSent || !locallyReady t then s
    else
      let s := setStep t.num (fun t => { t with hashSent := true }) (send (.commitHash t.num (hashOf t s) (BitVec.ofNat 16 (activeId s))) s)
      match s.pair.early.find? fun e => e.1 == t.num with
      | some e => judgeHash t (hashOf t s) e.2 { s with pair := { s.pair with early := s.pair.early.filter fun e => e.1 != t.num } }
      | none => s

/-- Every condition of R296 holds for a step. -/
def gateOpen (t : Step) (s : State) : Bool := locallyReady t && (!mirrored s || decide (t.num ≤ s.pair.since) || t.hash == some true)

/-! ## Commit (R261, R262, R281, R291, R296) -/

/-- The committed tokens of a part join its sequence's history (R253). -/
def extendHistory (p : Part) (r : Request) (s : State) : State :=
  setSeq (isKeep r) r.seq (fun q => { q with history := q.history ++ p.tokens ++ p.drawn.map Prod.fst }) s

/-- The cause a request ends with at this commit (R244, R262). -/
def commitCause (p : Part) (r : Request) (s : State) : Option Nat :=
  match p.drawn.getLast? with
  | some v => tokenCause r r.committed (p.first + p.drawn.length - 1) v.1 s
  | none => if r.consumed < r.promptLen then none else if r.maxNew = 0 then some 3 else if maxPos ≤ seqLen r s then some 5 else none

/-- A part's tokens committed. -/
def commitTokens (num : Nat) (p : Part) (r : Request) (s : State) : State :=
  let s := if r.early then s else putDrawn num p false r.committed s
  let s := extendHistory p r s
  let s := setReq p.key (fun r => noteDepth p { r with
    consumed := r.consumed + p.chunk, committed := r.committed + p.drawn.length }) s
  match reqAt p.key s with
  | some r =>
    (match commitCause p r s with
      | some c => endRequest p.key c s
      | none => putResults r s)
  | none => s

/-- A part of a committing step: a tile fault (R119) or an empty distribution (R281, R283) ends its request. -/
def commitPart (num : Nat) (p : Part) (s : State) : State :=
  match reqAt p.key s with
  | none => s
  | some r =>
    let s := setReq p.key (fun r => { r with lastStep := num }) s
    if p.fault then failRequest p.key 0x1C s
    else if p.empty || p.badMask then
      let s := log 7 2 (Config.unlistedCode 281).toNat (keyTable p.key) (leBytes 2 (keySlot p.key)) s
      failRequest p.key 0x12 (wr SMP_STAT.mask_err 1 s)
    else commitTokens num p r s

/-- A count added to its region's counters, which hold at their maximum (R129). -/
def addCount (c : Count) (s : State) : State :=
  let key := 65536 * c.slot + c.layer
  let top := 2 ^ 32 - 1
  setRegion c.region (fun r =>
    let o := tget (0, 0, 0) r.counts key
    let v := (min (o.1 + c.groups) top, min (o.2.1 + c.zeros) top, min (o.2.2 + c.sats) top)
    { r with counts := tset (0, 0, 0) r.counts key v }) s

/-- Rebuilt positions of a committed step (R254). -/
def commitRebuild (e : Bool × Nat × Nat) (s : State) : State :=
  setSeq e.1 e.2.1 (fun q => { q with rebuild := q.rebuild - e.2.2 }) s

/-- The registers that describe the last committed step (R269, R295, R327), and its trace. -/
def commitRegs (t : Step) (s : State) : State :=
  let sum := fun f : Part → Nat => t.parts.foldl (fun a p => a + f p) 0
  let s := wr CHK_COMMIT_LAG.step t.num (wr SRV_STEP_BUDGET.last (min t.duration 1048575) s)
  let s := wr SMP_STAT.proposed (sum (·.proposed)) (wr SMP_STAT.accepted (sum (·.accepted)) s)
  log 7 0 0x00F0 0 (leBytes 4 t.num ++ leBytes 4 t.duration ++ leBytes 2 t.parts.length ++ leBytes 2 (sum (·.drawn.length))) s

/-- The tile images a step saved are kept once it commits (R101). -/
def keepSaves (t : Step) (s : State) : State :=
  { s with saves := t.saves.foldl (fun m e => tset [] m e.1 e.2) s.saves }

/-- The oldest ended step commits; recipe windows that ended before it are evaluated first (R130). -/
def commitStep (t : Step) (s : State) : State :=
  let s := keepSaves t (if t.counts.isEmpty then s else evalWindows s)
  let s := t.parts.foldl (fun a p => commitPart t.num p a) s
  let s := t.rebuilds.foldl (fun a e => commitRebuild e a) s
  let s := t.counts.foldl (fun a c => addCount c a) s
  let s := commitRegs t { s with srv := { s.srv with
    done := s.srv.done.filter fun u => u.num != t.num, lastWide := t.wide } }
  let s := if splitMode s then send (.commitNotice t.num) s else s
  ((s.wld.wardrobes.map Prod.fst).foldl (fun a c => freeVersions c a) (freeDrained s))

/-- The oldest ended step commits where its gate is open; its hash is offered first. -/
def tryCommit (s : State) : State :=
  let s := offerHash s
  match s.srv.done with
  | [] => s
  | t :: _ => if gateOpen t s then commitStep t s else s

/-! ## A step boundary -/

/-- The exact-execution mode of the Tin Soldier model (R366): from 110 °C on with any cause in force, back below 105 °C. -/
def exactReturn (s : State) : State :=
  let hot := if s.tin.exact then decide (deg 105 ≤ junction s) else decide (deg 110 ≤ junction s)
  let on := keepServed s && s.tin.master && hot && (s.tin.exact || rd GLB_STATE.tin_cause s != 0)
  { s with tin := { s.tin with exact := on } }

/-- Values that take effect at a boundary (R269, R270, R287, R293, R324). -/
def latchValues (s : State) : State :=
  { s with srv := { s.srv with
      budget := rd SRV_STEP_BUDGET.budget s, chunkMin := rd SRV_CHUNK.min s, chunkMax := rd SRV_CHUNK.max s
      repWindow := rd SMP_CTL.rep_window s, spec := s.reg SMP_SPEC, shadowRate := rd CHK_SHADOW_RATE.log2_rate s } }

/-- Layers on their wide alternative over the resident generations (R143). DESIGN CHOICE (log entry 163): they are counted
before the recipe changes of the same boundary. -/
def wideCount (s : State) : Nat := (wideNow s).length

/-- The shedding stage at a boundary (R143, R144): one stage further while the prediction exceeds the budget; otherwise quiet boundaries
are counted. -/
def stageAdvance (predicted lower : Nat) (s : State) : State :=
  let st := rd SRV_STAT.stage s
  if budgetUs s < predicted then
    let s := { s with srv := { s.srv with quiet := 0 } }
    if st < 3 then
      let s := wr SRV_STAT.stage (st + 1) s
      if st = 2 then log 7 4 0x0070 0 (leBytes 2 (wideCount s)) { s with srv := { s.srv with storm := true } } else s
    else s
  else if 0 < st ∧ lower * 10 ≤ budgetUs s * 9 then { s with srv := { s.srv with quiet := s.srv.quiet + 1 } }
  else { s with srv := { s.srv with quiet := 0 } }

/-- The scheduler's predictions at a boundary (R143, R144): those it brings, else the last ones. DESIGN CHOICE (log entry 164): where
no step ends and no request runs the coming step is empty and takes no time. -/
def takePrediction (inp : Option StepInput) (s : State) : State :=
  match inp with
  | some i => { s with srv := { s.srv with predicted := i.predicted, predictedLower := i.predictedLower, tokenCost := i.tokenCost } }
  | none => if s.srv.requests.any fun r => r.running then s else { s with srv := { s.srv with predicted := 0 } }

/-- The scheduler at a boundary. -/
def scheduleStep (inp : Option StepInput) (s : State) : State :=
  let s := takePrediction inp s
  stageAdvance s.srv.predicted s.srv.predictedLower s

/-- A ring whose ring_rd is invalid (R260). -/
def checkRing (r : Request) (s : State) : State :=
  if ringValid r s then s
  else log 7 2 0x0074 (keyTable r.key) (leBytes 2 (keySlot r.key) ++ leBytes 4 (ringRd r s) ++ leBytes 4 r.ringWr)
    (wr SRV_STAT.scan_err 1 s)

/-- Held entries of a request written as its ring shows room; an end that waited behind them follows (R260). -/
def serveRing (key : Nat) (s : State) : State :=
  match reqAt key s with
  | none => s
  | some r =>
    let s := flushHeld r.held.length key (checkRing r s)
    match reqAt key s with
    | none => s
    | some r =>
      let s := putResults r s
      match r.endCause with
      | some c => if r.held.isEmpty then finish key c s else s
      | none => s

/-- A cancelled running request ends (R263), one whose end was held with the cause it had (R260). -/
def serveCancel (key : Nat) (s : State) : State :=
  match reqAt key s with
  | none => s
  | some r => if r.running && r.cancelled then finish key (r.endCause.getD 0x10) (dropParts key s) else s

/-- A running request at the end of the position space draws nothing more (R244). -/
def serveFull (key : Nat) (s : State) : State :=
  match reqAt key s with
  | none => s
  | some r =>
    if r.running && r.endCause.isNone && (inFlight key s).isEmpty && decide (r.promptLen ≤ r.consumed) && decide (maxPos ≤ seqLen r s)
    then endRequest key 5 s else s

/-- A prompt whose next chunk lies in a line hit by an HBM error ends its request (R382). -/
def servePrompt (key : Nat) (s : State) : State :=
  match reqAt key s with
  | none => s
  | some r =>
    let left := promptLeft r s
    let start := r.promptOff + 4 * (r.promptLen - left)
    if spanBad start (4 * min left (chunkLimits s).2) s then failRequest key 0x12 s else s

/-- Every request whose ring or cancel bit asks for something at a boundary. -/
def serveRequests (s : State) : State :=
  let keys := (s.srv.requests.filter fun r => r.running).map (·.key)
  let s := keys.foldl (fun a k => serveCancel k a) s
  let s := keys.foldl (fun a k => serveRing k a) s
  let s := keys.foldl (fun a k => servePrompt k a) s
  keys.foldl (fun a k => serveFull k a) s

/-- After a replay that is not void its stand-in demands end (R298, R305). -/
def endReplayCover (s : State) : State :=
  let s := mapBlocks (fun _ _ b => { b with want := b.want.filter (· != .replay) }) s
  { s with regions := s.regions.map fun p => (p.1, { p.2 with want := p.2.want.filter (fun c => c != .replay) }) }

/-- The changes staged for the boundary before a new step, as the plan names them. -/
def stagedChanges (s : State) : List (Nat × Nat × Bool) :=
  (s.srv.stagedRecipes.filter fun e => decide (e.1 ≤ s.srv.highest + 1)).map fun e => e.2

/-- The pair forms (R341, R350, R552): at a step boundary; requests that run go on unmirrored, GLB_STEP is the larger one. -/
def joinPair (s : State) : State :=
  if !s.pair.joining then s
  else
    let alone := (s.srv.requests.filter fun r => r.running).map (·.order)
    wr GLB_STEP.step s.srv.highest (wr PAIR_STAT.state 3 { s with pair := { s.pair with joining := false, alone, since := s.srv.highest } })

/-- What takes effect at a boundary, the admissions, and the start of what runs next (R9, R246, R249). -/
def openStep (inp : Option StepInput) (s : State) : State :=
  let s := latchValues (joinPair s)
  let s := scheduleStep inp s
  let changes := stagedChanges s
  let s := rattleAtBoundary (latchArrays s)
  let s := applyRecipes (s.srv.highest + 1) (latchCostumes (latchGens s))
  let s := if s.tin.leaving then leaveTinNow s else s
  let s := serveRequests (exactReturn s)
  let was := (s.srv.requests.filter fun r => r.running).map (·.key)
  let s := admitAll s
  let fresh := ((s.srv.requests.filter fun r => r.running).map (·.key)).filter fun k => !was.contains k
  let s := startNext fresh changes s
  wrb CHK_COMMIT_LAG.lag (!s.srv.done.isEmpty) s

/-- Where nothing runs next, an ended step whose gate is open commits at once, and that instant is a boundary again (R249). -/
def settleLast (s : State) : State :=
  if s.srv.running.isSome || s.srv.done.isEmpty then s
  else
    let n := s.srv.done.length
    let s := tryCommit s
    if s.srv.done.length < n then openStep none s else s

/-- Steps can run: SERVICE, TIN or the ROM runner, with the PLL locked (R471, R548). -/
def stepsRun (s : State) : Bool := (inService s || keepServed s) && rdb CLK_ROOT_STAT.lock s

/-- The boundary waits: reads of the running step are out (R78). -/
def readsOut (s : State) : Bool := match s.srv.running with | some t => t.reads != 0 | none => false

/-- The boundary is held: the next run would be new while the step before the running one still waits (R297). -/
def boundaryHeld (s : State) : Bool :=
  settlementWaits s || match s.srv.running, s.srv.done with
    | some t, u :: _ => !t.void && !u.void && !gateOpen u s
    | _, _ => false

/-- A held boundary counts once (R297, R327). -/
def holdBoundary (s : State) : State :=
  if s.srv.holding then s else incHold CHK_COMMIT_LAG.held 1 { s with srv := { s.srv with holding := true } }

/-- The step before the one that just ended commits where its gate is open (R10). -/
def commitEarlier (s : State) : State := if 2 ≤ s.srv.done.length then tryCommit s else s

/-- The running step ends and the next one starts. -/
def passBoundary (inp : StepInput) (s : State) : State :=
  let replay := match s.srv.running with | some t => t.replays != 0 | none => false
  let s := endRun inp { s with srv := { s.srv with holding := false } }
  let good := match s.srv.done.getLast? with | some t => !t.void | none => false
  let s := clearStep (queueVoids (commitEarlier s))
  settleLast (openStep (some inp) (if replay && good then endReplayCover s else s))

/-- STEP_BOUNDARY (R9). It waits while reads are out, while steps cannot run, and while the step before has to be checked. -/
def execStepBoundary (inp : StepInput) (s : State) : Host.Outcome State Fault Refusal :=
  .next <|
    if !stepsRun s || readsOut s then s
    else
      let s := offerHash s
      if boundaryHeld s then holdBoundary s else passBoundary inp s

/-- The commit of the last ended step while none runs; a step that failed its checks is replayed (R249, R298). -/
def commitIdle (s : State) : State :=
  let s' := queueVoids (tryCommit s)
  if s'.srv.done.length < s.srv.done.length then settleLast (openStep none s') else s'

/-- COMMIT (R296): while no step runs, the oldest ended step commits at the instant its last condition is met, and that instant counts as
a boundary (R249). While a step runs, the hash of a checked step is offered and the commit waits for the boundary (R10, R344). -/
def execCommit (s : State) : Host.Outcome State Fault Refusal :=
  .next (if !stepsRun s then s else if s.srv.running.isSome then offerHash s else commitIdle s)

end Sys2Proof.Machine
end

