-- ==== Sys2Proof/Machine/Memory.lean ====
section
/-! DEFINITION. HBM stacks and the scratchpad (15_memory.md R373 to R399; 12_integrity.md R318). -/

namespace Sys2Proof.Machine

/-! ## HBM: training, repair, failure -/

/-- One hour and one day in cycles. -/
def hour : Nat := 3600 * second

/-- The recent errors of a stack. -/
def hbmAt (k : Nat) (s : State) : HbmErrors := tget HbmErrors.init s.hbm k

/-- The recent errors of a stack changed by `f`. -/
def setHbm (k : Nat) (f : HbmErrors → HbmErrors) (s : State) : State :=
  { s with hbm := tset HbmErrors.init s.hbm k (f (hbmAt k s)) }

/-- The HDM range can serve CXL.mem (R406): every stack is trained or has failed, and none is in self-refresh. -/
def hbmServes (s : State) : Bool :=
  (List.range 12).all fun k => decide (2 ≤ rd (MEM_HBM_STAT.state k) s) && !rdb (MEM_HBM_STAT.sr k) s

/-- Memory_Active reads 1 once HBM serves (R406); the whole range was written to zero after a POR. -/
def activate (s : State) : State :=
  if hbmServes s then { s with cxl := { s.cxl with memActive := true } } else s

/-- Every resident main generation is lost, with the sequences' pages (R384). -/
def loseGenerations (s : State) : State :=
  let s := endLoad 11 0 s
  let s := (List.range 4).foldl (fun a g => if rd (WLD_GEN.state g) a = 0 then a else freeSlot g a) s
  let s := noActive s
  { s with srv := { s.srv with seqs := s.srv.seqs.map fun q =>
      if q.keep then q else { q with rebuild := q.history.length } } }

/-- A stack fails (R384): every main generation is lost and Tin Soldier mode is entered with cause 0. -/
def failStack (k : Nat) (s : State) : State :=
  if rd (MEM_HBM_STAT.state k) s = 3 then s
  else
    let s := wr (MEM_HBM_STAT.fail k) 1 (wr (MEM_HBM_STAT.sr k) 0 (wr (MEM_HBM_STAT.state k) 3 s))
    raiseTin 0 (loseGenerations s)

/-- HBM_TRAINING (R374): a training run of a stack ends at a rate, or fails at the lowest one. A failed stack stays failed until a POR. -/
def execHbmTraining (stack : Fin 12) (rate : Option (Fin 3)) (s : State) : Host.Outcome State Fault Refusal :=
  .next <|
    let k := stack.val
    if rd (MEM_HBM_STAT.state k) s = 3 then s
    else
      let s := incHold (MEM_HBM_STAT.trains k) 1 s
      match rate with
      | some r => activate (refreshRise (wr (MEM_HBM_STAT.sr k) 0 (wr (MEM_HBM_STAT.rate k) r.val (wr (MEM_HBM_STAT.state k) 2 s))))
      | none => activate (failStack k s)

/-- Soft repairs of a stack that the fault record holds (R383). -/
def repairsOf (k : Nat) (s : State) : Nat := (s.nv.repairs.filter fun r => r.1 == k).length

/-- A row is repaired, or its bank has nothing left: a frame of the KV pool is retired, any other row goes on (R383). -/
def repairRow (k row : Nat) (left inPool : Bool) (s : State) : State :=
  let s := setHbm k (fun h => { h with rows := tset [] h.rows row [] }) s
  if left then
    let s := { s with nv := { s.nv with repairs := s.nv.repairs ++ [(k, row)] } }
    log 11 1 0x00B2 k (leBytes 5 row) (wr (MEM_HBM_STAT.repairs k) (min (repairsOf k s) 255) s)
  else if inPool then updateKvStat { s with srv := { s.srv with lossFrames := s.srv.lossFrames + 1 } }
  else s

/-- A corrected line (R382, R383, R394): counted, logged; the fourth of a row within 24 h repairs it. -/
def correctedLine (k : Nat) (line : BitVec 34) (row : Nat) (left inPool : Bool) (s : State) : State :=
  let h := hbmAt k s
  let c := recent hour h.corrections s ++ [s.now]
  let l := recent (24 * hour) (tget [] h.rows row) s ++ [s.now]
  let s := setHbm k (fun h => { h with corrections := c, rows := tset [] h.rows row l }) s
  let s := incHold (MEM_ECC_CE.count k) 1 (wr (MEM_ECC_CE.line k) line.toNat s)
  let s := if 1000 < c.length then wr (MEM_HBM_STAT.ce_hi k) 1 s else s
  let s := log 11 1 0x00B0 k (leBytes 5 line.toNat) s
  if 4 ≤ l.length then repairRow k row left inPool s else s

/-- HBM_CORRECTED (R381, R382). -/
def execHbmCorrected (stack : Fin 12) (line : BitVec 34) (row : Nat) (repairLeft inPool : Bool) (s : State) :
    Host.Outcome State Fault Refusal :=
  .next (correctedLine stack.val line row repairLeft inPool s)

/-- PATROL_SCRUB (R381): a line read by the scrubber, corrected where it had an error. -/
def execPatrolScrub (stack : Fin 12) (line : BitVec 34) (row : Nat) (corrected repairLeft inPool : Bool) (s : State) :
    Host.Outcome State Fault Refusal :=
  .next (if corrected then correctedLine stack.val line row repairLeft inPool s else s)

/-! ## HBM: uncorrectable lines by area (R254, R318, R382) -/

/-- MEM_ECC_UE_s.area (R396). -/
def areaCode : HbmArea → Nat
  | .hdm => 0
  | .master => 1
  | .placement => 2
  | .keep => 3
  | .factors => 4
  | .costumes => 5
  | .histories => 6
  | .saves => 7
  | .step => 8
  | .firmware => 9
  | .kvPool => 10

/-- A chunk of a master copy is to be fetched again (R20, R203): from host memory or the boot NVM, or from the Parcel chain by a
re-request. The copy is complete again when it has come. While the load that brings the generation still fetches, it fetches the chunk
again as one of its own. -/
def loseChunk (g index : Nat) (s : State) : State :=
  let x := genAt g s
  if !(x.chunks.contains index || x.verify.contains index) then s
  else
    let fetching := match s.wld.load with
      | some l => l.slot == g && decide (l.phase ≤ 2)
      | none => false
    let counted := fetching && x.chunks.contains index
    let s := setGen g (fun x => { x with
      chunks := x.chunks.filter (· != index), verify := x.verify.filter (· != index), payload := tset [] x.payload index []
      reload := if fetching || x.reload.contains index then x.reload else x.reload ++ [index] }) s
    let s := if counted then wr WLD_STAT.chunks_done (rd WLD_STAT.chunks_done s - 1) s else s
    askLost g index (wr (WLD_GEN.master g) 0 s)

/-- A sequence's pages are rebuilt from its history (R254): its request produces no token until then. -/
def damageSeq (id pos : Nat) (s : State) : State :=
  match seqAt false id s with
  | none => s
  | some q =>
    if !isLive q then s
    else
      let keys := (s.srv.requests.filter fun r => r.running && !isKeep r && r.seq == id).map (·.key)
      let s := setRunning (fun t => { t with parts := t.parts.filter fun p => !keys.contains p.key }) s
      let s := { s with srv := { s.srv with kv := s.srv.kv.filter fun k => !(k.seq == id && k.pos / 256 == pos / 256) } }
      setSeq false id (fun q => { q with rebuild := q.history.length }) s

/-- A sequence whose history is lost ends, its requests FAILED with cause 0x1D (R254); its live place is free (R247). `unit` is the
sequence id, plus 65,536 for a keep sequence. -/
def loseSeq (unit : Nat) (s : State) : State :=
  let keep := decide (65536 ≤ unit)
  let keys := (s.srv.requests.filter fun r => isKeep r == keep && r.seq == unit % 65536).map (·.key)
  startFetches (endSeq keep (unit % 65536) (keys.foldl (fun a k => failRequest k 0x1D a) s))

/-- What an uncorrectable line does by its area (R318, R382). Where an area is held twice the other copy is used; DESIGN CHOICE (log entry
101): the loss of both copies ends sequences (R254), makes the factor store bad (R188) and the keep copy incomplete, and changes nothing
for Costumes and save images. -/
def areaEffect (h : HbmHit) (s : State) : State :=
  match h.area with
  | .hdm => { s with hdmPoison := tset false s.hdmPoison (h.index / 64) true }
  | .master => loseChunk h.unit h.index s
  | .placement => if h.unit < 52 then settle (wantRegion h.unit .place s) else s
  | .keep => if h.bothCopies then { s with tin := { s.tin with master := false } } else s
  | .factors => if h.bothCopies then { s with boot := { s.boot with badFactors := true } } else s
  | .costumes => s
  | .histories => if h.bothCopies then loseSeq h.unit s else s
  | .saves => s
  | .step => voidRunning s
  | .firmware => s
  | .kvPool => damageSeq h.unit h.index s

/-- HBM_UNCORRECTABLE (R382 to R384): counted, logged, handled by area, its row repaired; more than 64 in a second fail the stack. -/
def execHbmUncorrectable (hit : HbmHit) (s : State) : Host.Outcome State Fault Refusal :=
  .next <|
    let k := hit.stack.val
    let l := recent second (hbmAt k s).errors s ++ [s.now]
    let s := setHbm k (fun h => { h with errors := l }) s
    let s := incHold (MEM_ECC_UE.count k) 1 (wr (MEM_ECC_UE.area k) (areaCode hit.area) (wr (MEM_ECC_UE.line k) hit.line.toNat s))
    let s := log 11 4 0x00B1 k (leBytes 5 hit.line.toNat ++ leBytes 1 (areaCode hit.area)) (wr (MEM_HBM_STAT.ue k) 1 s)
    let s := repairRow k hit.row hit.repairLeft (hit.area == .kvPool) (areaEffect hit s)
    if 64 < l.length then failStack k s else s

/-! ## Scratch (R387 to R391) -/

/-- Who may write a scratch byte address, and who may read it. -/
inductive ScrAccess where
  | open_ | readOnly | closed
  deriving DecidableEq, Repr

/-- The byte address where the secure part's host portion begins (R391, R399). -/
def hostPortion (s : State) : Nat := 0x7800000 + min (rd MEM_SECURE_BASE.host_start s) 0x80 * 65536

/-- A control core. -/
def isCore : Master → Bool
  | .core _ => true
  | _ => false

/-- The access a master has at a scratch address (R387, R391). -/
def scrAccess (who : Master) (a : Nat) (s : State) : ScrAccess :=
  if a < 0x6000000 then (if who = .host then .readOnly else .open_)
  else if a < 0x7800000 then .open_
  else if isCore who then .open_
  else if who = .host ∧ hostPortion s ≤ a then .open_
  else .closed

/-- The three views of R388. -/
inductive View where
  | plain | setBits | clearBits
  deriving DecidableEq, Repr

/-- One byte as a view writes it (R388). -/
def viewByte (v : View) (old new : Byte) : Byte :=
  match v with
  | .plain => new
  | .setBits => old ||| new
  | .clearBits => old &&& ~~~ new

/-- Bytes written through a view where the byte enable is set. -/
def putView (v : View) (a : Nat) : List (Option Byte) → List Host.Cell → List Host.Cell
  | [], m => m
  | none :: t, m => putView v (a + 1) t m
  | some b :: t, m => putView v (a + 1) t (putByte a (viewByte v (byteAt m a) b) m)

/-- The bytes of a write that fall into word `w`, from its first byte on; the write begins at `a`. -/
def wordBytes (a : Nat) (data : List (Option Byte)) (w : Nat) : List (Option Byte) :=
  (List.range 8).map fun i => if a ≤ 8 * w + i then (data[8 * w + i - a]?).getD none else none

/-- One word written through a view (R388 to R390). -/
def writeWord (v : View) (poison : Bool) (w : Nat) (d : List (Option Byte)) (s : State) : State :=
  let bad := tget false s.scrPoison w
  if d.all Option.isNone then s
  else if bad && v != .plain then s
  else
    let full := d.all Option.isSome
    { s with scr := putView v (8 * w) d s.scr, scrPoison := tset false s.scrPoison w (poison || (bad && !full)) }

/-- The offset of a view's window in BAR2 (R388). -/
def viewOffset : View → Nat
  | .plain => 0
  | .setBits => 0x8000000
  | .clearBits => 0x10000000

/-- The words a write covers. -/
def coveredWords (a n : Nat) : List Nat := if n = 0 then [] else (List.range ((a + n - 1) / 8 - a / 8 + 1)).map (a / 8 + ·)

/-- A write to scratch through a view (R387 to R392): one that leaves its 64-byte line is aborted (R407), one that the access rules
refuse is ignored and logged, one to the secure part during a wipe is discarded. -/
def scratchWrite (v : View) (who : Master) (a : Nat) (data : List (Option Byte)) (poison : Bool) (s : State) : State :=
  viaBar who s fun s =>
    let offset := a + viewOffset v
    if 64 < a % 64 + data.length then
      log 14 2 0x0004 (writerUnit who) (leBytes 4 offset ++ leBytes 1 data.length ++ [1, 2]) (answer .abort s)
    else if scrAccess who a s != .open_ then logIgnored who offset (leNat ((data.take 4).map fun b => b.getD 0)) s
    else if 0x7800000 ≤ a && s.sec.wiping then s
    else (coveredWords a data.length).foldl (fun m w => writeWord v poison w (wordBytes a data w) m) s

/-- The region and block whose residual-table entry a scratch word is (R95, R96). -/
def residualWord (w : Nat) (s : State) : Option (Nat × Nat) :=
  ((List.range 52).find? fun r =>
    let a := residBase r s
    a != 0 && decide (a ≤ 8 * w) && decide (8 * w < a + 8 * 1312)).map fun r => (r, (8 * w - residBase r s) / 8)

/-- A residual-table entry with valid = 0 (R95, R318). -/
def entryInvalid (e : Nat) : Nat := if e.testBit 36 then e - 2 ^ 36 else e

/-- A scratch word as a read gives it. An entry of a residual table that has not been written since the table was placed reads as that of a
block without a figure (R92, R95): valid = 0. -/
def scrWord (w : Nat) (s : State) : Nat :=
  let v := scrNat (8 * w) 8 s
  match if v = 0 then residualWord w s else none with
  | some (r, b) => entryInvalid (residualEntry r b s)
  | none => v

/-- A read of one 64-byte line of scratch (R387, R388, R390 to R392): zero and logged where the access rules refuse it, zero from the secure
part during a wipe, poison with a poisoned word. -/
def scratchRead (who : Master) (line : Nat) (s : State) : State :=
  let a := 64 * line
  if scrAccess who a s == .closed then logIgnored who a 0 (answer (.bytes (List.replicate 64 0)) s)
  else if 0x7800000 ≤ a && s.sec.wiping then answer (.bytes (List.replicate 64 0)) s
  else
    let bytes := (List.range 8).flatMap fun i => leBytes 8 (scrWord (8 * line + i) s)
    answer (if (coveredWords a 64).any (tget false s.scrPoison) then .poison bytes else .bytes bytes) s

/-- The view and the plain line of a line of BAR2 (R388); the last window has none. -/
def viewOf (line : Nat) : Option View × Nat :=
  ([some .plain, some .setBits, some .clearBits, none].getD (line / 2097152) none, line % 2097152)

/-- An access to one line of the scratch windows (R387 to R392): the reserved window reads zero and ignores writes. -/
def scratchAccess (a : MemAccess) (s : State) : State :=
  viaBar a.who s fun s =>
    let v := viewOf a.line
    match v.1, a.write with
    | some v', true => scratchWrite v' a.who (64 * v.2) (a.data.take 64) a.poison s
    | some _, false => scratchRead a.who v.2 s
    | none, true => logIgnored a.who (64 * a.line) (leNat ((a.data.take 4).map fun b => b.getD 0)) s
    | none, false => answer (.bytes (List.replicate 64 0)) s

/-- SCRATCH_WRITE (R387 to R391). -/
def execScratchWrite (who : Master) (addr : Fin 134217728) (data : List (Option Byte)) (poison : Bool) (s : State) :
    Host.Outcome State Fault Refusal :=
  .next (scratchWrite .plain who addr.val data poison s)

/-- BIT_SET_ALIAS_WRITE (R388). -/
def execBitSetAliasWrite (who : Master) (addr : Fin 134217728) (data : List (Option Byte)) (s : State) :
    Host.Outcome State Fault Refusal :=
  .next (scratchWrite .setBits who addr.val data false s)

/-- BIT_CLEAR_ALIAS_WRITE (R388). -/
def execBitClearAliasWrite (who : Master) (addr : Fin 134217728) (data : List (Option Byte)) (s : State) :
    Host.Outcome State Fault Refusal :=
  .next (scratchWrite .clearBits who addr.val data false s)

/-! ## Scratch errors (R318, R390, R398) -/

/-- What the part does about a poisoned word of its own (R318): the step in flight is void, firmware rebuilds the word; a residual-table
entry reads valid = 0 until the block's next set. -/
def ownWordLost (w : Nat) (s : State) : State :=
  let s := voidRunning { s with scrPoison := tset false s.scrPoison w false }
  match residualWord w s with
  | some (r, b) => putScr (8 * w) 8 (entryInvalid (residualEntry r b s)) s
  | none => s

/-- One word found with an error (R390): corrected and counted, or poisoned. -/
def scratchError (w : Nat) (double : Bool) (s : State) : State :=
  if double then
    let s := incHold MEM_SCR_ECC.ue_count 1 (wr MEM_SCR_ECC.ue 1 (wr MEM_SCR_ECC.last_ue 1 (wr MEM_SCR_ECC.addr w s)))
    let s := log 11 4 0x00B3 0 (leBytes 4 (8 * w)) { s with scrPoison := tset false s.scrPoison w true }
    if 8 * w < 0x6000000 then ownWordLost w s else s
  else incHold MEM_SCR_ECC.ce 1 (wr MEM_SCR_ECC.last_ue 0 (wr MEM_SCR_ECC.addr w s))

/-- More than 256 corrections within a second (R398). -/
def scratchStorm (storm : Bool) (s : State) : State := if storm then wr MEM_SCR_ECC.ce_storm 1 s else s

/-- SCRATCH_ECC_ERROR (R390). -/
def execScratchEccError (word : Fin 16777216) (double storm : Bool) (s : State) : Host.Outcome State Fault Refusal :=
  .next (scratchStorm storm (scratchError word.val double s))

/-- SCRATCH_SCRUB (R390): one pass over every word. -/
def execScratchScrub (single double : List (Fin 16777216)) (storm : Bool) (s : State) : Host.Outcome State Fault Refusal :=
  .next (scratchStorm storm (double.foldl (fun a w => scratchError w.val true a)
    (single.foldl (fun a w => scratchError w.val false a) s)))

end Sys2Proof.Machine
end

