-- ==== Sys2Proof/Machine/Events.lean ====
section
/-! DEFINITION. The event log: reports merged, staged or lost, the drain to the host ring, the ring's registers
(17_interrupts_events.md R442 to R452, R460 to R467). -/

namespace Sys2Proof.Machine

/-! ## Staging -/

/-- The next sequence number of a class (R442). -/
def nextSeq (c : Nat) (s : State) : Nat := tget 0 s.evt.seqs c

/-- `n` sequence numbers of a class consumed, modulo 2³². -/
def takeSeq (c n : Nat) (s : State) : State :=
  { s with evt := { s.evt with seqs := tset 0 s.evt.seqs c ((nextSeq c s + n) % 2 ^ 32) } }

/-- No lost run. -/
def LostRun.none : LostRun := ⟨0, 0, 0⟩

/-- The lost run of a class (R448). -/
def lostRun (c : Nat) (s : State) : LostRun := tget LostRun.none s.evt.lost c

/-- Nothing can be written to the host (R451): the link is down or Bus Master Enable is 0. -/
def evtBlocked (s : State) : Bool := !hostReach s

/-- Reports go to the management-domain buffer (R451). -/
def evtAsleep (s : State) : Bool := decide (3 ≤ rd PWR_STATE.state s)

/-- The list reports are staged in. -/
def stagingList (s : State) : List Entry := if evtAsleep s then s.evt.buffer else s.evt.staged

/-- That list replaced. -/
def setStaging (l : List Entry) (s : State) : State :=
  if evtAsleep s then { s with evt := { s.evt with buffer := l } } else { s with evt := { s.evt with staged := l } }

/-- The entries below which a severity is staged (R448, R451). -/
def stageLimit (sev : Nat) (s : State) : Nat :=
  if evtAsleep s then (if sev = 0 then 2048 else if sev ≤ 2 then 4032 else 4096)
  else if sev = 0 then 32768 else if sev ≤ 2 then 64512 else 65536

/-- A report as an entry that takes sequence number `seq`. -/
def entryFor (h : Handed) (seq : Nat) : Entry :=
  let r := h.report
  ⟨seq, r.cls.val, r.severity.val, !stepClass r.cls.val, r.code.toNat, h.stamp, r.unit.toNat, 1, r.detail.take 12⟩

/-- The newest staged entry of a class and what stands after it. -/
def newestOf (c : Nat) (l : List Entry) : Option Entry := l.reverse.find? fun e => e.cls == c

/-- A report may be merged into an entry (R447). -/
def mergesInto (h : Handed) (e : Entry) (s : State) : Bool :=
  h.report.severity.val != 0 && h.report.severity.val != 4 && e.severity != 0 && e.code == h.report.code.toNat
    && e.unit == h.report.unit.toNat && nextSeq e.cls s == (e.seq + e.count) % 2 ^ 32 && decide (e.count < 65535)

/-- The merge (R447). -/
def mergeInto (e : Entry) (s : State) : State :=
  takeSeq e.cls 1 (setStaging ((stagingList s).map fun x => if x = e then { x with count := x.count + 1 } else x) s)

/-- A report lost (R448). -/
def loseReport (c : Nat) (s : State) : State :=
  let q := nextSeq c s
  let l := lostRun c s
  let l' : LostRun := ⟨min (l.run + 1) 65535, if l.run = 0 then q else l.first, q⟩
  takeSeq c 1 (wr EVT_CFG.lost 1 { s with evt := { s.evt with lost := tset LostRun.none s.evt.lost c l' } })

/-- The lost marker of a class staged (R449). -/
def stageMarker (c : Nat) (s : State) : State :=
  let l := lostRun c s
  let e : Entry := ⟨nextSeq c s, c, 2, !stepClass c, 1, stampOf c s, 0, 1, leBytes 4 l.run ++ leBytes 4 l.first ++ leBytes 4 l.last⟩
  takeSeq c 1 (setStaging (stagingList s ++ [e])
    { s with evt := { s.evt with lost := tset LostRun.none s.evt.lost c LostRun.none } })

/-- A report staged, with its own sequence number. -/
def stageReport (h : Handed) (s : State) : State :=
  takeSeq h.report.cls.val 1 (setStaging (stagingList s ++ [entryFor h (nextSeq h.report.cls.val s)]) s)

/-- A report not merged (R448, R449). -/
def stageOrLose (h : Handed) (s : State) : State :=
  let c := h.report.cls.val
  let n := (stagingList s).length
  let limit := stageLimit h.report.severity.val s
  if (lostRun c s).run = 0 then (if n < limit then stageReport h s else loseReport c s)
  else if n < limit - 1 then stageReport h (stageMarker c s) else loseReport c s

/-- A trace record (R448, R464). -/
def traceReport (h : Handed) (s : State) : State :=
  let c := h.report.cls.val
  if !(rd EVT_TRACE_CFG.classes s).testBit c then s
  else if evtBlocked s || decide (stageLimit 0 s ≤ (stagingList s).length) then incHold EVT_TRACE_DROP.dropped 1 s
  else setStaging (stagingList s ++ [entryFor h (nextSeq c s)]) s

/-- A report taken up (R447 to R451). -/
def takeReport (h : Handed) (s : State) : State :=
  if h.report.severity.val = 0 then traceReport h s
  else if evtBlocked s then loseReport h.report.cls.val s
  else match newestOf h.report.cls.val (stagingList s) with
    | some e => if mergesInto h e s then mergeInto e s else stageOrLose h s
    | none => stageOrLose h s

/-- EVENT_REPORT (R447): the oldest report handed in by a unit of the part, or one given with the command. -/
def execEventReport (r : Option Report) (s : State) : Host.Outcome State Fault Refusal :=
  .next <|
    match r with
    | some r => takeReport ⟨r, stampOf r.cls.val s⟩ s
    | none => match s.reports with
      | [] => s
      | h :: t => takeReport h { s with reports := t }

/-! ## The drain -/

/-- n of R445. -/
def log2Entries (s : State) : Nat := max 10 (min (rd EVT_SIZE.log2_entries s) 20)

/-- The 32 bytes of an entry at ring index `i` (R444, R445). -/
def eventBytes (e : Entry) (i n : Nat) : List Byte :=
  let lap := if i / 2 ^ n % 2 = 0 then 1 else 0
  leBytes 4 e.seq ++ leBytes 1 (e.cls + 16 * e.severity + 128 * lap)
    ++ leBytes 1 (e.cycles.toNat + 2 * (decide (1 < e.count)).toNat) ++ leBytes 2 e.code ++ leBytes 8 e.stamp ++ leBytes 2 e.unit
    ++ leBytes 2 e.count ++ (e.detail ++ List.replicate 12 0).take 12

/-- The cap in bytes per window of 1 ms (R450, R465). -/
def capBytes (s : State) : Nat := max 1 (min (rd EVT_TELEM_CAP.cap s) 1024) * 1000

/-- The windows of the cap and of the rate brought up to the present instant (R450, R465). -/
def rollWindows (s : State) : State :=
  let w := s.now / 600000
  let c := s.now / second
  let s := if s.evt.window = w then s else { s with evt := { s.evt with window := w, windowBytes := 0 } }
  if s.evt.second = c then s
  else
    let last := if s.evt.second + 1 = c then s.evt.secondBytes else 0
    wr EVT_TELEM_CAP.rate (last / 1000000) { s with evt := { s.evt with second := c, secondBytes := 0 } }

/-- An entry can be written to the host ring now (R445, R450, R451). -/
def mayDrain (s : State) : Bool :=
  rdb EVT_CFG.en s && !evtBlocked s && !evtAsleep s && decide (ringUsed s < 2 ^ log2Entries s)
    && decide (s.evt.windowBytes + 32 ≤ capBytes s)

/-- One entry written at head (R445). -/
def writeRing (e : Entry) (s : State) : State :=
  let i := rd EVT_HEAD.head s
  let n := log2Entries s
  let a := rd EVT_BASE.addr s * 4096 + 32 * (i % 2 ^ n)
  let s := { s with host := putBytes a (eventBytes e i n) s.host }
  incWrap EVT_HEAD.head 1 { s with evt := { s.evt with
    windowBytes := s.evt.windowBytes + 32, secondBytes := s.evt.secondBytes + 32 } }

/-- The ring-start entry (R452). -/
def startEntry (s : State) : Entry :=
  ⟨nextSeq 12 s, 12, 1, true, 3, stampOf 12 s, 0, 1, leBytes 4 (log2Entries s)⟩

/-- Lost markers staged alone once staging is below the warning threshold (R449). -/
def drainMarkers (s : State) : State :=
  if evtBlocked s then s
  else (List.range 16).foldl (fun a c =>
    if (lostRun c a).run != 0 && !(a.reports.any fun h => h.report.cls.val == c)
        && decide ((stagingList a).length < stageLimit 2 a) then stageMarker c a else a) s

/-- EVENT_DRAIN (R450, R452): one entry goes to the host ring, the ring-start entry ahead of every staged one; a write that fails sets
ring_err and the entry stays (R460). -/
def execEventDrain (writeFails : Bool) (s : State) : Host.Outcome State Fault Refusal :=
  let s := rollWindows s
  .next <|
    if !mayDrain s then s
    else if s.evt.startDue then
      (if writeFails then wr EVT_CFG.ring_err 1 s
       else writeRing (startEntry s) { s with evt := { s.evt with startDue := false } })
    else match s.evt.staged with
      | [] => s
      | e :: t => if writeFails then wr EVT_CFG.ring_err 1 s
        else drainMarkers (writeRing e { s with evt := { s.evt with staged := t } })

/-! ## EVT_CFG and EVT_TAIL -/

/-- EVT_CFG written (R452, R460): setting en starts the ring at 0. -/
def evtCfgWrite (w : Write) (s : State) : State :=
  guarded EVT_CFG w s fun s =>
    let was := rdb EVT_CFG.en s
    let s := if wone EVT_CFG.lost w then wr EVT_CFG.lost 0 s else s
    let s := if wone EVT_CFG.ring_err w then wr EVT_CFG.ring_err 0 s else s
    let s := wtake EVT_CFG.thr w (wtake EVT_CFG.en w s)
    if !was && rdb EVT_CFG.en s then
      wr EVT_HEAD.head 0 (wr EVT_TAIL.tail 0 { s with evt := { s.evt with startDue := true } })
    else s

/-- RING_START (R452). -/
def execRingStart (w : Write) (s : State) : Host.Outcome State Fault Refusal := .next (evtCfgWrite w s)

/-- EVT_TAIL written (R462). -/
def evtTailWrite (w : Write) (s : State) : State :=
  guarded EVT_TAIL w s fun s =>
    let v := wbits EVT_TAIL.tail w s
    if 2 ^ log2Entries s < (rd EVT_HEAD.head s + 2 ^ 32 - v) % 2 ^ 32 then wr EVT_CFG.ring_err 1 s
    else wr EVT_TAIL.tail v s

/-- EVT_TAIL_WRITE (R462). -/
def execEvtTailWrite (w : Write) (s : State) : Host.Outcome State Fault Refusal := .next (evtTailWrite w s)

end Sys2Proof.Machine
end

