-- ==== Sys2Proof/Machine/Security.lean ====
section
/-! DEFINITION. The security block: the secure wipe, tamper, life-cycle transitions, attestation (15_memory.md R392;
19_boot_security.md R521 to R530, R535 to R538). -/

namespace Sys2Proof.Machine

/-! ## The secure wipe (R392) and tamper (R526, R527) -/

/-- The secure part reads zero with valid check bits (R392). -/
def zeroSecure (s : State) : State :=
  { s with scr := s.scr.filter fun c => decide (c.1 < 0x7800000)
           scrPoison := s.scrPoison.filter fun p => decide (8 * p.1 < 0x7800000) }

/-- A report that fails (R529). -/
def failReport (code : Nat) (s : State) : State :=
  wr SEC_ATTEST_CMD.busy 0 (wr SEC_ATTEST_CMD.err 1 (wr SEC_ATTEST_CMD.code code
    { s with sec := { s.sec with attest := none } }))

/-- A wipe overtakes a report whose buffer lies in the secure part (R529). -/
def overtakeReport (s : State) : State :=
  match s.sec.attest with
  | some (a, _) => if 0x7800000 ≤ a then failReport 4 s else s
  | none => s

/-- A trigger of the secure wipe is latched (R392); one that arrives during a wipe restarts it. -/
def startWipe (cause : Nat) (s : State) : State :=
  wr SEC_WIPE_STAT.cause cause (overtakeReport (zeroSecure { s with sec := { s.sec with wiping := true } }))

/-- The code of a tamper source in SEC_TAMPER_CNT.last and SEC_WIPE_STAT.cause (R536, R537). -/
def tamperCode : TamperSource → Nat
  | .pin => 1
  | .volt => 2
  | .clock => 3
  | .temp => 4
  | .mesh => 5

/-- The W1C bit of a tamper source (R536). -/
def tamperBit : TamperSource → Fld
  | .pin => SEC_TAMPER_STAT.pin
  | .volt => SEC_TAMPER_STAT.volt
  | .clock => SEC_TAMPER_STAT.clock
  | .temp => SEC_TAMPER_STAT.temp
  | .mesh => SEC_TAMPER_STAT.mesh

/-- A tamper trigger (R526, R527): counted for the part's life, then the wipe. -/
def tamperTrigger (t : TamperSource) (s : State) : State :=
  startWipe (tamperCode t) (wr (tamperBit t) 1 { s with
    nv := { s.nv with tamperCount := s.nv.tamperCount + 1, tamperLast := tamperCode t } })

/-- TAMPER (R526): a trigger of one of the sources; TAMPER_N is low at its own. -/
def execTamper (source : TamperSource) (s : State) : Host.Outcome State Fault Refusal :=
  .next (tamperTrigger source (if source = .pin then { s with pins := { s.pins with tamperN := false } } else s))

/-- MESH_CHECK (R526): the second failing check in a row is a mesh break; the next break takes two failing checks again. -/
def execMeshCheck (passed : Bool) (s : State) : Host.Outcome State Fault Refusal :=
  .next <|
    let broken := !passed && s.sec.meshFailed
    let s := wrb SEC_TAMPER_STAT.mesh_ok passed { s with sec := { s.sec with meshFailed := !passed && !s.sec.meshFailed } }
    if broken then tamperTrigger .mesh s else s

/-- WIPE_COMPLETE (R392, R537). -/
def execWipeComplete (tenNs : BitVec 16) (s : State) : Host.Outcome State Fault Refusal :=
  .next <|
    if s.sec.wiping then
      wr SEC_WIPE_STAT.last_10ns tenNs.toNat (incWrap SEC_WIPE_STAT.wipes 1 { s with sec := { s.sec with wiping := false } })
    else s

/-! ## Life-cycle transitions (R521 to R524) -/

/-- The transitions that exist (R522). -/
def lcsExists (a b : Nat) : Bool :=
  [(0, 1), (0, 2), (1, 2), (2, 1), (1, 3), (2, 3), (0, 4), (1, 4), (2, 4), (3, 4)].contains (a, b)

/-- The transition is authorised by a token (R522). -/
def lcsNeedsToken (a b : Nat) (s : State) : Bool :=
  (a == 1 && b == 2) || ((a == 2 && b == 1 || b == 3 || b == 4) && s.nv.cfgKeyHash.isSome)

/-- The transition is authorised by a valid record in force (R522). -/
def lcsNeedsRecord (a b : Nat) (s : State) : Bool :=
  (a == 0 && b == 1) || (a == 2 && b == 1 && s.nv.cfgKeyHash.isNone)

/-- What is wrong with a token, in the order of the codes of R535; 0 where nothing is (R523). -/
def tokenCode (target : Nat) (t : Token) (s : State) : Nat :=
  if !t.wellFormed || t.target != target then 2
  else if s.nv.cfgKeyHash != some t.keyHash then 3
  else if !t.signatureOk then 4
  else if t.serial != s.nv.serial.setWidth 64 || t.nonce != s.sec.nonce then 5
  else 0

/-- The result code of a request, the lowest where several apply (R522, R535). -/
def lcsCode (target : Nat) (t : Token) (s : State) : Nat :=
  let a := s.nv.lcs
  let tok := if lcsNeedsToken a target s then tokenCode target t s else 0
  if !lcsExists a target then 1
  else if tok != 0 then tok
  else if a == 1 && target == 2 && param 0x60 0 s != 1 then 6
  else if a == 1 && target == 2 && decide (8 ≤ s.nv.debugEntries) then 7
  else if lcsNeedsRecord a target s && !s.boot.config.inForce then 8
  else 0

/-- The nonce changes after every request (R523); the new one is a free value. -/
def newNonce (s : State) : State :=
  let d := draw s
  { d.2 with sec := { d.2.sec with nonce := (Config.randomWord d.1).setWidth 32 } }

/-- The token a request names (R523). DEDUCED (log entry 137): one outside host scratch, or with a poisoned word, is malformed. -/
def tokenAt (s : State) : Token :=
  let a := 64 * rd SEC_LCS_REQ.tok s
  let t := parseToken (bytesAt s.scr a 1152)
  let there := decide (0x6000000 ≤ a) && decide (a + 1152 ≤ 0x7800000) && !(coveredWords a 1152).any (tget false s.scrPoison)
  { t with wellFormed := t.wellFormed && there }

/-- A request is judged (R522): refused with its code, or in progress. -/
def judgeLcs (s : State) : State :=
  let target := rd SEC_LCS_REQ.target s
  let code := lcsCode target (tokenAt s) s
  let s := newNonce (wr SEC_LCS_REQ.code code s)
  if code = 0 then wr SEC_LCS_REQ.busy 1 { s with sec := { s.sec with transition := some target } }
  else wr SEC_LCS_REQ.err 1 s

/-- SEC_LCS_REQ written (R535): go is ignored while busy. -/
def lcsReqWrite (w : Write) (s : State) : State :=
  guarded SEC_LCS_REQ w s fun s =>
    let s := wclear SEC_LCS_REQ.done w (wclear SEC_LCS_REQ.err w s)
    let s := wtake SEC_LCS_REQ.tok w (wtake SEC_LCS_REQ.target w s)
    if wone SEC_LCS_REQ.go w && !rdb SEC_LCS_REQ.busy s then judgeLcs s else s

/-- LCS_REQUEST (R522, R523). -/
def execLcsRequest (w : Write) (s : State) : Host.Outcome State Fault Refusal := .next (lcsReqWrite w s)

/-- What entry into PROVISIONED burns and creates where it is absent (R502, R522). -/
def provision (s : State) : State :=
  let s := if s.nv.cfgKeyHash.isNone then
    { s with nv := { s.nv with cfgKeyHash := some s.boot.config.signer, tinKeyHash := some s.boot.config.tinKey } } else s
  if s.nv.identity.isNone then
    let d := draw s
    { d.2 with nv := { d.2.nv with identity := some (Config.randomWord d.1).toNat } }
  else s

/-- What a transition does beside the state (R522). -/
def lcsEffect (old target : Nat) (s : State) : State :=
  match target with
  | 1 => provision s
  | 2 => if old = 1 then { s with nv := { s.nv with debugEntries := s.nv.debugEntries + 1 } } else s
  | _ => { s with nv := { s.nv with identity := none } }

/-- Service ends with the entry into SCRAPPED (R521, R524). -/
def scrap (s : State) : State := haltPart 5 (endLoad 12 0 (abandonSteps (fun _ => false) (leavePair s)))

/-- The commit fuse reads back (R524): the new state exists, the secure part is wiped. -/
def commitLcs (target : Nat) (s : State) : State :=
  let was := debugMode s
  let s := lcsEffect s.nv.lcs target s
  let s := { s with nv := { s.nv with lcs := target }, sec := { s.sec with transition := none } }
  let s := wr SEC_LCS_REQ.busy 0 (wr SEC_LCS_REQ.done 1 (startWipe 6 s))
  let s := if was && !debugMode s then endDebug s else s
  if target = 4 then scrap s else s

/-- LCS_COMMIT (R522, R524): a commit fuse that does not read back leaves the old state, with code 9. -/
def execLcsCommit (fuseReadsBack : Bool) (s : State) : Host.Outcome State Fault Refusal :=
  .next <|
    match s.sec.transition with
    | none => s
    | some target =>
      if fuseReadsBack then commitLcs target s
      else wr SEC_LCS_REQ.busy 0 (wr SEC_LCS_REQ.err 1 (wr SEC_LCS_REQ.code 9
        { s with sec := { s.sec with transition := none } }))

/-! ## Attestation (R528, R529) -/

/-- The address of the report buffer. -/
def attestAddr (s : State) : Nat := 64 * rd SEC_ATTEST_ADDR.addr s

/-- The buffer is 4 KiB aligned and lies in host scratch or in the host portion of the secure part (R528, R538). -/
def attestRange (a : Nat) (s : State) : Bool :=
  a % 4096 == 0 && ((decide (0x6000000 ≤ a) && decide (a + 4096 ≤ 0x7800000))
    || (decide (hostPortion s ≤ a) && decide (a + 4096 ≤ 0x8000000)))

/-- A report is requested (R528, R529). -/
def startReport (s : State) : State :=
  let a := attestAddr s
  if s.nv.identity.isNone then failReport 1 s
  else if !attestRange a s then failReport 2 s
  else if 0x7800000 ≤ a ∧ s.sec.wiping then failReport 4 s
  else wr SEC_ATTEST_CMD.busy 1 (wr SEC_ATTEST_CMD.code 0
    { s with sec := { s.sec with attest := some (a, bytesAt s.scr a 64) } })

/-- SEC_ATTEST_CMD written (R529, R538): a go while busy is ignored and logged. -/
def attestCmdWrite (w : Write) (s : State) : State :=
  guarded SEC_ATTEST_CMD w s fun s =>
    let s := wclear SEC_ATTEST_CMD.done w (wclear SEC_ATTEST_CMD.err w s)
    if !wone SEC_ATTEST_CMD.go w then s
    else if rdb SEC_ATTEST_CMD.busy s then logIgnored w.who SEC_ATTEST_CMD w.data.toNat s
    else startReport s

/-- ATTESTATION_REQUEST (R528). -/
def execAttestationRequest (w : Write) (s : State) : Host.Outcome State Fault Refusal := .next (attestCmdWrite w s)

/-- A digest as 64 bytes, the byte of its low bits first. -/
def digestBytes (d : BitVec 512) : List Byte := leBytes 64 d.toNat

/-- The digest of a generation's manifest; zero where none is held. -/
def manifestDigest (m : Option Manifest) : BitVec 512 := match m with | some m => m.digest | none => 0

/-- The digest of the Tin Soldier manifest's body; zero where there is no model. -/
def modelDigest (m : Option Manifest) : BitVec 512 := match m with | some m => m.bodyDigest | none => 0

/-- A slot's part of the report (R528). -/
def slotReport (s : State) (g : Nat) : List Byte :=
  leBytes 2 (rd (WLD_GEN.gen g) s) ++ leBytes 1 (rd (WLD_GEN.state g) s) ++ leBytes 1 (rd (WLD_GEN.footprint g) s)
    ++ leBytes 12 0 ++ digestBytes (manifestDigest (genAt g s).manifest)

/-- Bytes 0 to 639 of the report (R528). -/
def reportBody (nonce : List Byte) (s : State) : List Byte :=
  [0x4C, 0x41, 0x54, 0x54] ++ leBytes 2 1 ++ leBytes 1 s.nv.lcs ++ leBytes 1 (rd GLB_STATE.state s)
    ++ leBytes 4 s.nv.tamperCount.toNat ++ leBytes 2 s.nv.debugEntries ++ leBytes 2 0
    ++ leBytes 8 s.nv.serial.toNat ++ leBytes 8 (stepNow s) ++ leBytes 32 0 ++ nonce
    ++ digestBytes s.boot.imageDigest ++ digestBytes s.boot.config.bodyDigest
    ++ digestBytes (modelDigest s.tin.model) ++ ([0, 1, 2, 3].flatMap (slotReport s))

/-- A byte string cut or filled with zeros to `n` bytes. -/
def fitBytes (n : Nat) (l : List Byte) : List Byte := (l ++ leBytes n 0).take n

/-- The public modulus and exponent of an identity key as a signature block stores them (R197). -/
def identityBytes (k : Nat) : List Byte := fitBytes 516 (Config.identityKey k)

/-- The signature block (R197): modulus, exponent, 60 zero bytes, signature. -/
def signatureBlock (key : Nat) (signature : List Byte) : List Byte :=
  identityBytes key ++ leBytes 60 0 ++ fitBytes 512 signature

/-- ATTEST_REPORT_WRITTEN (R528): the report stands in the buffer. A key destroyed meanwhile signs nothing (R529 code 1). -/
def execAttestReportWritten (signature : List Byte) (s : State) : Host.Outcome State Fault Refusal :=
  .next <|
    match s.sec.attest, s.nv.identity with
    | some (a, nonce), some key =>
      let report := reportBody nonce s ++ signatureBlock key signature
      let s := { s with
        scr := putBytes a report s.scr
        scrPoison := s.scrPoison.filter fun p => decide (8 * p.1 < a) || decide (a + report.length ≤ 8 * p.1) }
      wr SEC_ATTEST_CMD.busy 0 (wr SEC_ATTEST_CMD.done 1 { s with sec := { s.sec with attest := none } })
    | some _, none => failReport 1 s
    | none, _ => s

end Sys2Proof.Machine
end

