-- ==== Sys2Proof/Machine/Boot.lean ====
section
/-! DEFINITION. Resets and boot: POR, warm reset, the boot ROM, the configuration record, RECOVERY, the end of CAL, the root PLL,
the watchdog (19_boot_security.md R502 to R525, R531 to R534; 09_weights.md R215; 10_serving.md R264; 14_tin_soldier.md R357, R358,
R369, R372; 15_memory.md R374, R380, R392; 18_clocks_power_thermal.md R468, R471). -/

namespace Sys2Proof.Machine

/-! ## What a reset keeps of blocks and regions (R208, R215, R317) -/

/-- Arrays of complete tiers with rows that a reset left half written: their rewrite is to be resumed (R184). -/
def cutShort (b : Block) : List Nat :=
  ((b.untrusted.filter fun k => b.tiers.any fun t => t.1 == k / 4096 && t.2.complete).map (· / 32)).dedup

/-- A block after POR: what its non-volatile cells hold (R207, R208, R317). A rewrite that was cut short is wanted again (R184), and a remap
that was not yet in force waits for its stand-in (R43). -/
def porBlock (b : Block) : Block :=
  let b := giveUpRows b
  let due := cutShort b
  { Block.init with
    remap := b.remap, remapNext := b.remapNext
    badSpares := b.badSpares, noMonitor := b.noMonitor, rewrites := b.rewrites, tiers := b.tiers, untrusted := b.untrusted
    retired := b.retired, written := b.written, due
    want := (if due.isEmpty then [] else [.rewrite]) ++ (if b.remapNext.isEmpty then [] else [.spare]) }

/-- A block after a warm reset (R184, R188, R380): factors, drift deviations and warm-up state stay in HBM; the figure waits for the
sweep. -/
def warmBlock (b : Block) : Block :=
  let n := porBlock b
  let due := (b.due ++ n.due).dedup
  { n with
    fits := b.fits, bandPasses := b.bandPasses, warm := b.warm, warmFrom := b.warmFrom, mvms := b.mvms, due, drift := b.drift
    driftNext := b.driftNext, next := b.next, lastPass := b.lastPass
    want := (if due.isEmpty then [] else [.rewrite]) ++ (if b.remapNext.isEmpty then [] else [.spare]) }

/-- The spare mapping of a region with what was ready for the next boundary (R306, R317). -/
def mapAfterReset (r : Region) : List (Nat × Nat) :=
  r.mapNext.foldl (fun m e => (m.filter fun x => x.1 != e.1) ++ [e]) r.blockMap

/-- A region after POR: its part of the fault record. -/
def porRegion (r : Region) : Region :=
  { Region.init with blockMap := mapAfterReset r, bringUp := r.bringUp, qualified := r.qualified, qualFails := r.qualFails
                     spareFor := r.spareFor }

/-- A region after a warm reset: resets and suspects of the last hours are still counted (R314, R332). -/
def warmRegion (r : Region) : Region := { porRegion r with resets := r.resets, suspects := r.suspects, temp := r.temp }

/-- Every listed region and block changed, in canonical form. -/
def resetArrays (f : Region → Region) (g : Block → Block) (s : State) : State :=
  { s with
    regions := s.regions.foldl (fun m p => tset Region.init m p.1 (f p.2)) []
    blocks := s.blocks.foldl (fun m p => tset Block.init m p.1 (g p.2)) [] }

/-! ## Generation slots after a reset (R215) -/

/-- What a slot becomes. -/
inductive SlotAfter where
  | free | resident | incomplete
  deriving DecidableEq, Repr

/-- The blocks that hold a generation complete in every tier it takes (R207, R215). -/
def blocksHolding (g : Nat) (s : State) : List Nat :=
  match (genAt g s).manifest with
  | none => (genAt g s).blocksDone
  | some m => (mainBlocks m).filter fun k =>
      let r := physRegion (k / 1280) s
      let b := blockAt r (physBlock r (k % 1280) s) s
      (tiersOf m.footprint (rd (WLD_GEN.offset g) s)).all fun i =>
        b.tiers.any fun t => t.1 == i && t.2.gen == rd (WLD_GEN.gen g) s && t.2.complete

/-- Some block has a tier open for a generation (R215). -/
def tierOpen (gen : Nat) (s : State) : Bool :=
  gen != 0 && s.blocks.any fun p => decide (p.1 < 65600) && p.2.tiers.any fun t => t.2.gen == gen && !t.2.complete

/-- The rule of R215 for slot `g`: a generation being loaded with an open tier is INCOMPLETE, as is one resumed; a complete generation
keeps its cells; one that was DRAINING before a warm reset is FREE. -/
def slotAfter (warm : Bool) (g : Nat) (s : State) : SlotAfter :=
  let loading := match s.wld.load with | some l => l.slot == g | none => false
  let resumed := match s.wld.load with | some l => l.slot == g && l.resume | none => false
  match rd (WLD_GEN.state g) s with
  | 1 => if rdb (WLD_GEN.resident g) s then .resident
         else if resumed || (loading && ((genAt g s).wrote || tierOpen (rd (WLD_GEN.gen g) s) s)) then .incomplete else .free
  | 2 => .resident
  | 3 => .resident
  | 4 => if warm then .free else .resident
  | 5 => .incomplete
  | _ => .free

/-- A slot's record after a reset: HBM kept by a warm reset, lost by a POR; the blocks done are those whose journals say so. -/
def genAfter (warm wasActive resident : Bool) (done : List Nat) (g : Gen) : Gen :=
  let held := (g.chunks ++ g.verify).dedup
  { Gen.init with
    manifest := if warm then g.manifest else none
    header := if warm then g.header else []
    raw := if warm then g.raw else []
    payload := if warm then g.payload else []
    sums := if warm then g.sums else []
    chunks := if warm && !resident then held else []
    verify := if warm && resident then held else []
    reload := if warm then g.reload else []
    source := if warm then g.source else (0, 0)
    sourceLost := warm && g.sourceLost
    blocksDone := done
    wrote := g.wrote && !resident
    wasActive := wasActive }

/-- Slot `g` rebuilt from the block journals (R215). -/
def rebuildSlot (warm : Bool) (s : State) (g : Nat) : State :=
  let active := warm && rd (WLD_GEN.state g) s == 3
  match slotAfter warm g s with
  | .free => if s.reg (WLD_GEN g) = 0 then s else freeSlot g s
  | .incomplete =>
    wr (WLD_GEN.master g) 0 (setGenState g 5 (setGen g (genAfter warm false false (blocksHolding g s)) s))
  | .resident =>
    wr (WLD_GEN.resident g) 1 (wr (WLD_GEN.master g) 0 (setGenState g 1 (setGen g (genAfter warm active true (blocksHolding g s)) s)))

/-- Every slot rebuilt (R215). The rest of the weights unit is reset; Costume versions stay in HBM over a warm reset (R380). The
peripheries' tables of weight sums go with their power but for those of the keep regions, which stand in non-volatile cells (R358). -/
def rebuildSlots (warm : Bool) (s : State) : State :=
  let s := [0, 1, 2, 3].foldl (rebuildSlot warm) s
  let w := { Weights.init with gens := s.wld.gens, wardrobes := if warm then s.wld.wardrobes else [] }
  { s with wld := { w with chain := if warm then s.wld.chain else none }
           wsums := s.wsums.filter fun p => decide (65600 * 512 ≤ p.1) }

/-! ## Registers after a reset (R553, R554) -/

/-- The index keeps the register at `off` through a warm reset. -/
def keptReg (off : Nat) : Bool :=
  match rowOf off with
  | some r => r.warm == .kept
  | none => false

/-- Fields of rebuilt registers that reflect what survives a warm reset, or count since POR. -/
def rebuiltFields : List Fld :=
  [GLB_STATE.state, GLB_STATE.changes, CHK_STAT.mismatches, CHK_COMMIT_LAG.step, PAIR_LINK_STAT.retrains, BOOT_NVM_CTL.writes, WLD_PROG.rows,
   CHK_RETIRED.s0_serves, CHK_RETIRED.s1_serves, CHK_RETIRED.fail0, CHK_RETIRED.fail1, CHK_RETIRED.fail2, CHK_RETIRED.keep0_bad,
   CHK_RETIRED.keep1_bad, CHK_RETIRED.blocks, CHK_RETIRED.resets]
  ++ ((List.range 4).flatMap fun g => [WLD_GEN.gen g, WLD_GEN.state g, WLD_GEN.footprint g, WLD_GEN.offset g, WLD_GEN.resident g])
  ++ ((List.range 52).flatMap fun r => [RGN_STATE.unusable r, RGN_STATE.resets r, RGN_STATE.band r])

/-- Fields whose content the non-volatile cells hold over a POR: the fault record and the block journals (R207, R317). -/
def porFields : List Fld :=
  [CHK_RETIRED.s0_serves, CHK_RETIRED.s1_serves, CHK_RETIRED.fail0, CHK_RETIRED.fail1, CHK_RETIRED.fail2, CHK_RETIRED.keep0_bad,
   CHK_RETIRED.keep1_bad, CHK_RETIRED.blocks]
  ++ ((List.range 4).flatMap fun g => [WLD_GEN.gen g, WLD_GEN.state g, WLD_GEN.footprint g, WLD_GEN.offset g, WLD_GEN.resident g])
  ++ ((List.range 52).map fun r => RGN_STATE.unusable r)

/-- A retired region stays retired (R317). -/
def carryRetired (old s : State) : State :=
  (List.range 52).foldl (fun a r => if rd (RGN_STATE.state r) old = 4 then wr (RGN_STATE.state r) 4 a else a) s

/-- Registers after a reset that keeps those `keep` selects and the listed fields. -/
def resetRegs (keep : Nat → Bool) (fields : List Fld) (s : State) : State :=
  let new := { s with regs := s.regs.filter fun p => keep p.1 }
  carryRetired s (fields.foldl (fun a f => if rd f a = rd f s then a else wr f (rd f s) a) new)

/-- Tin Soldier causes after a reset (R371, R372): only "Regions exhausted" persists, in the fault record. -/
def causesAfterReset (s : State) : State :=
  wr GLB_STATE.tin_cause (if rd CHK_RETIRED.fail2 s = 0x3F then 0 else 2) s

/-- Repairs in force from the fault record (R383, R394). -/
def repairsAfterPor (s : State) : State :=
  (List.range 12).foldl (fun a k => if repairsOf k a = 0 then a else wr (MEM_HBM_STAT.repairs k) (min (repairsOf k a) 255) a) s

/-! ## POR_N (R506, R515, R563, R565, R568) -/

/-- Everything a POR loses is at its reset value; what the fuses, the security block, the NVM and the cells hold stays. -/
def porState (s : State) : State :=
  let fresh : State := { State.reset with
    regs := s.regs, host := s.host, nv := s.nv, cells := s.cells, erased := s.erased, regions := s.regions, blocks := s.blocks
    pins := { s.pins with porN := false, tripLatch := false }
    wsums := s.wsums, wld := s.wld, now := s.now, draws := s.draws, sent := s.sent, pending := s.pending
    pwr := { Power.init with since := s.now, rattleAt := s.now, warmFrom := s.now }
    tin := { TinMode.init with model := s.tin.model, sums := s.tin.sums, payload := s.tin.payload } }
  let s := resetRegs (fun _ => false) porFields fresh
  let s := resetArrays porRegion porBlock s
  { repairsAfterPor (causesAfterReset (rebuildSlots false s)) with reports := [] }

/-- POR_N_ASSERT (R563, R565, R568): the POR is held while POR_N is low; the THERM_TRIP_N latch clears. -/
def execPorNAssert (s : State) : Host.Outcome State Fault Refusal := .next (porState s)

/-! ## The configuration record (R509 to R512) -/

/-- The range of a parameter (R132, R213, R265, R340, R363, R377, R511); R363 states none for the keep table's offset. -/
def paramRange (id : Nat) : Option (Nat × Nat) :=
  match id with
  | 0x01 => some (1, 4096)
  | 0x02 => some (0, 65535)
  | 0x03 => some (0, 1)
  | 0x04 => some (1, 4096)
  | 0x10 => some (1, 65535)
  | 0x20 => some (0, 1)
  | 0x21 => some (0, 50)
  | 0x30 => some (0, 1)
  | 0x31 => some (0, 1)
  | 0x32 => some (0, 1)
  | 0x33 => some (10, 50)
  | 0x34 => some (20, 10000)
  | 0x40 => some (1, 64)
  | 0x41 => some (1, 64)
  | 0x42 => some (4, 72)
  | 0x50 => some (0, 2 ^ 64 - 1)
  | 0x51 => some (1, 64)
  | 0x60 => some (0, 1)
  | _ => none

/-- The RWL fields of the register at `off` (R544). -/
def rwlFields (off : Nat) : List Fld :=
  match rowOf off with
  | some r => (r.fields.filter fun f => f.acc == .rwl).map fun f => ⟨off, f.lo, f.width⟩
  | none => []

/-- One parameter entry is valid by itself (R512). -/
def entryOk (e : Nat × Nat × Nat) : Bool :=
  if e.1 = 0x8000 then !(rwlFields e.2.1).isEmpty
  else match paramRange e.1 with
    | some (lo, hi) => decide (lo ≤ e.2.2) && decide (e.2.2 ≤ hi)
    | none => false

/-- The parameter entries are valid together: no id twice except 0x8000 (R512). -/
def entriesOk (l : List (Nat × Nat × Nat)) : Bool :=
  l.all entryOk && decide (((l.map Prod.fst).filter (· != 0x8000)).Nodup) && decide (l.length ≤ 4095)

/-- The BOOT_STAT.code of a record, 0 where it is valid (R510, R512, R531). -/
def recordCode (r : ConfigRecord) (s : State) : Nat :=
  if s.nv.cfgKeyHash.any (· != r.keyHash) then 6
  else if !r.signatureOk then 7
  else if !r.magicOk || !r.reservedZero || decide (8 < r.keys.length) || !entriesOk r.params then 8
  else if r.serial != 0 && r.serial != s.nv.serial.setWidth 64 then 9
  else 0

/-- One entry takes effect (R511): a register entry sets the RWL fields of its register; the pair parameters stand in registers. -/
def applyEntry (s : State) (e : Nat × Nat × Nat) : State :=
  match e.1 with
  | 0x8000 => (rwlFields e.2.1).foldl (fun a f => wr f (fget f (BitVec.ofNat 64 e.2.2)) a) s
  | 0x30 => wr PAIR_CTL.en e.2.2 s
  | 0x31 => wr PAIR_CTL.mode e.2.2 s
  | 0x32 => wr PAIR_ROLE.role e.2.2 s
  | 0x33 => wr PAIR_CTL.mirror_pct e.2.2 s
  | 0x34 => wr PAIR_CTL.timeout e.2.2 s
  | _ => s

/-- A valid record is in force (R511, R532). -/
def takeRecord (r : ConfigRecord) (s : State) : State :=
  let c : RecordInForce :=
    { inForce := true, version := r.cfgVersion, digest := r.digest, bodyDigest := r.bodyDigest, keys := r.keys, tinKey := r.tinKey, signer := r.keyHash
      params := (r.params.filter fun e => e.1 != 0x8000).map fun e => (e.1, e.2.2) }
  let s := r.params.foldl applyEntry { s with boot := { s.boot with config := c } }
  wr BOOT_STAT.cfg_ok 1 (wr BOOT_CFG_INFO.cfg_version r.cfgVersion.toNat (wr BOOT_CFG_INFO.params r.params.length
    (wr BOOT_CFG_INFO.keys r.keys.length (wr BOOT_CFG_INFO.digest r.bodyDigest.toNat s))))

/-- The record is read, once per boot (R509). -/
def readRecord (s : State) : State :=
  let s := { wr BOOT_STAT.stage 2 s with boot := { s.boot with config := RecordInForce.none } }
  match nvmItem 2 s.nv.nvm with
  | none => putTinBit 4 (s.boot.lcs == 1) s
  | some b =>
    let r := parseRecord b
    let code := recordCode r s
    if code = 0 then putTinBit 4 false (takeRecord r s)
    else putTinBit 4 true (wr BOOT_STAT.cfg_fail 1 (wr BOOT_STAT.code code s))

/-! ## The Tin Soldier container (R357, R358, R369, R508, R520) -/

/-- Usable keep regions whose journals do not hold the model's manifest digest, 51 first (R520). -/
def keepsToProgram (s : State) : State :=
  keepDone { s with tin := { s.tin with reprogram := [51, 50].filter fun p => !regionDown p s } }

/-- A good container is to be the model (R357, R520): the one in use already, or one that the keep regions are to be programmed with. -/
def takeContainer (c : Container) (s : State) : State :=
  if (s.tin.model.map (·.digest)) = some c.manifest.digest then
    keepsToProgram { s with tin := { s.tin with next := none, nextPayload := [] } }
  else keepsToProgram { s with tin := { s.tin with next := some c.manifest, nextPayload := c.payload } }

/-- The container of the boot NVM (R357, R521, R525): one that fails leaves the keep regions' own tables (R508). `program` says that
firmware programs regions that lack it; the ROM runner does not. -/
def readContainer (program : Bool) (s : State) : State :=
  match nvmContainer s with
  | none => s
  | some c =>
    if containerOk c s then (if program then takeContainer c s else s)
    else
      let s := wr BOOT_STAT.tin_err 1 s
      if rd BOOT_STAT.code s = 0 then wr BOOT_STAT.code 10 s else s

/-- BOOT_STAT.no_tin and the keep region that runs the model (R366, R508): neither the keep regions nor the NVM hold one. -/
def settleModel (s : State) : State :=
  let s := wrb BOOT_STAT.no_tin (keepModel s).isNone s
  { s with tin := { s.tin with region := keepInUse s } }

/-! ## Firmware starts (R151, R156, R158, R506, R515) -/

/-- The scan entries firmware loads (R151), the boot ROM in RECOVERY; a buffer enabled already has its scan start. -/
def loadScan (s : State) : State :=
  kickScan <| [(0, 0, 52), (1, 53, 53), (2, 54, 54), (3, 55, 58), (4, 63, 63)].foldl (fun a (e : Nat × Nat × Nat) =>
    setReg (MCV_SCAN e.1) (BitVec.ofNat 64 (e.2.1 + 64 * e.2.2 + 4096 * 7 + 32768)) a) s

/-- The residual tables are placed; an entry not yet written reads as that of a block without a figure: r_eff 0.60, its bound, valid = 0
(R95, R96). -/
def placeTables (s : State) : State :=
  let s := { s with boot := { s.boot with placed := true } }
  let a := residBase 0 s
  { s with scr := s.scr.filter fun c => decide (c.1 < a) || decide (a + 8 * 1312 * 52 ≤ c.1)
           scrPoison := s.scrPoison.filter fun p => decide (8 * p.1 < a) || decide (a + 8 * 1312 * 52 ≤ 8 * p.1) }

/-- From the configuration record onward (R506, R515, R519): record, parameters, container, converter. The boot then waits for the
reference buffer, the sweep and the training of HBM. -/
def bootOnward (s : State) : State :=
  let s := wr MBX_STAT.ready 1 (readRecord s)
  let s := if rdb PAIR_CTL.en s then wr PAIR_STAT.state 1 s else s
  let s := settleModel (readContainer true s)
  let s := updateKvStat (placeTables (loadScan s))
  let s := setRefbuf true (wr BOOT_STAT.stage 3 s)
  if rdb MCV_REFBUF.settled s then bootSettled s else s

/-- A verified image runs (R505, R532). -/
def runImage (src : Nat) (i : FwImage) (s : State) : State :=
  let s := { s with boot := { s.boot with imageDigest := i.digest } }
  bootOnward (wr BOOT_STAT.img_ok 1 (wr BOOT_STAT.src src (wr BOOT_IMG_INFO.fw_version i.fwVersion.toNat
    (wr BOOT_IMG_INFO.len_kib i.lenKib (wr BOOT_IMG_INFO.digest i.digest.toNat s)))))

/-! ## The boot ROM -/

/-- The BOOT_STAT.code of an image, 0 where it is good (R504, R505, R531). -/
def imageCode (i : FwImage) (s : State) : Nat :=
  if !i.magicOk || decide (32768 < i.lenKib) then 3
  else if i.keyHash != s.nv.fwKeyHash then 4
  else if !i.signatureOk then 5
  else 0

/-- What the boot ROM finds in the NVM (R504, R509): an image, or the code of its failure. -/
def findImage (s : State) : Except Nat FwImage :=
  if !s.nv.nvm.readable then .error 1
  else if !headerUsable s.nv.nvm then .error 2
  else match nvmItem 1 s.nv.nvm with
    | none => .error 3
    | some b =>
      let i := parseImage b
      if imageCode i s = 0 then .ok i else .error (imageCode i s)

/-- The NVM interface (R534, R574). -/
def openNvm (s : State) : State :=
  let octal := s.nv.nvm.readable && s.nv.nvm.octal
  wrb BOOT_NVM_CTL.ready octal (wr BOOT_NVM_CTL.size (if s.nv.nvm.readable then s.nv.nvm.log2Size else 0)
    (wr BOOT_NVM_CTL.clk_mhz (if octal then 200 else 50) s))

/-- HBM trains after a POR and leaves self-refresh after a warm reset; a failed stack stays failed (R374, R384, R515). -/
def startHbm (s : State) : State :=
  if s.boot.warm then activate (leaveSelfRefresh s)
  else (List.range 12).foldl (fun a k => wr (MEM_HBM_STAT.state k) 1 a) s

/-- Slots of a table that are TAKEN or RUNNING without a request of this boot end FAILED with cause 0x20 (R264). -/
def failLost (k : Nat) (s : State) : State :=
  let n := tableSlots k s
  if hdmSize < tableBase k s + 256 * n then s
  else ((List.range n).map (4096 * k + ·)).foldl (fun a key =>
    let st := slotState key a
    if (st = 2 ∨ st = 3) ∧ (reqAt key a).isNone then failSlot key 0x20 a else a) s

/-- RECOVERY (R369, R509, R517): the ROM runner serves the keep regions' model where there is one. DEDUCED (log entry 146): R150's scan
runs from the end of the boot ROM's converter set-up, so the ROM enables the buffer and loads the scan there too. -/
def enterRecovery (code : Nat) (s : State) : State :=
  let s := wr BOOT_STAT.img_fail 1 (wr BOOT_STAT.code code (wr BOOT_STAT.src 2 s))
  let s := settleModel (readContainer false (setGlb 4 s))
  let s := setRefbuf true (loadScan (wr BOOT_STAT.recov_ready 1 (wr MBX_STAT.ready 1 s)))
  if s.tin.model.isSome then failLost 4 (wr GLB_STATE.rom_runner 1 s) else s

/-- Every weight cell of the part is at level 2 (R525). -/
def eraseAll (s : State) : State := { s with cells := [], erased := true, nv := { s.nv with erase := false } }

/-- RETURNED (R525): no generation and no Tin Soldier model is left; the cells are erased before CAL ends. -/
def beginErase (s : State) : State :=
  let s := (List.range 4).foldl (fun a g => if rd (WLD_GEN.state g) a = 0 then a else freeSlot g a) s
  let s := mapBlocks (fun _ _ b => { b with tiers := [], untrusted := [] }) s
  { s with tin := TinMode.init, nv := { s.nv with erase := true } }

/-- The Shadow generators are seeded by the security block (R302). -/
def seedShadow (s : State) : State :=
  { s with shadowGens := (List.range 52).map fun k => Config.randomSeed (s.draws + k), draws := s.draws + 52 }

/-- The boot ROM (R506, R515): fuses, erasure, NVM, image; firmware or RECOVERY. -/
def bootRom (s : State) : State :=
  let s := { s with boot := { Boot.init with warm := s.boot.warm, lcs := s.nv.lcs, start := s.now, lockUs := s.boot.lockUs
                                             badFactors := s.boot.badFactors } }
  let s := seedShadow s
  if s.nv.lcs = 4 then haltPart 5 (if s.nv.erase then eraseAll s else s)
  else
    let s := startHbm (openNvm (if s.nv.lcs = 3 then beginErase s else s))
    match findImage s with
    | .error code => enterRecovery code s
    | .ok i => runImage 0 i (wr BOOT_STAT.stage 1 s)

/-- The root PLL locks after POR (R468, R490). -/
def lockPll (s : State) : State :=
  let d := draw s
  wr CLK_ROOT_STAT.lock 1 (wr CLK_ROOT_STAT.ref_ok 1 { d.2 with boot := { d.2.boot with lockUs := Config.lockTime d.1 } })

/-- POR (R506, R563): POR_N is released; what was commanded while it was low has left no trace but in the non-volatile stores. -/
def execPor (s : State) : Host.Outcome State Fault Refusal :=
  .next <|
    if s.pins.porN then s
    else
      let s := porState s
      let s := { s with pins := { s.pins with porN := true }, thm := { s.thm with ratesFrom := s.now }
                        boot := { s.boot with warm := false } }
      bootRom (lockPll s)

/-! ## Warm reset (R514 to R516) -/

/-- Scratch after a warm reset: the secure part is zero, any other byte that held something holds a free value (R387, R392). -/
def scratchAfterReset (s : State) : State :=
  let d := draw (zeroSecure s)
  { d.2 with scr := d.2.scr.foldl (fun m c => putByte c.1 (Config.scratchByte d.1 c.1) m) [] }

/-- Sequences after a warm reset (R264, R380): at their committed lengths; a transfer that was running has not happened; mirrors of
a partner's are gone. -/
def seqsAfterReset (s : State) : List Sequence :=
  (s.srv.seqs.filter fun q => !q.mirror).map fun q =>
    match q.place with
    | .copying _ _ => { q with place := .live, toybox := 0 }
    | .copyingMirror => { q with place := .live, toybox := 0 }
    | .fetching ms => { q with place := .paused (endsIn ms s) }
    | .waiting ms => { q with place := .paused (endsIn ms s) }
    | _ => q

/-- The serving unit after a warm reset: requests are gone from the part, what they held stays with their sequences. -/
def servingAfterReset (s : State) : State :=
  let s := dropRows (uncommitted s) s
  let s := (s.srv.requests.filter (·.running)).foldl (fun a r => trimSeq r a) s
  let used := (seqsAfterReset s).foldl (fun a q => a + toyboxUnits q.toybox) 0
  let s := wr SRV_TOYBOX_SIZE.used used s
  { s with srv := { Serving.init with
      seqs := seqsAfterReset s, kv := s.srv.kv, highest := s.srv.highest, lossFrames := s.srv.lossFrames
      expired := s.srv.expired, nextOrder := s.srv.nextOrder
      budget := rd SRV_STEP_BUDGET.budget s, chunkMin := rd SRV_CHUNK.min s, chunkMax := rd SRV_CHUNK.max s
      repWindow := rd SMP_CTL.rep_window s, spec := s.reg SMP_SPEC, shadowRate := rd CHK_SHADOW_RATE.log2_rate s } }

/-- HBM into self-refresh (R374, R514). -/
def parkHbm (s : State) : State :=
  (List.range 12).foldl (fun a k => if rd (MEM_HBM_STAT.state k) a = 2 then wr (MEM_HBM_STAT.sr k) 1 a else a)
    { s with cxl := { s.cxl with memActive := false } }

/-- The units that hold no register of their own after a warm reset (R416, R452, R514). -/
def unitsAfterReset (s : State) : State :=
  { s with
    icu := ⟨0, 0, 0⟩
    evt := { s.evt with startDue := false, windowBytes := 0, secondBytes := 0 }
    pwr := { s.pwr with idleScans := 0, scheduled := none, dues := [], open_ := [], since := s.now }
    sec := { s.sec with transition := none, attest := none, meshFailed := false }
    cxl := { Cxl.init with everUp := s.cxl.everUp }
    saves := [], mcv := { Mcv.init with failed := s.mcv.failed }, pair := Pair.init
    tin := { s.tin with exact := false, leaving := false, next := none, nextPayload := [], reprogram := [] } }

/-- PWR_STATE after a warm reset: the register is kept, the part is awake (R488, R553). -/
def powerAfterReset (s : State) : State := wr PWR_STATE.due_open 0 (wr PWR_STATE.state 0 (wr PWR_STATE.target 0 s))

/-- Entry into a warm reset (R514). -/
def enterWarmReset (s : State) : State :=
  let s := abandonSteps (fun _ => false) (leavePair s)
  let s := parkHbm (setGlb 0 s)
  let s := servingAfterReset s
  let s := resetRegs keptReg rebuiltFields s
  let s := rebuildSlots true (resetArrays warmRegion warmBlock s)
  let s := scratchAfterReset (unitsAfterReset (powerAfterReset (causesAfterReset s)))
  let s := wr WLD_ACTIVE.step (boundaryStep s) s
  { updateSuspect s with boot := { Boot.init with
    warm := true, held := true, start := s.now, lockUs := s.boot.lockUs, badFactors := s.boot.badFactors } }

/-- WARM_RESET (R514, R565, R566): WRST_N goes low; while POR_N is low nothing happens; a warm reset that is held goes on. -/
def execWarmReset (s : State) : Host.Outcome State Fault Refusal :=
  .next <|
    if !s.pins.porN then s
    else
      let s := { s with pins := { s.pins with wrstN := false } }
      if s.boot.held then s else enterWarmReset s

/-- The warm-reset boot sequence (R515). -/
def bootWarm (s : State) : State := bootRom { s with boot := { s.boot with held := false } }

/-- WARM_RESET_RELEASE (R515, R565): the later of WRST_N and PERST_N rises. -/
def execWarmResetRelease (s : State) : Host.Outcome State Fault Refusal :=
  .next <|
    if !s.pins.porN then s
    else
      let s := { s with pins := { s.pins with wrstN := true, perstN := true } }
      if s.boot.held then bootWarm s else s

/-- GLB_CMD warm reset: the boot runs at once unless a reset pin is low (R515, R550). -/
def warmResetCommand (s : State) : State :=
  let s := enterWarmReset s
  if s.pins.wrstN && (s.pins.perstN || !s.cxl.everUp) then bootWarm s else s

/-- WARM_RESET_COMMAND (R514, R550). -/
def execWarmResetCommand (who : Master) (key : BitVec 16) (s : State) : Host.Outcome State Fault Refusal :=
  .next (glbCommand who 1 key.toNat warmResetCommand s)

/-! ## The end of CAL (R508, R513) -/

/-- Tin Soldier causes as they stand at the end of CAL (R360, R372, R508). -/
def causesAtCal (s : State) : State :=
  let usable := [0, 1, 2, 3].any fun g => decide (rd (WLD_GEN.state g) s = 2) || decide (rd (WLD_GEN.state g) s = 3)
    || !(genAt g s).verify.isEmpty
  let s := putTinBit 0 (!usable && !rdb BOOT_STAT.no_tin s) s
  let s := if deg (rd THM_CFG.tin_c s) ≤ junction s then putTinBit 2 true s else s
  if s.pins.railsOut.isEmpty then s else putTinBit 3 true s

/-- Service resumes: slots left over from before the reset end (R264); the tables of the mode are scanned. -/
def resumeService (s : State) : State :=
  let s := ((List.range 4).filter fun k => (rd SRV_CTL.tbl_en s).testBit k).foldl (fun a k => failLost k a) (failLost 4 s)
  admitAll (scanAll s)

/-- GLB_STATE leaves CAL, or RECOVERY with a streamed image, for TIN or SERVICE (R508, R519). -/
def leaveCal (s : State) : State :=
  let s := wr BOOT_STAT.stage 5 (wr BOOT_STAT.boot_ms ((s.now - s.boot.start) / 600000) (causesAtCal s))
  let s := if rd GLB_STATE.tin_cause s = 0 then setGlb 2 s else haltNoKeep (setGlb 3 (noteTin s))
  let s := wr GLB_STATE.rom_runner 0 s
  if inService s || inTin s then resumeService s else s

/-- CAL_END (R508, R513, R520, R525): calibration is over, the keep regions hold their model, a returned part is erased. -/
def execCalEnd (s : State) : Host.Outcome State Fault Refusal :=
  .next <|
    if rd BOOT_STAT.stage s ≠ 4 || !s.tin.reprogram.isEmpty then s
    else leaveCal (if s.nv.erase then eraseAll s else s)

/-! ## Recovery over CXL.cache (R517, R533) -/

/-- The result of a fetched or streamed image in BOOT_RECOV_CTL (R533). -/
def recovResult (st err : Nat) (s : State) : State := wr BOOT_RECOV_CTL.state st (wr BOOT_RECOV_CTL.err err s)

/-- An image that arrived in RECOVERY is checked and run (R503, R519). -/
def tryImage (b : List Byte) (s : State) : State :=
  let i := parseImage b
  if 33554432 < b.length then recovResult 5 1 s
  else if i.keyHash != s.nv.fwKeyHash then recovResult 5 3 s
  else if !i.signatureOk || !i.magicOk then recovResult 5 4 s
  else recovResult 4 0 (runImage 1 i s)

/-- The ROM waits for an image: RECOVERY, and none runs yet. -/
def awaitsImage (s : State) : Bool := rd GLB_STATE.state s == 4 && rd BOOT_RECOV_CTL.state s != 4

/-- BOOT_RECOV_CTL written (R533): fetch takes the image from host memory; none where the reads fail, as they do while the part may issue no
request (R414). -/
def recovCtlWrite (w : Write) (image : Option (List Byte)) (s : State) : State :=
  guarded BOOT_RECOV_CTL w s fun s =>
    if !awaitsImage s then logIgnored w.who BOOT_RECOV_CTL w.data.toNat s
    else
      let s := wtake BOOT_RECOV_CTL.fetch w s
      if !wone BOOT_RECOV_CTL.fetch w then s
      else match (if hostReach s then image else none) with
        | none => recovResult 5 5 s
        | some b => tryImage b (wr BOOT_RECOV_CTL.bytes b.length s)

/-- RECOV_FETCH (R517, R533). -/
def execRecovFetch (w : Write) (image : Option (List Byte)) (s : State) : Host.Outcome State Fault Refusal :=
  .next (recovCtlWrite w image s)

/-! ## The root PLL (R471) -/

/-- PLL_LOCK_LOSS (R471, R526): a clock glitch, and the step in flight is void. -/
def execPllLockLoss (s : State) : Host.Outcome State Fault Refusal :=
  .next <|
    if !rdb CLK_ROOT_STAT.lock s then s
    else
      let s := incHold CLK_ROOT_STAT.unlocks 1 (wr CLK_ROOT_STAT.lock 0 (wr PWR_STATE.clk_err 1 s))
      tamperTrigger .clock (stopPhases (voidRunning s))

/-- PLL_RELOCK (R471): lock has held for 50 µs; steps run again, the void one first. -/
def execPllRelock (micros : BitVec 16) (s : State) : Host.Outcome State Fault Refusal :=
  .next <|
    if rdb CLK_ROOT_STAT.lock s || !s.pins.porN then s
    else wr CLK_ROOT_STAT.lock 1 { s with boot := { s.boot with lockUs := micros } }

/-- RELOCK_TIMEOUT (R471): no lock within 1 ms; the part halts. -/
def execRelockTimeout (s : State) : Host.Outcome State Fault Refusal :=
  .next <|
    if rdb CLK_ROOT_STAT.lock s || !s.pins.porN || rd GLB_STATE.state s == 5 then s
    else haltPart 2 (abandonSteps (fun _ => false) (leavePair s))

/-- WATCHDOG_EXPIRY (R323): a pair of control cores is restarted from the other; the running step continues and nothing the spec
names changes. -/
def execWatchdogExpiry (_pair : Fin 2) (s : State) : Host.Outcome State Fault Refusal := .next s

end Sys2Proof.Machine
end

