-- ==== Sys2Proof/Machine/Cxl.lean ====
section
/-! DEFINITION. The host attachment over CXL: link, resets of the link, Bus Master Enable, CXL.mem, HDM decoders, aborted accesses
(16_cxl.md R400 to R420). -/

namespace Sys2Proof.Machine

/-! ## The link (R402, R416, R417, R420) -/

/-- Code 0x00D0: the link state changed (R420, R454). -/
def logLink (s : State) : State :=
  log 13 2 0x00D0 0 [BitVec.ofNat 8 s.cxl.up.toNat, BitVec.ofNat 8 s.cxl.width, BitVec.ofNat 8 s.cxl.speed] s

/-- Widths and speeds the link can train at (R402). -/
def trainable (width speed : Nat) : Bool := [16, 8, 4].contains width && [32, 16].contains speed

/-- CXL_LINK_TRAINED (R402, R417): another width or speed leaves the link down; training waits for PERST_N to be high. -/
def execCxlLinkTrained (width : Fin 17) (speed : Fin 33) (s : State) : Host.Outcome State Fault Refusal :=
  .next <|
    if !trainable width.val speed.val || !s.pins.porN || !s.pins.perstN || s.boot.held || s.cxl.up then s
    else logLink { s with cxl := { s.cxl with up := true, everUp := true, width := width.val, speed := speed.val } }

/-- The link is down (R416). -/
def linkLost (s : State) : State :=
  if s.cxl.up then logLink { s with cxl := { s.cxl with up := false, width := 0, speed := 0 } } else s

/-- LINK_DOWN (R416): the part goes on serving; no configuration register changes. -/
def execLinkDown (s : State) : Host.Outcome State Fault Refusal := .next (linkLost s)

/-- Configuration registers and HDM decoders at their reset values (R416). -/
def resetConfig (s : State) : State :=
  { s with cxl := { s.cxl with bme := false, decoders := [], notCommitted := [], d3hot := false, aspmL1 := false } }

/-- HOT_RESET (R416): a hot reset or a secondary bus reset. -/
def execHotReset (s : State) : Host.Outcome State Fault Refusal := .next (resetConfig (linkLost s))

/-- PERST_N_ASSERT (R417, R514, R566): a warm reset once the link has come up; before that only CXL training waits. -/
def execPerstNAssert (s : State) : Host.Outcome State Fault Refusal :=
  .next <|
    let s := { s with pins := { s.pins with perstN := false } }
    if !s.pins.porN || !s.cxl.everUp || s.boot.held then s else enterWarmReset s

/-- BUS_MASTER_ENABLE_CHANGE (R403, R414): configuration writes of Bus Master Enable, the device state and ASPM L1. What waits for Bus
Master Enable (loads, Toybox transfers, the event ring) reads the bit; D3hot keeps the host out of the BARs and suspends nothing else, and
the return to D0 performs no reset. -/
def execBusMasterEnableChange (c : PciConfig) (s : State) : Host.Outcome State Fault Refusal :=
  .next { s with cxl := { s.cxl with bme := c.bme, d3hot := c.d3hot, aspmL1 := c.aspmL1 } }

/-- The link is in ASPM L1 (R403): only in PS3 and PS4, and only with ASPM L1 enabled. -/
def linkL1 (s : State) : Bool := s.cxl.up && s.cxl.aspmL1 && decide (3 ≤ rd PWR_STATE.state s)

/-- No_Soft_Reset (R403). -/
def noSoftReset : Bool := true

/-- The L1 exit latency reported in Link Capabilities, its encoding 4: 8 µs to less than 16 µs (R403). -/
def l1ExitLatency : Nat := 4

/-- LOAD_PAUSE_TIMEOUT (R414, R416): a host-source load has been paused for more than 100 ms. -/
def execLoadPauseTimeout (s : State) : Host.Outcome State Fault Refusal :=
  .next (match s.wld.load with
    | some l => if l.kind = 0 && !hostReach s then endLoad 11 0 s else s
    | none => s)

/-! ## CXL.mem (R406, R409, R410, R413) -/

/-- A host CXL.mem access (R410, R413): in PS3 and PS4 the access is held, wakes the part, completes when HBM has left self-refresh, and the
first scan follows at once. -/
def hostMem (a : MemAccess) (s : State) : State :=
  if 3 ≤ rd PWR_STATE.state s then
    let s := scanAll (wakePart 3 { s with cxl := { s.cxl with held := s.cxl.held ++ [a] } })
    if quietNow s then admitAll s else s
  else serveMem a s

/-- A master may read and write the save areas (R121, R530): the engines' data movers and the control cores, any other in debug mode. -/
def maySaves (who : Master) (s : State) : Bool :=
  match who with
  | .mover _ => true
  | .core _ => true
  | _ => debugMode s

/-- Images the save areas hold: 4 GiB in slots of 20 KiB (R376). -/
def saveSlots : Nat := 209715

/-- Eight bytes of a word, each replaced where its byte is given. -/
def mergeBytes (w : Word) (l : List (Option Byte)) : Word :=
  BitVec.ofNat 64 (leNat ((List.range 8).map fun i => ((l[i]?).getD none).getD (BitVec.ofNat 8 (w.toNat >>> (8 * i)))))

/-- The words of one line of a save slot written (R120, R376). -/
def writeSave (ws : List Word) (first : Nat) (data : List (Option Byte)) : List Word :=
  (List.range (max ws.length (first + 8))).map fun i =>
    if first ≤ i ∧ i < first + 8 then mergeBytes (ws.getD i 0) ((data.drop (8 * (i - first))).take 8) else ws.getD i 0

/-- An image of the save areas changed, as every step in flight sees it. -/
def changeSaved (image : Nat) (f : List Word → List Word) (s : State) : State :=
  let g := fun t : Step => { t with saves := t.saves.map fun e => if e.1 = image then (e.1, f e.2) else e }
  { s with saves := tset [] s.saves image (f (tget [] s.saves image))
           srv := { s.srv with running := s.srv.running.map g, done := s.srv.done.map g } }

/-- An access that is refused (R19): a read is zero, a write is ignored; both are logged. -/
def refuseAccess (a : MemAccess) (s : State) : State :=
  let s := logIgnored a.who (64 * a.line) (leNat ((a.data.take 4).map fun b => b.getD 0)) s
  if a.write then s else answer (.bytes (List.replicate 64 0)) s

/-- An access to one line of the save areas (R19, R121): slot `line / 320`, eight of its words. -/
def savesAccess (a : MemAccess) (s : State) : State :=
  let image := a.line / 320
  let first := a.line % 320 * 8
  if !maySaves a.who s || decide (saveSlots ≤ image) then refuseAccess a s
  else if a.write then changeSaved image (fun ws => writeSave ws first a.data) s
  else
    let ws := savedImage image s
    answer (.bytes ((List.range 8).flatMap fun i => leBytes 8 (ws.getD (first + i) 0).toNat)) s

/-- An access to one line of host memory (R19): the part's own masters reach it over CXL, while the link is up and Bus Master Enable is set
(R414). -/
def hostAccess (a : MemAccess) (s : State) : State :=
  if a.who != .host && !hostReach s then s
  else if a.write then { s with host := putSome (64 * a.line) (a.data.take 64) s.host }
  else answer (.bytes (bytesAt s.host (64 * a.line) 64)) s

/-- CXL_MEM_ACCESS (R19, R121, R410, R413): an access to one line of memory. The HDM range is reached by the host over CXL.mem, by the
part's masters directly. DESIGN CHOICE (log entry 150): a line beyond the end of its area is refused. -/
def execCxlMemAccess (a : MemAccess) (s : State) : Host.Outcome State Fault Refusal :=
  .next (match a.area with
    | .hdm => if hdmSize ≤ 64 * a.line then refuseAccess a s else if a.who = .host then hostMem a s else serveLine a s
    | .saves => savesAccess a s
    | .scratch => scratchAccess a s
    | .hostMemory => hostAccess a s)

/-- A committed decoder: base, size, locked. -/
def decoderAt (d : Nat) (s : State) : Option (Nat × Nat × Bool) := (s.cxl.decoders.find? fun p => p.1 == d).map Prod.snd

/-- 256 MiB. -/
def decoderUnit : Nat := 268435456

/-- The conditions of a commit (R409). -/
def decoderOk (d base size ways skip : Nat) (s : State) : Bool :=
  let other := match decoderAt (1 - d) s with | some (_, n, _) => n | none => 0
  base % decoderUnit == 0 && size % decoderUnit == 0 && size != 0 && ways == 1 && skip == 0
    && decide (size + other ≤ hdmSize) && (d == 0 || (decoderAt 0 s).isSome)

/-- HDM_DECODER_COMMIT (R409): a commit that breaks a condition fails with Error Not Committed; a locked decoder stays as it is. -/
def execHdmDecoderCommit (decoder : Fin 2) (base size ways skip : Nat) (lock : Bool) (s : State) :
    Host.Outcome State Fault Refusal :=
  .next <|
    let d := decoder.val
    let locked := match decoderAt d s with | some (_, _, l) => l | none => false
    let others := s.cxl.decoders.filter fun p => p.1 != d
    let errors := s.cxl.notCommitted.filter (· != d)
    if locked then s
    else if decoderOk d base size ways skip s then
      { s with cxl := { s.cxl with decoders := others ++ [(d, base, size, lock)], notCommitted := errors } }
    else { s with cxl := { s.cxl with decoders := others, notCommitted := errors ++ [d] } }

/-! ## Aborted accesses (R407) -/

/-- R407 accepts the access, or leaves it to CXL 2.0 (the component register block). -/
def accessOk (bar2 : Bool) (offset size : Nat) : Bool :=
  if bar2 then decide (offset % 64 + size ≤ 64)
  else (0x3000000 ≤ offset && offset < 0x3010000) || ((size == 8 || size == 4) && offset % size == 0)

/-- BAR_ACCESS_ABORT (R407): Completer Abort, logged; a write has no effect. -/
def execBarAccessAbort (bar2 : Bool) (offset : BitVec 32) (size : Nat) (write : Bool) (who : Master) (s : State) :
    Host.Outcome State Fault Refusal :=
  .next <|
    if barClosed who s then answer .abort s
    else if accessOk bar2 offset.toNat size then s
    else log 14 2 0x0004 (writerUnit who)
      (leBytes 4 offset.toNat ++ leBytes 1 size ++ leBytes 1 write.toNat ++ leBytes 1 (if bar2 then 2 else 0)) (answer .abort s)

end Sys2Proof.Machine
end

