-- ==== Sys2Proof/Machine/Pair.lean ====
section
/-! DEFINITION. The pair and the links: training, handshake, plans, commit hashes, settlement, provisional results, loss of the
partner, rejoining (12_integrity.md R321, R322; 13_pair.md R337 to R356). -/

namespace Sys2Proof.Machine

/-- Pairing is enabled (R340, R352). -/
def pairEnabled (s : State) : Bool := rdb PAIR_CTL.en s

/-- The pair link is up (R355). -/
def pairUp (s : State) : Bool := rdb PAIR_LINK_STAT.up s

/-! ## Losing the partner (R346, R348, R349) -/

/-- Bytes of a page of the generation `id` (R252). -/
def genPageBytes (id : Nat) (s : State) : Nat :=
  match slotOf id s with
  | some g => (match (genAt g s).manifest with | some m => m.pageBytes | none => 0)
  | none => 0

/-- A mirrored sequence with the tokens of a final result appended, its pages counted (R346). -/
def growMirror (p : Provisional) (q : Sequence) (s : State) : Sequence :=
  let history := q.history ++ p.tokens
  { q with history, frames := framesFor (genPageBytes q.genId s) history.length, units := unitsFor history.length }

/-- The mirror of a sequence that has none yet. -/
def freshMirror (p : Provisional) : Sequence := ⟨p.seq, false, p.ctx, p.gen.toNat, [], 0, 0, .live, 0, 0, true⟩

/-- A result of the partner becomes final in the mirror (R346). -/
def finalise (p : Provisional) (s : State) : State :=
  let old := (s.pair.mirrors.find? fun q => q.id == p.seq).getD (freshMirror p)
  let rest := s.pair.mirrors.filter fun q => q.id != p.seq
  let now := p.rows.map fun r => (⟨p.seq, r.pos, r.index, r.elems, r.scale, p.step⟩ : KvRow)
  let kept := s.pair.mirrorKv.filter fun k => !(now.any fun r => r.seq == k.seq && r.pos == k.pos && r.index == k.index)
  { s with pair := { s.pair with mirrors := rest ++ [growMirror p old s], mirrorKv := kept ++ now } }

/-- A mirrored sequence is adopted, up to 16,384 live ones; the rest are released and logged (R348). -/
def adoptOne (q : Sequence) (s : State) : State :=
  if decide (liveCount false s < 16384) && (seqAt false q.id s).isNone then
    wr PAIR_STAT.adopted (rd PAIR_STAT.adopted s + 1)
      { s with srv := { s.srv with seqs := s.srv.seqs ++ [{ q with mirror := false }]
                                   kv := s.srv.kv ++ s.pair.mirrorKv.filter fun k => k.seq == q.id } }
  else log 10 2 (Config.unlistedCode 348).toNat 0 (leBytes 4 q.id) s

/-- Every mirrored sequence becomes one of the survivor's, in ascending id (R348). -/
def adoptAll (s : State) : State :=
  let l := sortBy (fun a b : Sequence => decide (a.id ≤ b.id)) s.pair.mirrors
  updateKvStat (l.foldl (fun a q => adoptOne q a) (wr PAIR_STAT.adopted 0 s))

/-- A settlement under way completes at its stage without the partner (R348). -/
def settleAlone (s : State) : State :=
  match s.pair.settling with
  | some z => if z.stage = 0 then s else countStage z.stage s
  | none => s

/-- The partner is lost, or its handshake is void (R348): 1 link down, 2 timeout, 3 leaving notice. -/
def partnerLost (reason : Nat) (s : State) : State :=
  if paired s || rd PAIR_STAT.state s == 6 || s.pair.joining then
    let s := if rdb PAIR_CTL.mode s then adoptAll s else settleAlone s
    let s := wr PAIR_STAT.state 4 (wr PAIR_STAT.lost 1 (wr PAIR_STAT.link reason (wr PAIR_ROLE.partner_glb 3 (dropPartner s))))
    log 10 4 0x00A0 0 [BitVec.ofNat 8 reason] s
  else s

/-- The pair link goes down (R338, R339). -/
def pairLinkDown (reason : Nat) (s : State) : State :=
  let s := partnerLost reason (wr PAIR_LINK_STAT.up 0 (wr PAIR_LINK_STAT.lanes 0 s))
  if rd PAIR_STAT.state s = 2 then wr PAIR_STAT.state 1 s else s

/-- PAIR_LINK_TIMEOUT (R339): no flit for PAIR_CTL.timeout. -/
def execPairLinkTimeout (s : State) : Host.Outcome State Fault Refusal :=
  .next (if pairUp s then pairLinkDown 2 s else s)

/-- LEAVING_NOTICE (R348). -/
def execLeavingNotice (s : State) : Host.Outcome State Fault Refusal := .next (partnerLost 3 s)

/-! ## The handshake (R341, R350) -/

/-- Ids and manifest digests of the READY and ACTIVE slots. -/
def heldGens (s : State) : List (BitVec 16 × BitVec 512) :=
  (List.range 4).filterMap fun g =>
    if rd (WLD_GEN.state g) s = 2 ∨ rd (WLD_GEN.state g) s = 3 then
      (genAt g s).manifest.map fun m => (BitVec.ofNat 16 (rd (WLD_GEN.gen g) s), m.digest)
    else none

/-- Both parts hold the same generations. -/
def sameGens (a b : List (BitVec 16 × BitVec 512)) : Bool := (a.all fun x => b.contains x) && b.all fun x => a.contains x

/-- The code of the first condition of R341 that does not hold; 0: the parts pair. -/
def refuseCode (p : Partner) (s : State) : Nat :=
  let split := rdb PAIR_CTL.mode s
  let lanes := rd PAIR_LINK_STAT.lanes s
  if p.role == rdb PAIR_ROLE.role s then 1
  else if p.fwVersion.toNat ≠ rd BOOT_IMG_INFO.fw_version s then 2
  else if p.split != split then 3
  else if !sameGens p.gens (heldGens s) || (!split && p.kvFormat != (kvMx s).toNat) then 4
  else if lanes = 16 ∨ (lanes = 8 ∧ split = true) then 0
  else 5

/-- What the partner told (R354). -/
def notePartner (p : Partner) (s : State) : State :=
  let s := wrb PAIR_ROLE.partner_role p.role (wr PAIR_ROLE.partner_glb p.state.val (wr PAIR_ROLE.partner_id p.serial.toNat s))
  { s with pair := { s.pair with partner := some p, active := p.activeGen } }

/-- The conditions hold (R341, R350, R552): a mirrored pair forms at the next boundary; in split mode live sequences are copied first.
`again`: this is a rejoin. -/
def acceptPartner (again : Bool) (p : Partner) (s : State) : State :=
  let s := wr PAIR_STAT.refuse 0 { s with srv := { s.srv with highest := max s.srv.highest p.step } }
  let live := ((liveSeqs s).filter fun q => !q.keep).map (·.id)
  if rdb PAIR_CTL.mode s && (again || !live.isEmpty) then
    wr PAIR_STAT.state 6 (send (.liveCopy live) { s with pair := { s.pair with copying := true } })
  else
    let s := { s with pair := { s.pair with joining := true } }
    if quietNow s then joinPair s else s

/-- The two parts run the handshake (R341): they pair, or refuse and serve alone. -/
def handshake (again : Bool) (p : Partner) (s : State) : State :=
  let s := notePartner p (dropPartner s)
  let c := refuseCode p s
  if c = 0 then acceptPartner again p s else wr PAIR_STAT.state 5 (wr PAIR_STAT.refuse c s)

/-- The part answers a handshake: not in Tin Soldier mode, HALT or under the ROM runner (R362, R369, R551). -/
def mayPair (s : State) : Bool := !inTin s && rd GLB_STATE.state s != 5 && !rdb GLB_STATE.rom_runner s

/-- The pair link is up at `lanes` (R338): identity and handshake. A part that serves alone waits for a rejoin (R350). -/
def pairTrained (lanes : Nat) (p : Partner) (s : State) : State :=
  let st := rd PAIR_STAT.state s
  let s := wr PAIR_LINK_STAT.up 1 (wr PAIR_LINK_STAT.lanes lanes s)
  let s := if 3 ≤ rd PWR_STATE.state s then wakePart 7 s else s
  if st = 4 then notePartner p s
  else
    let s := if st = 6 then s else wr PAIR_STAT.state 2 s
    if mayPair s then handshake (st == 6) p (send .handshake s) else notePartner p s

/-- LINK_TRAINED (R338): a link whose ends do not fit each other, or that trains at neither width, never comes up. -/
def execLinkTrained (port : Port) (lanes : Nat) (partner : Partner) (s : State) : Host.Outcome State Fault Refusal :=
  .next <|
    if !s.pins.porN || s.boot.held || !partner.samePort || !partner.isA1 then s
    else match port with
      | .pair => if (lanes = 16 ∨ lanes = 8) ∧ pairEnabled s ∧ !pairUp s then pairTrained lanes partner s else s
      | .parcelIn => if lanes = 8 ∨ lanes = 4 then wr WLD_PARCEL_STAT.in_up 1 s else s
      | .parcelOut => if lanes = 8 ∨ lanes = 4 then wr WLD_PARCEL_STAT.out_up 1 s else s

/-- LANE_RETRAIN (R338): the degraded width, or down where the link cannot train at it. -/
def execLaneRetrain (port : Port) (trains : Bool) (s : State) : Host.Outcome State Fault Refusal :=
  .next <|
    match port with
    | .pair =>
      if !pairUp s then s
      else if trains then incHold PAIR_LINK_STAT.retrains 1 (wr PAIR_LINK_STAT.lanes 8 s)
      else pairLinkDown 1 s
    | .parcelIn => if trains then s else wr WLD_PARCEL_STAT.in_up 0 s
    | .parcelOut => if trains then s else wr WLD_PARCEL_STAT.out_up 0 s

/-- The port's link is up. -/
def portUp (port : Port) (s : State) : Bool :=
  match port with
  | .pair => pairUp s
  | .parcelIn => rdb WLD_PARCEL_STAT.in_up s
  | .parcelOut => rdb WLD_PARCEL_STAT.out_up s

/-- FLIT_RETRY (R339): the flit is requested again; the pair link counts it (R355). -/
def execFlitRetry (port : Port) (uncorrectable : Bool) (s : State) : Host.Outcome State Fault Refusal :=
  .next <|
    if !portUp port s then s
    else
      let s := send (.flitRequest port) s
      if port = .pair then
        incHold PAIR_LINK_STAT.uncorr uncorrectable.toNat (incHold PAIR_LINK_STAT.retries 1 s)
      else s

/-! ## PAIR_CTL (R350, R352) -/

/-- PAIR_CTL.leave (R348, R352). -/
def leaveWrite (s : State) : State :=
  let st := rd PAIR_STAT.state s
  if st = 1 ∨ st = 2 then wr PAIR_STAT.state 4 (dropPartner (if pairUp s then send .leavingNotice s else s)) else leavePair s

/-- PAIR_CTL.rejoin (R350): the handshake runs once the partner's side has been asked to rejoin too; `partner` is what it then
tells. -/
def rejoinWrite (partner : Option Partner) (s : State) : State :=
  let st := rd PAIR_STAT.state s
  if !pairEnabled s || !(st == 4 || st == 5 || (st == 6 && !s.pair.copying && !s.pair.joining)) then s
  else
    let s := wr PAIR_STAT.state 6 s
    if !pairUp s || !mayPair s then s
    else match partner with
      | none => send .handshake s
      | some p => handshake true p (send .handshake s)

/-- PAIR_CTL written (R352). -/
def pairCtlWrite (w : Write) (partner : Option Partner) (s : State) : State :=
  guarded PAIR_CTL w s fun s =>
    let s := wtakeLocked [PAIR_CTL.en, PAIR_CTL.mode, PAIR_CTL.mirror_pct, PAIR_CTL.timeout] w s
    let s := if wone PAIR_CTL.leave w then leaveWrite s else s
    if wone PAIR_CTL.rejoin w then rejoinWrite partner s else s

/-- PAIR_LEAVE (R348, R352). -/
def execPairLeave (w : Write) (s : State) : Host.Outcome State Fault Refusal := .next (pairCtlWrite w none s)

/-- PAIR_REJOIN (R350, R352). -/
def execPairRejoin (w : Write) (partner : Option Partner) (s : State) : Host.Outcome State Fault Refusal :=
  .next (pairCtlWrite w partner s)

/-- REJOIN_COPY_COMPLETE (R350): both copies are complete, `received` are the partner's live sequences; the pair reads paired. -/
def execRejoinCopyComplete (received : List Provisional) (s : State) : Host.Outcome State Fault Refusal :=
  .next <|
    if !s.pair.copying then s
    else
      let s := received.foldl (fun a p => if (seqAt false p.seq a).isSome then a else finalise p a) s
      wr PAIR_STAT.state 3 { s with pair := { s.pair with copying := false, since := s.srv.highest } }

/-! ## The plan (R342) -/

/-- A POSTED slot the plan names is validated and taken (R242, R243). -/
def takeNamed (key : Nat) (s : State) : State :=
  let r := readSlot key s.srv.nextOrder s
  if slotValid key r s then takeSlot key r s else wr SRV_STAT.scan_err 1 (failSlot key 0x12 s)

/-- A slot differs between the parts: its request ends FAILED with cause 0x12 (R342). -/
def slotDiffers (key : Nat) (s : State) : State :=
  let s := wr PAIR_STAT.slot_diff 1 s
  match slotState key s with
  | 1 => failSlot key 0x12 s
  | 2 => finish key 0x12 s
  | 3 => failRequest key 0x12 s
  | _ => s

/-- One slot the plan names for admission; one that differs from the primary's ends on both parts (R342). -/
def checkNamed (e : Nat × Nat × BitVec 64) (s : State) : State :=
  let key := 4096 * e.1 + e.2.1
  let st := slotState key s
  if (st = 1 ∨ st = 2) ∧ bodyDigest key s = e.2.2 then (if st = 1 then takeNamed key s else s)
  else slotDiffers key (send (.slotDiff (keyTable key) (keySlot key)) s)

/-- STEP_PLAN (R342): the secondary's plan of its next step. -/
def execStepPlan (plan : Plan) (s : State) : Host.Outcome State Fault Refusal :=
  .next <|
    if !secondary s then s
    else
      let s := { s with pair := { s.pair with plan := some plan, active := plan.activeGen } }
      let s := plan.recipes.foldl (fun a e => stageRecipe plan.step e.1 e.2.1 e.2.2 a) s
      plan.named.foldl (fun a e => checkNamed e a) s

/-! ## Commit hashes and their settlement (R343 to R345) -/

/-- What the partner reports is taken in (R142, R342): recipe flags are applied on both parts, slots that differ end, its ACTIVE generation
is known. -/
def takePartnerReport (p : PartnerReport) (s : State) : State :=
  let s := { s with pair := { s.pair with active := p.activeGen } }
  let s := p.flags.foldl (fun a f => partnerFlag f a) s
  p.differ.foldl (fun a e => slotDiffers (4096 * e.1.val + e.2.val) a) s

/-- COMMIT_HASH (R344): compared with the part's own once that is sent; kept until then. With it comes what the partner has to report. -/
def execCommitHash (step : Nat) (hash : BitVec 64) (report : PartnerReport) (s : State) : Host.Outcome State Fault Refusal :=
  .next <|
    if !mirrored s then s
    else
      let s := takePartnerReport report s
      match s.srv.done.find? fun t => t.num == step && t.hashSent && t.hash.isNone with
      | some t => judgeHash t (hashOf t s) hash s
      | none => { s with pair := { s.pair with early := (s.pair.early.filter fun e => e.1 != step) ++ [(step, hash)] } }

/-- The request of a record. -/
def recordKey (c : CommitRecord) : Nat := 4096 * c.table + c.slot

/-- The requests whose records differ between two lists (R345). -/
def differing (a b : List CommitRecord) : List Nat :=
  (((a ++ b).map recordKey).dedup).filter fun k => (a.filter fun c => recordKey c == k) != b.filter fun c => recordKey c == k

/-- The stage of R345 that applies next: `evidence` the partner's, `own` this part's. -/
def nextStage (stage : Nat) (evidence own : Bool) : Nat :=
  if stage = 0 then (if evidence != own then 1 else 2) else min (stage + 1) 3

/-- A unit that is evidence in a step (R345): it is suspect, had a discarded read in the step, has a column that failed its most recent
vector set. (A step during which its region was reset is void and is never compared.) -/
def isEvidence (t : Step) (u : Nat × Option Nat) (s : State) : Bool :=
  match u.2 with
  | some b => (blockAt u.1 b s).window.isSome || t.discarded.contains (u.1, b) || !(blockAt u.1 b s).failing.isEmpty
  | none => (regionAt u.1 s).window.isSome

/-- The evidenced units of this part among those that computed work of the differing requests in a step (R345). -/
def evidenceOf (num : Nat) (keys : List Nat) (s : State) : List (Nat × Option Nat) :=
  match (s.srv.running.toList ++ s.srv.done ++ s.srv.voids).find? fun t => t.num == num with
  | some t => (((t.work.filter fun w => keys.contains w.1).map Prod.snd).filter fun u => isEvidence t u s).dedup
  | none => []

/-- An evidenced unit is suspect and stood in for the replay (R345): a block, or an engine. -/
def chargeUnit (u : Nat × Option Nat) (s : State) : State :=
  match u.2 with
  | some b => suspectBlock u.1 b false (wantBlock u.1 b .replay s)
  | none => suspectEngine u.1 (wantRegion u.1 .replay s)

/-- The settlement of a step goes on at a stage (R345, R454). -/
def startStage (z : Settling) (stage : Nat) (evidence : List (Nat × Option Nat)) (s : State) : State :=
  let s := wr PAIR_STAT.stage stage { s with pair := { s.pair with settling := some { z with stage, waits := false } } }
  let s := log 10 4 0x00A1 0 (leBytes 4 z.step ++ [BitVec.ofNat 8 stage]) s
  if stage = 1 then evidence.foldl (fun a u => chargeUnit u a) s else s

/-- RECORD_LIST (R345): the partner's records and its evidence meet this part's own; the stage is chosen and the replay may start. -/
def execRecordList (step : Nat) (records : List CommitRecord) (evidence : Bool) (s : State) : Host.Outcome State Fault Refusal :=
  .next <|
    match s.pair.settling with
    | none => s
    | some z =>
      if z.step ≠ step ∨ z.waits = false then s
      else
        let keys := differing z.own records
        let own := evidenceOf step keys s
        let s := startStage { z with keys } (nextStage z.stage evidence (!own.isEmpty)) own s
        if s.srv.running.isNone && stepsRun s then openStep none (queueVoids s) else s

/-! ## Provisional results (R321, R346, R347) -/

/-- Messages of a split partner are taken while the pair stands or its copies run. -/
def takesMirror (s : State) : Bool := splitMode s || (rdb PAIR_CTL.mode s && s.pair.copying)

/-- A protocol fault of provisional results (R321, R347). -/
def protocolFault (step : Nat) (s : State) : State := log 9 4 0x0096 0 (leBytes 4 step) (wr CHK_STAT.prov 1 s)

/-- Provisional results from step `n` on are discarded (R321). -/
def discardFrom (n : Nat) (s : State) : State :=
  { s with pair := { s.pair with provisional := s.pair.provisional.filter fun p => decide (p.step < n) } }

/-- A message of step `n` while a step up to n − 2 is provisional: the oldest such step counts as retracted (R321). -/
def staleSteps (n : Nat) (s : State) : State :=
  match (s.pair.provisional.filter fun p => decide (p.step + 2 ≤ n)).map (·.step) with
  | [] => s
  | k :: t =>
    let oldest := t.foldl min k
    protocolFault oldest (discardFrom oldest s)

/-- A sequence leaves the mirror (R347). -/
def dropMirror (id : Nat) (s : State) : State :=
  { s with pair := { s.pair with
      mirrors := s.pair.mirrors.filter fun q => q.id != id
      mirrorKv := s.pair.mirrorKv.filter fun k => k.seq != id
      provisional := s.pair.provisional.filter fun p => p.seq != id } }

/-- PROVISIONAL_RESULT (R321, R346, R347): held apart; one for a sequence this part holds live is a protocol fault. -/
def execProvisionalResult (p : Provisional) (s : State) : Host.Outcome State Fault Refusal :=
  .next <|
    if !takesMirror s then s
    else
      let s := staleSteps p.step s
      if s.srv.seqs.any fun q => q.id == p.seq && !q.keep && isLive q then protocolFault p.step (dropMirror p.seq s)
      else { s with pair := { s.pair with provisional := s.pair.provisional ++ [p] } }

/-- COMMIT_NOTICE (R321): the step's results become final. -/
def execCommitNotice (step : Nat) (s : State) : Host.Outcome State Fault Refusal :=
  .next <|
    if !takesMirror s then s
    else
      let s := staleSteps step s
      let now := s.pair.provisional.filter fun p => p.step == step
      let s := { s with pair := { s.pair with provisional := s.pair.provisional.filter fun p => p.step != step } }
      now.foldl (fun a p => finalise p a) s

/-- RETRACTION_TOKEN (R321, R322): the step and every later one is discarded; no step of this part uses them. -/
def execRetractionToken (step : Nat) (s : State) : Host.Outcome State Fault Refusal :=
  .next (if takesMirror s then discardFrom step (staleSteps step s) else s)

end Sys2Proof.Machine
end

