-- ==== Sys2Proof/Machine/Mailbox.lean ====
section
/-! DEFINITION. The mailbox: GET_INFO, RECIPE_SET, updates of the boot NVM, streamed recovery images (16_cxl.md R421 to R427;
19_boot_security.md R517 to R520, R533, R534). -/

namespace Sys2Proof.Machine

/-! ## The buffer and the protocol (R421 to R425) -/

/-- One byte of the mailbox buffer (R424). -/
def mbxByte (i : Nat) (s : State) : Byte := BitVec.ofNat 8 ((s.reg (MBX_DATA (i / 8))).toNat >>> (8 * (i % 8)))

/-- A little-endian number of `n` bytes of the mailbox buffer. -/
def mbxNat (off n : Nat) (s : State) : Nat := leNat ((List.range n).map fun i => mbxByte (off + i) s)

/-- Words of 8 bytes written into the buffer from word `w` on. -/
def putMbx (w : Nat) : List Byte → Nat → State → State
  | _, 0, s => s
  | l, n + 1, s => putMbx (w + 1) (l.drop 8) n (setReg (MBX_DATA w) (BitVec.ofNat 64 (leNat (l.take 8))) s)

/-- Every word of the buffer reads zero. -/
def clearMbx (s : State) : State :=
  { s with regs := s.regs.filter fun p => decide (p.1 < MBX_DATA 0) || decide (MBX_DATA 511 < p.1) }

/-- A command completes (R421, R423): its output overwrites the buffer, the rest of it reads zero. -/
def mbxComplete (status : Nat) (out : List Byte) (s : State) : State :=
  let s := putMbx 0 out ((out.length + 7) / 8) (clearMbx s)
  let s := wr MBX_STAT.busy 0 (wr MBX_STAT.done 1 (wr MBX_STAT.status status (wr MBX_STAT.out_len out.length s)))
  incWrap MBX_STAT.count 1 s

/-- The opcodes and the GLB_STATE values each is served in (R425). -/
def mbxOpcodes : List (Nat × List Nat) :=
  [(0x0001, [0, 1, 2, 3, 4, 5]), (0x0002, [2, 3]), (0x0010, [2, 3, 4]), (0x0011, [2, 3, 4]), (0x0012, [2, 3, 4]),
   (0x0020, [4]), (0x0021, [4]), (0x0022, [4])]

/-- The status of a command before its own checks (R422, R423, R425): length, opcode, state and writer; 0: it runs. -/
def mbxStatus (who : Master) (op len : Nat) (s : State) : Nat :=
  if 4096 < len then 2
  else match mbxOpcodes.find? fun e => e.1 == op with
    | none => 1
    | some e => if e.2.contains (rd GLB_STATE.state s) && who == .host then 0 else 3

/-- A write of MBX_CMD or MBX_DATA at `off` reaches the mailbox (R421): not ready, it is ignored and logged; busy, overrun is set too. -/
def mbxGuard (who : Master) (off value : Nat) (s : State) (k : State → State) : State :=
  byWriter who off value s fun s =>
    if !rdb MBX_STAT.ready s then logIgnored who off value s
    else if rdb MBX_STAT.busy s then logIgnored who off value (wr MBX_STAT.overrun 1 s)
    else k s

/-- A write of MBX_CMD wakes the part (R488). -/
def wakeWriter (who : Master) (s : State) : State := if mayWrite who && !barClosed who s then wakePart 4 s else s

/-- MBX_CMD as written, and busy. -/
def mbxStart (op len : Nat) (s : State) : State :=
  let s := wr MBX_STAT.busy 1 (wr MBX_CMD.opcode op (wr MBX_CMD.in_len len s))
  if op = 0x0011 then wr BOOT_NVM_CTL.busy 1 s else s

/-- A started command runs: `k` gives its status, its output and its effect. -/
def mbxRun (who : Master) (op len : Nat) (k : State → Nat × List Byte × State) (s : State) : State :=
  let st := mbxStatus who op len s
  let s := if op = 0x0011 then wr BOOT_NVM_CTL.busy 0 s else s
  if st ≠ 0 then mbxComplete st [] s
  else
    let r := k s
    mbxComplete r.1 r.2.1 r.2.2

/-- A mailbox command: written and completed; one that a register write has started already completes (R421). -/
def mbxCommand (who : Master) (op len : Nat) (k : State → Nat × List Byte × State) (s : State) : State :=
  if rdb MBX_STAT.busy s && rdb MBX_STAT.ready s && mayWrite who && rd MBX_CMD.opcode s == op && rd MBX_CMD.in_len s == len then
    mbxRun who op len k s
  else mbxGuard who MBX_CMD (op + 65536 * len) (wakeWriter who s) fun s => mbxRun who op len k (mbxStart op len s)

/-- MBX_CMD written by a plain register write (R422): a command of R425 is busy until its own row completes it; any other ends at
once. -/
def mbxCmdWrite (w : Write) (s : State) : State :=
  let s := wakeWriter w.who s
  if w.half = .upper then mbxGuard w.who MBX_CMD w.data.toNat s id
  else mbxGuard w.who MBX_CMD w.data.toNat s fun s =>
    let op := fget MBX_CMD.opcode (wdata w)
    let len := fget MBX_CMD.in_len (wdata w)
    let s := mbxStart op len s
    if mbxStatus w.who op len s = 0 then s
    else mbxRun w.who op len (fun s => (0, [], s)) s

/-- MBX_DATA written (R421, R424). -/
def mbxDataWrite (n : Nat) (w : Write) (s : State) : State :=
  mbxGuard w.who (MBX_DATA n) w.data.toNat s fun s => wtake (MBX_DATA.data n) w s

/-! ## GET_INFO (R427) -/

/-- The 32 bytes of GET_INFO. -/
def infoBytes (s : State) : List Byte :=
  leBytes 4 (rd BOOT_IMG_INFO.fw_version s) ++ leBytes 4 s.boot.config.version.toNat
    ++ leBytes 8 (s.boot.config.digest.setWidth 64).toNat ++ leBytes 2 1 ++ leBytes 1 (hostManages s).toNat
    ++ leBytes 5 0 ++ leBytes 8 (rd GLB_STEP.step s)

/-- GET_INFO takes no input. -/
def getInfo (len : Nat) (s : State) : Nat × List Byte × State := if len ≠ 0 then (2, [], s) else (0, infoBytes s, s)

/-- GET_INFO (R427). -/
def execGetInfo (who : Master) (inLen : Nat) (s : State) : Host.Outcome State Fault Refusal :=
  .next (mbxCommand who 0x0001 inLen (getInfo inLen) s)

/-! ## RECIPE_SET (R140, R426) -/

/-- Entry `i` of a RECIPE_SET: slot, layer, selection byte. -/
def recipeEntry (i : Nat) (s : State) : Nat × Nat × Nat :=
  (mbxNat (18 + 4 * i) 1 s, mbxNat (16 + 4 * i) 2 s, mbxNat (19 + 4 * i) 1 s)

/-- An entry names a layer of a READY or ACTIVE generation, and wide only where there is one. -/
def recipeEntryOk (e : Nat × Nat × Nat) (s : State) : Bool :=
  decide (e.1 < 4) && (rd (WLD_GEN.state e.1) s == 2 || rd (WLD_GEN.state e.1) s == 3)
    && match (genAt e.1 s).manifest with
      | none => false
      | some m => decide (e.2.1 < m.layers) && (e.2.2 == 0 || (e.2.2 == 1
          && match (recipesOf e.1 s)[e.2.1]? with
            | some r => r.wide != 0xFFFF
            | none => false))

/-- RECIPE_SET's checks in their order and its effect. -/
def recipeSet (len : Nat) (s : State) : Nat × List Byte × State :=
  let n := mbxNat 0 2 s
  let flags := mbxNat 2 1 s
  let target := mbxNat 8 8 s
  let entries := (List.range n).map fun i => recipeEntry i s
  if !hostManages s then (3, [], s)
  else if len < 16 ∨ len ≠ 16 + 4 * n then (2, [], s)
  else if n = 0 ∨ 1 < flags ∨ mbxNat 3 5 s ≠ 0 ∨ !(entries.all fun e => recipeEntryOk e s) then (4, [], s)
  else if flags = 1 ∧ target ≤ s.srv.highest then (6, [], s)
  else
    let step := if flags = 1 then target else s.srv.highest + 1
    (0, leBytes 8 step, entries.foldl (fun a e => stageRecipe step e.1 e.2.1 (e.2.2 == 1) a) s)

/-- RECIPE_SET (R426). -/
def execRecipeSet (who : Master) (inLen : Nat) (s : State) : Host.Outcome State Fault Refusal :=
  .next (mbxCommand who 0x0002 inLen (recipeSet inLen) s)

/-! ## The boot NVM (R518, R520, R534) -/

/-- 4 KiB pages programmed (R534). -/
def countPages (n : Nat) (s : State) : State := incWrap BOOT_NVM_CTL.writes n s

/-- Pages that `n` bytes at offset `off` of an item touch. -/
def pagesOf (off n : Nat) : Nat := if n = 0 then 0 else (off + n - 1) / 4096 - off / 4096 + 1

/-- A change of the boot NVM. -/
def setNvm (f : Nvm → Nvm) (s : State) : State := { s with nv := { s.nv with nvm := f s.nv.nvm } }

/-- The device answers and its header is usable. DESIGN CHOICE (log entry 114): an update of a device without a usable
header fails as an NVM error. -/
def nvmUsable (s : State) : Bool := s.nv.nvm.readable && headerUsable s.nv.nvm

/-- NVM_UPDATE_BEGIN's checks and effect: the item is absent in the header from now on (R520). -/
def nvmBegin (len : Nat) (s : State) : Nat × List Byte × State :=
  let item := mbxNat 0 1 s
  let n := mbxNat 4 4 s
  if len ≠ 8 then (2, [], s)
  else if item = 0 ∨ 3 < item ∨ mbxNat 1 3 s ≠ 0 ∨ (nvmUsable s && decide (itemRoom item s.nv.nvm < n)) then (4, [], s)
  else if s.boot.update.isSome then (7, [], s)
  else if !nvmUsable s then (8, [], s)
  else
    let s := countPages 1 (wr BOOT_NVM_CTL.item item (setNvm (putLength item 0) s))
    (0, [], { s with boot := { s.boot with update := some ⟨item, n, []⟩ } })

/-- NVM_UPDATE_BEGIN (R518, R520). -/
def execNvmUpdateBegin (who : Master) (inLen : Nat) (s : State) : Host.Outcome State Fault Refusal :=
  .next (mbxCommand who 0x0010 inLen (nvmBegin inLen) s)

/-- The next part of an item: its offset continues where the last one ended, and it lies within the announced length (R518). -/
def partOk (len : Nat) (u : Update) (s : State) : Bool :=
  mbxNat 0 4 s == u.data.length && mbxNat 4 4 s == 0 && decide (u.data.length + (len - 8) ≤ u.length)

/-- The data bytes of a command with `len` bytes of input (R518). -/
def mbxData (len : Nat) (s : State) : List Byte := (List.range (len - 8)).map fun i => mbxByte (8 + i) s

/-- NVM_UPDATE_DATA's checks and effect: the bytes are programmed into the item's sectors. -/
def nvmData (len : Nat) (nvmError : Bool) (s : State) : Nat × List Byte × State :=
  if len < 8 then (2, [], s)
  else match s.boot.update with
    | none => (4, [], s)
    | some u =>
      if !partOk len u s then (4, [], s)
      else if nvmError then (8, [], s)
      else
        let l := mbxData len s
        let a := itemOffset u.item s.nv.nvm + u.data.length
        let s := countPages (pagesOf u.data.length (len - 8)) (setNvm (nvmProgram (l.length / 4096 + 2) a l) s)
        (0, [], { s with boot := { s.boot with update := some { u with data := u.data ++ l } } })

/-- NVM_UPDATE_DATA (R518, R520). -/
def execNvmUpdateData (who : Master) (inLen : Nat) (nvmError : Bool) (s : State) : Host.Outcome State Fault Refusal :=
  .next (mbxCommand who 0x0011 inLen (nvmData inLen nvmError) s)

/-- The item passes its check (R520). -/
def itemOk (item : Nat) (b : List Byte) (page : Nat) (s : State) : Bool :=
  match item with
  | 1 => imageCode (parseImage b) s == 0
  | 2 => recordCode (parseRecord b) s == 0
  | 3 => s.nv.lcs == 1 && containerOk (parseContainer b page) s
  | _ => false

/-- A checked item is present in the header; a Tin Soldier container is to be programmed into the keep regions (R520). -/
def storeItem (item : Nat) (b : List Byte) (page : Nat) (s : State) : State :=
  let s := setNvm (putLength item b.length) s
  if item = 3 then takeContainer (parseContainer b page) (setNvm (fun v => { v with tinPage := page }) s) else s

/-- NVM_UPDATE_END's check and effect: the update closes; on a failure the item stays absent. `page` is the KV page size of a container's
model (R251). -/
def nvmEnd (len : Nat) (nvmError : Bool) (page : Nat) (s : State) : Nat × List Byte × State :=
  if len ≠ 0 then (2, [], s)
  else match s.boot.update with
    | none => (4, [], s)
    | some u =>
      let s := wr BOOT_NVM_CTL.item 0 { s with boot := { s.boot with update := none } }
      if nvmError then (8, [], wr BOOT_STAT.nvm_err 1 s)
      else if u.data.length < u.length ∨ !itemOk u.item u.data page s then (5, [], wr BOOT_STAT.nvm_err 1 s)
      else (0, [], wr BOOT_STAT.nvm_done 1 (countPages 1 (storeItem u.item u.data page s)))

/-- NVM_UPDATE_END (R520). -/
def execNvmUpdateEnd (who : Master) (inLen : Nat) (nvmError : Bool) (pageBytes : Nat) (s : State) :
    Host.Outcome State Fault Refusal :=
  .next (mbxCommand who 0x0012 inLen (nvmEnd inLen nvmError pageBytes) s)

/-! ## A streamed recovery image (R517 to R519, R533) -/

/-- RECOV_IMAGE_BEGIN's checks and effect; an image that already runs keeps the receiver busy. -/
def recovBegin (len : Nat) (s : State) : Nat × List Byte × State :=
  if len ≠ 8 then (2, [], s)
  else if !awaitsImage s then (7, [], s)
  else if 33554432 < mbxNat 0 4 s ∨ mbxNat 4 4 s ≠ 0 then (4, [], recovResult 5 1 s)
  else (0, [], wr BOOT_RECOV_CTL.bytes 0 (recovResult 1 0 { s with boot := { s.boot with recov := some ⟨0, mbxNat 0 4 s, []⟩ } }))

/-- RECOV_IMAGE_BEGIN (R518). -/
def execRecovImageBegin (who : Master) (inLen : Nat) (s : State) : Host.Outcome State Fault Refusal :=
  .next (mbxCommand who 0x0020 inLen (recovBegin inLen) s)

/-- RECOV_IMAGE_DATA's checks and effect. -/
def recovData (len : Nat) (s : State) : Nat × List Byte × State :=
  if len < 8 then (2, [], s)
  else match s.boot.recov with
    | none => (4, [], s)
    | some u =>
      if mbxNat 0 4 s ≠ u.data.length then (4, [], wr BOOT_RECOV_CTL.err 2 s)
      else if !partOk len u s then (4, [], wr BOOT_RECOV_CTL.err 1 s)
      else
        let u := { u with data := u.data ++ mbxData len s }
        (0, [], wr BOOT_RECOV_CTL.bytes u.data.length { s with boot := { s.boot with recov := some u } })

/-- RECOV_IMAGE_DATA (R518). -/
def execRecovImageData (who : Master) (inLen : Nat) (s : State) : Host.Outcome State Fault Refusal :=
  .next (mbxCommand who 0x0021 inLen (recovData inLen) s)

/-- RECOV_IMAGE_RUN's checks and effect (R519). -/
def recovRun (len : Nat) (s : State) : Nat × List Byte × State :=
  if len ≠ 0 then (2, [], s)
  else match s.boot.recov with
    | none => (4, [], s)
    | some u =>
      if u.data.length < u.length then (4, [], wr BOOT_RECOV_CTL.err 1 s)
      else
        let s := tryImage u.data { s with boot := { s.boot with recov := none } }
        (if rd BOOT_RECOV_CTL.state s = 4 then 0 else 5, [], s)

/-- RECOV_IMAGE_RUN (R519). -/
def execRecovImageRun (who : Master) (inLen : Nat) (s : State) : Host.Outcome State Fault Refusal :=
  .next (mbxCommand who 0x0022 inLen (recovRun inLen) s)

end Sys2Proof.Machine
end

