-- ==== Sys2Proof/Machine/Access.lean ====
section
/-! DEFINITION. Register accesses: what a read of each register returns, writes to registers without a row of their own, SMBus
(20_register_map.md R539 to R554; 21_pins_electrical.md R577; 16_cxl.md R407, R419). -/

namespace Sys2Proof.Machine

/-! ## Fields that follow the state -/

/-- The index of `off` in an array of `count` registers from `base`, `stride` bytes apart. -/
def regIndex (off base stride count : Nat) : Option Nat :=
  if base ≤ off ∧ off < base + stride * count ∧ (off - base) % stride = 0 then some ((off - base) / stride) else none

/-- What `f` gives for the index of `off`, nothing outside the array. -/
def atIndex (off base stride count : Nat) (f : Nat → List (Fld × Nat)) : List (Fld × Nat) :=
  match regIndex off base stride count with
  | some n => f n
  | none => []

/-- Bit `b` of word `w` of 64 is `f (64 w + b)`. -/
def wordBits (w : Nat) (f : Nat → Bool) : Nat := bitsNat ((List.range 64).map fun b => f (64 * w + b))

/-- GLB and ICU (R433, R434, R441, R455 to R459, R546, R548, R549). -/
def glbFields (off : Nat) (s : State) : List (Fld × Nat) :=
  if off = GLB_ID then [(GLB_ID.vendor, 0x1E9C), (GLB_ID.device, 0x0650), (GLB_ID.rev, 0xA1), (GLB_ID.serial, s.nv.serial.toNat)]
  else if off = GLB_STATE then [(GLB_STATE.debug, (debugMode s).toNat)]
  else if off = GLB_SUMMARY then [(GLB_SUMMARY.groups, summaryWord s)]
  else
    atIndex off (ICU_SRC_CFG 0) 8 256 (fun n => [(ICU_SRC_CFG.raw n, (sourceInput n s && !softSource n).toNat)])
      ++ atIndex off (ICU_PEND 0) 8 4 (fun w => [(ICU_PEND.pend w, wordBits w fun n => srcPending n s)])
      ++ atIndex off (ICU_ACTIVE 0) 8 4 (fun w => [(ICU_ACTIVE.active w, wordBits w fun n => s.icu.active.getLsbD n)])
      ++ atIndex off (ICU_TGT_CFG 0) 0x20 5 (fun t => [(ICU_TGT_CFG.waiting t, (srcWaiting t s).toNat)])
      ++ atIndex off (ICU_CAUSE 0) 8 16 (fun g => [(ICU_CAUSE.cause g, causeWord g s)])

/-- EVT, PWR and THM (R463, R465, R490, R498). -/
def evtFields (off : Nat) (s : State) : List (Fld × Nat) :=
  if off = EVT_TELEM_CAP then
    [(EVT_TELEM_CAP.staged, s.evt.staged.length / 16), (EVT_TELEM_CAP.rate, rd EVT_TELEM_CAP.rate (rollWindows s))]
  else if off = CLK_ROOT_STAT then [(CLK_ROOT_STAT.lock_us, s.boot.lockUs.toNat)]
  else if off = THM_BAND then
    let bands := (List.range 52).map fun r => rd (RGN_STATE.band r) s
    let top := (List.range 53).find? fun n => rds (THM_SENSOR.eff n) s == junction s
    [(THM_BAND.die_band, bands.foldl max 0), (THM_BAND.region, top.getD 0), (THM_BAND.tj, (junction s % 65536).toNat),
     (THM_BAND.bands, bitsNat ((List.range 5).map fun b => bands.contains b))]
  else
    atIndex off (EVT_LOST 0) 8 16 fun c =>
      let l := lostRun c s
      [(EVT_LOST.run c, min l.run 65535), (EVT_LOST.first c, l.first % 2 ^ 24), (EVT_LOST.last c, l.last % 2 ^ 24)]

/-- Seconds of operation that warm-up has counted (R187, R194): in SERVICE and TIN outside PS4, since the last warm-up began. -/
def warmSeconds (s : State) : Nat := min ((s.pwr.operated - s.pwr.warmFrom) / second) 600

/-- Blocks in warm-up. -/
def warmBlocks (s : State) : Nat := (s.blocks.filter fun b => b.2.warm).length

/-- Factors or a band are staged for the next boundary (R178, R190, R192): a look-ahead set counts once its band is due. -/
def stagedFits (s : State) : Bool :=
  (s.blocks.any fun b => !b.2.newFits.isEmpty) || s.regions.any fun p => (p.2.bandDue.isSome && p.2.bandReady == p.2.bandDue) || p.2.bandStart

/-- MCV and CAL (R163, R164, R167, R190, R192, R194). -/
def mcvFields (off : Nat) (s : State) : List (Fld × Nat) :=
  if off = MCV_STAT then [(MCV_STAT.depth, s.mcv.fifo.length), (MCV_STAT.ref_settled, rd MCV_REFBUF.settled s)]
  else if off = MCV_REFBUF then
    [(MCV_REFBUF.since, if rdb MCV_REFBUF.en s then min ((s.now - s.mcv.enabledAt) / 600000) 65535 else 0)]
  else if off = MCV_FIFO then [(MCV_FIFO.entry, (s.mcv.fifo.headD 0).toNat)]
  else if off = CAL_STAT then
    [(CAL_STAT.busy, (s.blocks.any fun b => b.2.pass.isSome).toNat), (CAL_STAT.staged, (stagedFits s).toNat),
     (CAL_STAT.rewrites, min ((s.blocks.filter fun b => b.2.rewriting).length) 65535)]
  else if off = CAL_COMMIT then [(CAL_COMMIT.pending, (stagedFits s).toNat)]
  else if off = CAL_WARMUP then
    [(CAL_WARMUP.active, (decide (0 < warmBlocks s)).toNat), (CAL_WARMUP.warm_blocks, warmBlocks s), (CAL_WARMUP.elapsed, warmSeconds s)]
  else []

/-- The low 16 bits of a hash, 0 for one that is not burnt (R538). -/
def low16 (h : Option (BitVec 512)) : Nat := match h with | some v => v.toNat % 65536 | none => 0

/-- SEC (R535 to R538). -/
def secFields (off : Nat) (s : State) : List (Fld × Nat) :=
  if off = SEC_LCS then
    [(SEC_LCS.state, s.nv.lcs), (SEC_LCS.debug_entries, s.nv.debugEntries), (SEC_LCS.identity, s.nv.identity.isSome.toNat),
     (SEC_LCS.cfg_key, s.nv.cfgKeyHash.isSome.toNat), (SEC_LCS.tin_key, s.nv.tinKeyHash.isSome.toNat),
     (SEC_LCS.debug, (debugMode s).toNat), (SEC_LCS.nonce, s.sec.nonce.toNat)]
  else if off = SEC_TAMPER_STAT then [(SEC_TAMPER_STAT.pin_now, (!s.pins.tamperN).toNat)]
  else if off = SEC_TAMPER_CNT then
    [(SEC_TAMPER_CNT.count, s.nv.tamperCount.toNat), (SEC_TAMPER_CNT.last, s.nv.tamperLast)]
  else if off = SEC_WIPE_STAT then [(SEC_WIPE_STAT.wiping, s.sec.wiping.toNat)]
  else if off = SEC_KEYHASH then
    [(SEC_KEYHASH.fw, s.nv.fwKeyHash.toNat % 65536), (SEC_KEYHASH.cfg, low16 s.nv.cfgKeyHash),
     (SEC_KEYHASH.tin, low16 s.nv.tinKeyHash),
     (SEC_KEYHASH.identity, low16 (s.nv.identity.map fun k => sha512 (identityBytes k)))]
  else []

/-- Table `k` has a slot TAKEN or RUNNING (R271). -/
def tableLive (k : Nat) (s : State) : Bool := s.srv.requests.any fun r => keyTable r.key == k

/-- SRV and SMP (R271, R295). -/
def srvFields (off : Nat) (s : State) : List (Fld × Nat) :=
  if off = SRV_STAT then
    [(SRV_STAT.storm, s.srv.storm.toNat), (SRV_STAT.tbl_live, bitsNat ((List.range 4).map fun k => tableLive k s)),
     (SRV_STAT.running, (s.srv.requests.filter fun r => r.running).length),
     (SRV_STAT.taken, (s.srv.requests.filter fun r => !r.running).length), (SRV_STAT.live, liveCount false s)]
  else if off = SMP_STAT then
    [(SMP_STAT.paused, (s.srv.requests.filter fun r => r.running && decide (8 ≤ r.rejects)).length)]
  else []

/-- WLD and MEM (R227, R229, R232, R397, R399). -/
def wldFields (off : Nat) (s : State) : List (Fld × Nat) :=
  if off = WLD_PROG then [(WLD_PROG.active, programmingNow s)]
  else if off = WLD_STAT then [(WLD_STAT.phase, wldPhase s)]
  else if off = WLD_PARCEL_STAT then [(WLD_PARCEL_STAT.last, (isLast s && s.wld.chain.isSome).toNat)]
  else if off = MEM_REFRESH_MODE then
    [(MEM_REFRESH_MODE.mode, (List.range 12).foldl (fun a k => max a (rd (MEM_HBM_STAT.refresh k) s)) 0),
     (MEM_REFRESH_MODE.hold_ms, holdLeft s)]
  else if off = MEM_SECURE_BASE then [(MEM_SECURE_BASE.wiping, s.sec.wiping.toNat)]
  else atIndex off (WLD_GEN 0) 8 4 fun g => [(WLD_GEN.pins g, pins g s)]

/-- RGN_STATE.state (R333). In BOOT the register holds its POR value but for a retired region (R553). -/
def regionState (p : Nat) (s : State) : Nat :=
  let r := regionAt p s
  if rd (RGN_STATE.state p) s = 4 then 4
  else if rd GLB_STATE.state s = 0 then 0
  else if r.want.contains .reset then 3
  else if rdb CHK_RATTLE_STAT.running s && rd CHK_RATTLE_STAT.region s == p then 7
  else if 50 ≤ p then 6
  else if logRegion p s = 0x3F then 5
  else if r.stood.isSome then 2
  else if inService s && decide (rd PWR_STATE.state s < 2) then 1
  else 0

/-- RGN_STATE.logical (R16, R333). -/
def regionLogical (p : Nat) (s : State) : Nat :=
  if rd GLB_STATE.state s = 0 ∨ rd (RGN_STATE.state p) s = 4 then 0x3F else logRegion p s

/-- Spare blocks of a region that are free and usable (R14, R333). -/
def sparesLeft (p : Nat) (s : State) : Nat :=
  let r := regionAt p s
  (((List.range 32).map (1280 + ·)).filter fun b =>
    !(blockAt p b s).retired && !((r.blockMap ++ r.mapNext ++ r.spareFor).any fun m => m.2 == b)).length

/-- Spare columns in use in a physical block (R42, R335). -/
def spareColumns (p b : Nat) (s : State) : Nat :=
  (blockAt p b s).remap.foldl (fun a e => a + (decide (e.2.1 ≠ 31)).toNat + (decide (e.2.2 ≠ 31)).toNat) 0

/-- RGN_RECIPE_FLAG (R135). -/
def flagFields (p : Nat) (s : State) : List (Fld × Nat) :=
  let q := (regionAt p s).flags
  (RGN_RECIPE_FLAG.depth p, q.length) :: match q with
    | [] => []
    | f :: _ =>
      [(RGN_RECIPE_FLAG.layer p, f.layer), (RGN_RECIPE_FLAG.slot p, f.slot), (RGN_RECIPE_FLAG.zero p, f.zero.toNat),
       (RGN_RECIPE_FLAG.sat p, f.sat.toNat), (RGN_RECIPE_FLAG.valid p, 1), (RGN_RECIPE_FLAG.nowide p, f.nowide.toNat),
       (RGN_RECIPE_FLAG.step p, f.step)]

/-- The region windows (R48, R96, R135, R333, R335). -/
def rgnFields (off : Nat) (s : State) : List (Fld × Nat) :=
  atIndex off (RGN_STATE 0) 0x10000 52 (fun p =>
      [(RGN_STATE.state p, regionState p s), (RGN_STATE.logical p, regionLogical p s),
       (RGN_STATE.warm p, ((List.range 1312).any fun b => (blockAt p b s).warm).toNat), (RGN_STATE.spares_left p, sparesLeft p s)])
    ++ atIndex off (RGN_RESID_BASE 0) 0x10000 52 (fun p => [(RGN_RESID_BASE.addr p, residBase p s)])
    ++ atIndex off (RGN_RECIPE_FLAG 0) 0x10000 52 (fun p => flagFields p s)
    ++ atIndex off (RGN_SPARE_MAP 0) 0x10000 52 (fun p =>
      let b := rd (RGN_SPARE_MAP.block p) s
      let n := physBlock p b s
      [(RGN_SPARE_MAP.phys p, n), (RGN_SPARE_MAP.remapped p, (decide (n ≠ b)).toNat), (RGN_SPARE_MAP.columns p, spareColumns p n s)])
    ++ atIndex off (RGN_DEBUG_CTL 0) 0x10000 52 (fun p => [(RGN_DEBUG_CTL.avail p, (debugMode s).toNat)])

/-- The fields of the register at `off` that follow the state rather than being stored. -/
def derivedFields (off : Nat) (s : State) : List (Fld × Nat) :=
  if off < 0x200000 then glbFields off s
  else if off < 0x500000 then evtFields off s
  else if off < 0x700000 then mcvFields off s
  else if off < 0x800000 then secFields off s
  else if off < 0xB00000 then srvFields off s
  else if off < 0xF00000 then wldFields off s
  else if off < 0x1000000 then []
  else rgnFields off s

/-- What an 8-byte read of the register at `off` returns (R540, R541); mailbox data read zero while the mailbox is busy (R421). -/
def readReg (off : Nat) (s : State) : Word :=
  if (rowOf off).isNone then 0
  else if MBX_DATA 0 ≤ off ∧ off ≤ MBX_DATA 511 ∧ rdb MBX_STAT.busy s then 0
  else (derivedFields off s).foldl (fun v e => fput e.1 e.2 v) (s.reg off)

/-! ## Writes -/

/-- The mask of the fields of a register with an access code. -/
def codeMask (r : RegRow) (acc : Access) : Word :=
  (r.fields.filter fun f => f.acc == acc).foldl (fun m f => m ||| fmask ⟨r.base, f.lo, f.width⟩) 0

/-- The access codes of R7 and the lock of R544 over one register. -/
def plainValue (r : RegRow) (w : Write) (locked : Bool) (old : Word) : Word :=
  let take := (codeMask r .rw ||| (if locked then 0 else codeMask r .rwl)) &&& wmask w
  ((old &&& ~~~take) ||| (w.data &&& take)) &&& ~~~(wdata w &&& codeMask r .w1c)

/-- The write is one to a locked field (R544). -/
def hitsLocked (r : RegRow) (w : Write) (locked : Bool) : Bool := locked && wmask w &&& codeMask r .rwl != 0

/-- A write with no effect beyond the access codes of its fields. -/
def plainWrite (off : Nat) (w : Write) (s : State) : State :=
  match rowOf off with
  | none => logIgnored w.who off w.data.toNat s
  | some r =>
    let locked := rdb BOOT_STAT.lock s
    let old := s.reg off
    let s' := setReg off (plainValue r w locked old) s
    if hitsLocked r w locked then logIgnored w.who off w.data.toNat s' else s'

/-- A write taken as a whole only while `ok` holds, else ignored and logged (R545). -/
def writeWhile (ok : Bool) (off : Nat) (w : Write) (s : State) : State :=
  if ok then plainWrite off w s else logIgnored w.who off w.data.toNat s

/-- GLB_CMD written (R550). -/
def glbCmdWrite (w : Write) (s : State) : State :=
  let cmd := fget GLB_CMD.cmd (wdata w)
  let k := if cmd = 1 then warmResetCommand else if cmd = 2 then enterCommand else if cmd = 3 then leaveCommand else haltCommand
  glbCommand w.who cmd (fget GLB_CMD.key (wdata w)) k s

/-- WLD_CMD written (R224): commands other than 1 to 5 are ignored and logged. -/
def wldCmdWrite (w : Write) (s : State) : State :=
  let d := wdata w
  let v := w.data.toNat
  let slot := fget WLD_CMD.slot d
  let deadline := fget WLD_CMD.deadline d
  wldCommand w.who v (fun s =>
    match fget WLD_CMD.cmd d with
    | 1 => loadCommand w.who slot (fget WLD_CMD.activate d != 0) (fget WLD_CMD.disp_en d != 0) (fget WLD_CMD.disp_slot d) deadline v s
    | 2 => retireCommand w.who slot deadline v s
    | 3 => unloadCommand w.who slot v s
    | 4 => abortCommand w.who slot v s
    | 5 => reloadCommand w.who slot v s
    | _ => logIgnored w.who WLD_CMD v s) s

/-- MCV_SCAN_i written (R149, R166): the host's writes to firmware entries are ignored and logged; a scan that found nothing to
convert starts when an entry gives it something. -/
def mcvScanWrite (i : Nat) (w : Write) (s : State) : State :=
  guarded (MCV_SCAN i) w s fun s =>
    if i < 24 ∧ w.who = .host then logIgnored w.who (MCV_SCAN i) w.data.toNat s
    else
      let due := hostDue s == some i && (match s.mcv.conv with | some (e, _) => decide (e < 24) | none => false)
      let s := plainWrite (MCV_SCAN i) w s
      kickScan (if 24 ≤ i && !entryRuns (s.reg (MCV_SCAN i)) then disableHost i due s else s)

/-- MCV_STAT written (R163): clearing overflow clears lost. -/
def mcvStatWrite (w : Write) (s : State) : State :=
  guarded MCV_STAT w s fun s =>
    let s := plainWrite MCV_STAT w s
    if wone MCV_STAT.overflow w then wr MCV_STAT.lost 0 s else s

/-- BOOT_RECOV_CTL and BOOT_RECOV_ADDR written (R533, R545); a fetch is the row RECOV_FETCH, which brings its image. -/
def recovFieldsWrite (off : Nat) (w : Write) (s : State) : State :=
  guarded off w s fun s => writeWhile (rd GLB_STATE.state s == 4) off w s

/-- SRV_CTL written (R266, R488): it wakes the part. -/
def srvCtlWrite (w : Write) (s : State) : State := guarded SRV_CTL w s fun s => plainWrite SRV_CTL w (wakePart 4 s)

/-- PWR_FLOOR written (R488, R495): a value shallower than the present state wakes the part. -/
def pwrFloorWrite (w : Write) (s : State) : State :=
  guarded PWR_FLOOR w s fun s =>
    let s := plainWrite PWR_FLOOR w s
    if min (rd PWR_FLOOR.max_state s) 4 < rd PWR_STATE.state s then wakePart 5 s else s

/-- SRV_TBL_BASE_k and SRV_TBL_SIZE_k written (R267). -/
def tableWrite (k off : Nat) (w : Write) (s : State) : State :=
  guarded off w s fun s => writeWhile (!(rd SRV_CTL.tbl_en s).testBit k && !tableLive k s) off w s

/-- SRV_TOYBOX_BASE and SRV_TOYBOX_SIZE written (R272). -/
def toyboxWrite (off : Nat) (w : Write) (s : State) : State :=
  guarded off w s fun s => writeWhile (rd SRV_TOYBOX_SIZE.used s == 0) off w s

/-- A request that names a mask table is TAKEN or RUNNING (R293). -/
def masksInUse (s : State) : Bool := s.srv.requests.any fun r => r.op == 0 && r.mask != 0xFFFF

/-- SMP_CTL written (R293): the mask fields hold while mask tables are in use. -/
def smpCtlWrite (w : Write) (s : State) : State :=
  guarded SMP_CTL w s fun s =>
    let fs := [SMP_CTL.mask_en, SMP_CTL.mask_off, SMP_CTL.mask_count]
    if masksInUse s then
      let s := wtake SMP_CTL.rep_window w s
      if fs.any (wcovers w) then logIgnored w.who SMP_CTL w.data.toNat s else s
    else plainWrite SMP_CTL w s

/-- EVT_BASE and EVT_SIZE written (R461). -/
def evtRingWrite (off : Nat) (w : Write) (s : State) : State :=
  guarded off w s fun s => writeWhile (!rdb EVT_CFG.en s) off w s

/-- MEM_REFRESH_MODE written (R385, R397): a higher floor raises the modes. -/
def refreshModeWrite (w : Write) (s : State) : State :=
  guarded MEM_REFRESH_MODE w s fun s => refreshRise (plainWrite MEM_REFRESH_MODE w s)

/-- Registers of the region windows. -/
def regionWrite (off : Nat) (w : Write) (s : State) : State :=
  let p := (off - 0x1000000) / 0x10000
  match (off - 0x1000000) % 0x10000 with
  | 0x008 => rgnCtlWrite p w s
  | 0x030 => recipeFlagWrite p w s
  | 0x100 => debugCtlWrite p w s
  | _ => guarded off w s (plainWrite off w)

/-- Registers of the ICU that are arrays. -/
def icuWrite (off : Nat) (w : Write) (s : State) : State :=
  match regIndex off (ICU_SRC_CFG 0) 8 256, regIndex off (ICU_PEND 0) 8 4, regIndex off (ICU_CLRPEND 0) 8 4,
      regIndex off (ICU_TGT_CFG 0) 0x20 5, regIndex off (ICU_COMPLETE 0) 0x20 5 with
  | some n, _, _, _, _ => srcCfgWrite n w s
  | _, some n, _, _, _ => pendSetWrite n w s
  | _, _, some n, _, _ => clearPendWrite n w s
  | _, _, _, some t, _ => tgtCfgWrite t w s
  | _, _, _, _, some t => completeWrite t w s
  | _, _, _, _, _ => guarded off w s (plainWrite off w)

/-- Registers of SRV and MCV that are arrays; any other register follows its access codes. -/
def arrayWrite (off : Nat) (w : Write) (s : State) : State :=
  match regIndex off (SRV_TBL_BASE 0) 0x10 4, regIndex off (SRV_TBL_SIZE 0) 0x10 4, regIndex off (MCV_SCAN 0) 8 32,
      regIndex off (MBX_DATA 0) 8 512 with
  | some k, _, _, _ => tableWrite k off w s
  | _, some k, _, _ => tableWrite k off w s
  | _, _, some i, _ => mcvScanWrite i w s
  | _, _, _, some n => mbxDataWrite n w s
  | _, _, _, _ => guarded off w s (plainWrite off w)

/-- A write to the register at `off` (R541): what its chapter says, else what its access codes say. -/
def regWrite (off : Nat) (w : Write) (s : State) : State :=
  if off = GLB_CMD then glbCmdWrite w s
  else if off = EVT_CFG then evtCfgWrite w s
  else if off = EVT_TAIL then evtTailWrite w s
  else if off = EVT_BASE ∨ off = EVT_SIZE then evtRingWrite off w s
  else if off = PWR_FLOOR then pwrFloorWrite w s
  else if off = MCV_CTL then mcvCtlWrite w s
  else if off = MCV_CMD then mcvCmdWrite w s
  else if off = MCV_STAT then mcvStatWrite w s
  else if off = MCV_REFBUF then refbufWrite w s
  else if off = CAL_CTL then calCtlWrite w s
  else if off = SEC_LCS_REQ then lcsReqWrite w s
  else if off = SEC_ATTEST_CMD then attestCmdWrite w s
  else if off = BOOT_RECOV_CTL ∨ off = BOOT_RECOV_ADDR then recovFieldsWrite off w s
  else if off = SRV_CTL then srvCtlWrite w s
  else if off = SRV_TOYBOX_BASE ∨ off = SRV_TOYBOX_SIZE then toyboxWrite off w s
  else if off = SMP_CTL then smpCtlWrite w s
  else if off = WLD_CMD then wldCmdWrite w s
  else if off = WLD_ACTIVE then wldActiveWrite w s
  else if off = WLD_COSTUME_CTL then costumeWrite w s
  else if off = PAIR_CTL then pairCtlWrite w none s
  else if off = MEM_REFRESH_MODE then refreshModeWrite w s
  else if off = MBX_CMD then mbxCmdWrite w s
  else if 0x1000000 ≤ off then regionWrite off w s
  else if ICU_SRC_CFG 0 ≤ off ∧ off < EVT_CFG then icuWrite off w s
  else arrayWrite off w s

/-- A poisoned CXL.io write to BAR0 (R419): discarded and logged, and an uncorrectable status is set. -/
def poisonedWrite (s : State) : State :=
  log 13 3 0x00D1 0 (leBytes 4 0x1000) { s with cxl := { s.cxl with uncorr := true } }

/-- The component register block of CXL (R405): its registers follow CXL 2.0; HDM decoder commits have a row of their own. -/
def componentBlock (off : Nat) : Bool := decide (0x3000000 ≤ off) && decide (off < 0x3010000)

/-- REGISTER_WRITE (R541): an offset that holds no register is ignored and logged (R540). -/
def execRegisterWrite (offset : BitVec 26) (w : Write) (poison : Bool) (s : State) : Host.Outcome State Fault Refusal :=
  .next <|
    viaBar w.who s fun s =>
      let off := offset.toNat
      if poison then poisonedWrite s
      else if componentBlock off then s
      else if (rowOf off).isNone then logIgnored w.who off w.data.toNat s
      else regWrite off w s

/-! ## SMBus (R577) -/

/-- The register an SMBus command code names. -/
def smbusReg (code : Nat) : Option Nat :=
  match code with
  | 0x00 => some GLB_ID
  | 0x01 => some GLB_STATE
  | 0x02 => some GLB_SUMMARY
  | 0x03 => some THM_BAND
  | 0x04 => some THM_STAT
  | _ => if 0x10 ≤ code ∧ code ≤ 0x44 then some (THM_SENSOR (code - 0x10)) else none

/-- SMBUS_BLOCK_READ (R577): answered whenever POR_N is high; other codes are refused with a NACK. -/
def execSmbusBlockRead (code : BitVec 8) (s : State) : Host.Outcome State Fault Refusal :=
  .next <|
    match (if s.pins.porN then smbusReg code.toNat else none) with
    | some off => answer (.word (readReg off s)) s
    | none => answer .nack s

/-! ## Fixed identification (R400, R404, R576, R577) -/

/-- Vendor ID, device ID and class code of configuration space (R400). -/
def pciVendor : Nat := 0x1E9C
def pciDevice : Nat := 0x0650
def pciClass : Nat := 0x120000

/-- HDM_Count, the size of Range 1 and that of Range 2 in the CXL Device DVSEC (R404). -/
def dvsecRanges : Nat × Nat × Nat := (2, hdmSize, 0)

/-- JTAG IDCODE (R576): version, part, manufacturer with its continuation count, 1. -/
def jtagIdcode : BitVec 32 := BitVec.ofNat 32 (0x1 * 2 ^ 28 + 0x0650 * 2 ^ 12 + 12 * 2 ^ 8 + 0x4B * 2 + 1)

/-- The SMBus address, which the Alert Response Address returns too (R577). -/
def smbusAddress : Nat := 0x4E

/-! ## Output pins (R440, R483, R548, R568, R577) -/

/-- THERM_TRIP_N is low: the latch on VDD_IO (R483). -/
def tripLow (s : State) : Bool := s.pins.tripLatch

/-- SMB_ALERT_N is low while DEGR_N, FAULT_N or THERM_TRIP_N is (R577); released as R568 says. -/
def alertLow (s : State) : Bool := !outputsReleased s && (degrLow s || faultLow s || tripLow s)

end Sys2Proof.Machine
end

