-- ==== Sys2Proof/Machine/Dispatch.lean ====
section
/-! DEFINITION. One arm per command. -/

namespace Sys2Proof.Machine

/-- The effect of a command on everything but the queue. -/
def exec (i : Instr) (s : State) : Host.Outcome State Fault Refusal :=
  match i with
  | .stepBoundary inp => Sys2Proof.Machine.execStepBoundary inp s
  | .commit => Sys2Proof.Machine.execCommit s
  | .mvmCommand c => Sys2Proof.Machine.execMvmCommand c s
  | .calibrationSlot region block => Sys2Proof.Machine.execCalibrationSlot region block s
  | .blockMessage region block parityError => Sys2Proof.Machine.execBlockMessage region block parityError s
  | .debugArm region w => Sys2Proof.Machine.execDebugArm region w s
  | .debugCancel region w => Sys2Proof.Machine.execDebugCancel region w s
  | .debugDataRead who region half => Sys2Proof.Machine.execDebugDataRead who region half s
  | .tileClear region tile ctx shape bp kind layer gen => Sys2Proof.Machine.execTileClear region tile ctx shape bp kind layer gen s
  | .tileRestore region tile ctx image => Sys2Proof.Machine.execTileRestore region tile ctx image s
  | .tileSave region tile ctx image => Sys2Proof.Machine.execTileSave region tile ctx image s
  | .tileRelease region tile ctx => Sys2Proof.Machine.execTileRelease region tile ctx s
  | .tileReadOut region tile ctx format scales tensor group => Sys2Proof.Machine.execTileReadOut region tile ctx format scales tensor group s
  | .tileAdd region tile ctx srcRegion srcTile => Sys2Proof.Machine.execTileAdd region tile ctx srcRegion srcTile s
  | .reduceOperation region tile ctx srcRegion srcTile => Sys2Proof.Machine.execReduceOperation region tile ctx srcRegion srcTile s
  | .elementWrite region tile ctx elems => Sys2Proof.Machine.execElementWrite region tile ctx elems s
  | .costumeAddition region tile ctx version tensor col row0 chan0 channels x => Sys2Proof.Machine.execCostumeAddition region tile ctx version tensor col row0 chan0 channels x s
  | .accumulateDrained region tile lane => Sys2Proof.Machine.execAccumulateDrained region tile lane s
  | .sequencedModeEnd region gen layer => Sys2Proof.Machine.execSequencedModeEnd region gen layer s
  | .recipeWindowEval region => Sys2Proof.Machine.execRecipeWindowEval region s
  | .recipeFlagPop region w => Sys2Proof.Machine.execRecipeFlagPop region w s
  | .recipeRevert slot layer => Sys2Proof.Machine.execRecipeRevert slot layer s
  | .zeroCntRead who region half => Sys2Proof.Machine.execZeroCntRead who region half s
  | .stageReturn => Sys2Proof.Machine.execStageReturn s
  | .conversionResult raw outOfRange => Sys2Proof.Machine.execConversionResult raw outOfRange s
  | .selfCalibration w => Sys2Proof.Machine.execSelfCalibration w s
  | .selfCalComplete zero full ground => Sys2Proof.Machine.execSelfCalComplete zero full ground s
  | .scanRestart w => Sys2Proof.Machine.execScanRestart w s
  | .refbufEnable w => Sys2Proof.Machine.execRefbufEnable w s
  | .refbufSettled => Sys2Proof.Machine.execRefbufSettled s
  | .fifoFlush w => Sys2Proof.Machine.execFifoFlush w s
  | .fifoRead who half => Sys2Proof.Machine.execFifoRead who half s
  | .referenceCheck => Sys2Proof.Machine.execReferenceCheck s
  | .recalPassStart region block => Sys2Proof.Machine.execRecalPassStart region block s
  | .recalPassComplete region block => Sys2Proof.Machine.execRecalPassComplete region block s
  | .passRequest w => Sys2Proof.Machine.execPassRequest w s
  | .deepPassComplete region => Sys2Proof.Machine.execDeepPassComplete region s
  | .driftAgeLimit region block array => Sys2Proof.Machine.execDriftAgeLimit region block array s
  | .rewriteComplete region block => Sys2Proof.Machine.execRewriteComplete region block s
  | .sweepComplete region block ms => Sys2Proof.Machine.execSweepComplete region block ms s
  | .warmupEnd region block => Sys2Proof.Machine.execWarmupEnd region block s
  | .abacusVectorSet region block => Sys2Proof.Machine.execAbacusVectorSet region block s
  | .shadowComparison region engineDev => Sys2Proof.Machine.execShadowComparison region engineDev s
  | .suspectWindowEnd region unit => Sys2Proof.Machine.execSuspectWindowEnd region unit s
  | .engineTestEnd region passed => Sys2Proof.Machine.execEngineTestEnd region passed s
  | .rattleTestStart => Sys2Proof.Machine.execRattleTestStart s
  | .rattleTestEnd finding => Sys2Proof.Machine.execRattleTestEnd finding s
  | .rattleRequest region w => Sys2Proof.Machine.execRattleRequest region w s
  | .regionResetRequest region w => Sys2Proof.Machine.execRegionResetRequest region w s
  | .sramEccError region uncorrectable => Sys2Proof.Machine.execSramEccError region uncorrectable s
  | .regionResetComplete region => Sys2Proof.Machine.execRegionResetComplete region s
  | .spareQualified spare passed failing => Sys2Proof.Machine.execSpareQualified spare passed failing s
  | .configScrub region upsets => Sys2Proof.Machine.execConfigScrub region upsets s
  | .provisionalResult p => Sys2Proof.Machine.execProvisionalResult p s
  | .commitNotice step => Sys2Proof.Machine.execCommitNotice step s
  | .retractionToken step => Sys2Proof.Machine.execRetractionToken step s
  | .load who slot activate dispEn dispSlot deadline => Sys2Proof.Machine.execLoad who slot activate dispEn dispSlot deadline s
  | .retire who slot deadline => Sys2Proof.Machine.execRetire who slot deadline s
  | .unload who slot => Sys2Proof.Machine.execUnload who slot s
  | .abort who slot => Sys2Proof.Machine.execAbort who slot s
  | .reload who slot => Sys2Proof.Machine.execReload who slot s
  | .manifestFetched header manifest pageBytes => Sys2Proof.Machine.execManifestFetched header manifest pageBytes s
  | .chunkFetched index bytes => Sys2Proof.Machine.execChunkFetched index bytes s
  | .blockProgramStart region block => Sys2Proof.Machine.execBlockProgramStart region block s
  | .rowProgrammed region block array row excluded => Sys2Proof.Machine.execRowProgrammed region block array row excluded s
  | .blockProgramComplete region block => Sys2Proof.Machine.execBlockProgramComplete region block s
  | .wldActiveWrite w => Sys2Proof.Machine.execWldActiveWrite w s
  | .drainDeadline slot => Sys2Proof.Machine.execDrainDeadline slot s
  | .parcelManifestFrame frame pageBytes => Sys2Proof.Machine.execParcelManifestFrame frame pageBytes s
  | .parcelChunkFrame frame => Sys2Proof.Machine.execParcelChunkFrame frame s
  | .parcelReRequest frame => Sys2Proof.Machine.execParcelReRequest frame s
  | .parcelCompletion frame lastHop => Sys2Proof.Machine.execParcelCompletion frame lastHop s
  | .costumeInstall w => Sys2Proof.Machine.execCostumeInstall w s
  | .costumeInstallComplete => Sys2Proof.Machine.execCostumeInstallComplete s
  | .costumeRemove w => Sys2Proof.Machine.execCostumeRemove w s
  | .scan => Sys2Proof.Machine.execScan s
  | .opRun table slot => Sys2Proof.Machine.execOpRun table slot s
  | .opPause table slot => Sys2Proof.Machine.execOpPause table slot s
  | .opRelease table slot => Sys2Proof.Machine.execOpRelease table slot s
  | .toyboxCopyComplete seq => Sys2Proof.Machine.execToyboxCopyComplete seq s
  | .toyboxFetchComplete seq => Sys2Proof.Machine.execToyboxFetchComplete seq s
  | .ttlExpiry seq => Sys2Proof.Machine.execTtlExpiry seq s
  | .specPauseEnd table slot => Sys2Proof.Machine.execSpecPauseEnd table slot s
  | .linkTrained port lanes partner => Sys2Proof.Machine.execLinkTrained port lanes partner s
  | .laneRetrain port trains => Sys2Proof.Machine.execLaneRetrain port trains s
  | .flitRetry port uncorrectable => Sys2Proof.Machine.execFlitRetry port uncorrectable s
  | .pairLinkTimeout => Sys2Proof.Machine.execPairLinkTimeout s
  | .stepPlan plan => Sys2Proof.Machine.execStepPlan plan s
  | .commitHash step hash report => Sys2Proof.Machine.execCommitHash step hash report s
  | .recordList step records evidence => Sys2Proof.Machine.execRecordList step records evidence s
  | .leavingNotice => Sys2Proof.Machine.execLeavingNotice s
  | .pairLeave w => Sys2Proof.Machine.execPairLeave w s
  | .pairRejoin w partner => Sys2Proof.Machine.execPairRejoin w partner s
  | .rejoinCopyComplete received => Sys2Proof.Machine.execRejoinCopyComplete received s
  | .enterTinSoldier who key => Sys2Proof.Machine.execEnterTinSoldier who key s
  | .leaveTinSoldier who key => Sys2Proof.Machine.execLeaveTinSoldier who key s
  | .tempCauseClear => Sys2Proof.Machine.execTempCauseClear s
  | .tinMasterCopyComplete => Sys2Proof.Machine.execTinMasterCopyComplete s
  | .halt who key => Sys2Proof.Machine.execHalt who key s
  | .warmResetCommand who key => Sys2Proof.Machine.execWarmResetCommand who key s
  | .hbmTraining stack rate => Sys2Proof.Machine.execHbmTraining stack rate s
  | .hbmCorrected stack line row repairLeft inPool => Sys2Proof.Machine.execHbmCorrected stack line row repairLeft inPool s
  | .hbmUncorrectable hit => Sys2Proof.Machine.execHbmUncorrectable hit s
  | .patrolScrub stack line row corrected repairLeft inPool => Sys2Proof.Machine.execPatrolScrub stack line row corrected repairLeft inPool s
  | .refreshFall stack => Sys2Proof.Machine.execRefreshFall stack s
  | .scratchWrite who addr data poison => Sys2Proof.Machine.execScratchWrite who addr data poison s
  | .bitSetAliasWrite who addr data => Sys2Proof.Machine.execBitSetAliasWrite who addr data s
  | .bitClearAliasWrite who addr data => Sys2Proof.Machine.execBitClearAliasWrite who addr data s
  | .scratchEccError word double storm => Sys2Proof.Machine.execScratchEccError word double storm s
  | .scratchScrub single double storm => Sys2Proof.Machine.execScratchScrub single double storm s
  | .wipeComplete tenNs => Sys2Proof.Machine.execWipeComplete tenNs s
  | .cxlLinkTrained width speed => Sys2Proof.Machine.execCxlLinkTrained width speed s
  | .linkDown => Sys2Proof.Machine.execLinkDown s
  | .hotReset => Sys2Proof.Machine.execHotReset s
  | .perstNAssert => Sys2Proof.Machine.execPerstNAssert s
  | .busMasterEnableChange c => Sys2Proof.Machine.execBusMasterEnableChange c s
  | .loadPauseTimeout => Sys2Proof.Machine.execLoadPauseTimeout s
  | .cxlMemAccess a => Sys2Proof.Machine.execCxlMemAccess a s
  | .hdmDecoderCommit decoder base size ways skip lock => Sys2Proof.Machine.execHdmDecoderCommit decoder base size ways skip lock s
  | .barAccessAbort bar2 offset size write who => Sys2Proof.Machine.execBarAccessAbort bar2 offset size write who s
  | .getInfo who inLen => Sys2Proof.Machine.execGetInfo who inLen s
  | .recipeSet who inLen => Sys2Proof.Machine.execRecipeSet who inLen s
  | .nvmUpdateBegin who inLen => Sys2Proof.Machine.execNvmUpdateBegin who inLen s
  | .nvmUpdateData who inLen nvmError => Sys2Proof.Machine.execNvmUpdateData who inLen nvmError s
  | .nvmUpdateEnd who inLen nvmError pageBytes => Sys2Proof.Machine.execNvmUpdateEnd who inLen nvmError pageBytes s
  | .recovImageBegin who inLen => Sys2Proof.Machine.execRecovImageBegin who inLen s
  | .recovImageData who inLen => Sys2Proof.Machine.execRecovImageData who inLen s
  | .recovImageRun who inLen => Sys2Proof.Machine.execRecovImageRun who inLen s
  | .recovFetch w image => Sys2Proof.Machine.execRecovFetch w image s
  | .icuClaim who target => Sys2Proof.Machine.execIcuClaim who target s
  | .icuComplete who target half data => Sys2Proof.Machine.execIcuComplete who target half data s
  | .icuPendSet who word half data => Sys2Proof.Machine.execIcuPendSet who word half data s
  | .icuClearPending who word half data => Sys2Proof.Machine.execIcuClearPending who word half data s
  | .icuSrcCfgWrite n w => Sys2Proof.Machine.execIcuSrcCfgWrite n w s
  | .sourceInputChange n => Sys2Proof.Machine.execSourceInputChange n s
  | .eventReport r => Sys2Proof.Machine.execEventReport r s
  | .eventDrain writeFails => Sys2Proof.Machine.execEventDrain writeFails s
  | .ringStart w => Sys2Proof.Machine.execRingStart w s
  | .evtTailWrite w => Sys2Proof.Machine.execEvtTailWrite w s
  | .pllLockLoss => Sys2Proof.Machine.execPllLockLoss s
  | .pllRelock micros => Sys2Proof.Machine.execPllRelock micros s
  | .relockTimeout => Sys2Proof.Machine.execRelockTimeout s
  | .throttleStepUp => Sys2Proof.Machine.execThrottleStepUp s
  | .throttleStepDown => Sys2Proof.Machine.execThrottleStepDown s
  | .sensorStale n => Sys2Proof.Machine.execSensorStale n s
  | .sensorSuspect n => Sys2Proof.Machine.execSensorSuspect n s
  | .sensorCleared n => Sys2Proof.Machine.execSensorCleared n s
  | .thermalTrip n => Sys2Proof.Machine.execThermalTrip n s
  | .ps4WakeComparator n => Sys2Proof.Machine.execPs4WakeComparator n s
  | .scheduledWake => Sys2Proof.Machine.execScheduledWake s
  | .wakeEvent cause => Sys2Proof.Machine.execWakeEvent cause s
  | .dueTime ctx => Sys2Proof.Machine.execDueTime ctx s
  | .dueWindowClose => Sys2Proof.Machine.execDueWindowClose s
  | .supplyOutOfRange rail => Sys2Proof.Machine.execSupplyOutOfRange rail s
  | .supplyInRange => Sys2Proof.Machine.execSupplyInRange s
  | .por => Sys2Proof.Machine.execPor s
  | .warmReset => Sys2Proof.Machine.execWarmReset s
  | .calEnd => Sys2Proof.Machine.execCalEnd s
  | .lcsRequest w => Sys2Proof.Machine.execLcsRequest w s
  | .lcsCommit fuseReadsBack => Sys2Proof.Machine.execLcsCommit fuseReadsBack s
  | .tamper source => Sys2Proof.Machine.execTamper source s
  | .meshCheck passed => Sys2Proof.Machine.execMeshCheck passed s
  | .attestationRequest w => Sys2Proof.Machine.execAttestationRequest w s
  | .attestReportWritten signature => Sys2Proof.Machine.execAttestReportWritten signature s
  | .smbusBlockRead code => Sys2Proof.Machine.execSmbusBlockRead code s
  | .registerWrite offset w poison => Sys2Proof.Machine.execRegisterWrite offset w poison s
  | .porNAssert => Sys2Proof.Machine.execPorNAssert s
  | .warmResetRelease => Sys2Proof.Machine.execWarmResetRelease s
  | .watchdogExpiry pair => Sys2Proof.Machine.execWatchdogExpiry pair s
  | .chunkReverified slot index => Sys2Proof.Machine.execChunkReverified slot index s
  | .stackTemperatureCrossing stack celsius => Sys2Proof.Machine.execStackTemperatureCrossing stack celsius s

end Sys2Proof.Machine
end

