-- ==== Sys2Proof/Machine/Step.lean ====
section
/-! DEFINITION. A step: the command at the front of the queue, or, with an empty queue, one cycle of the management clock. -/

namespace Sys2Proof.Machine

/-- The queue replaced. -/
def State.withPending (s : State) (l : List Instr) : State := { s with pending := l }

/-- One step: `exec` of the front command on the state with the rest of the queue; on an empty queue a cycle of 600 MHz passes. -/
def step (s : State) : Host.Outcome State Fault Refusal :=
  match s.pending with
  | [] => .next (advance 1 s)
  | c :: rest => exec c (s.withPending rest)

/-- The command that a word spells put at the front of the queue; no word spells one, so the state stays as it is. -/
def State.withFetchWord (s : State) (nbits w : Nat) : State :=
  match decodeTableWord nbits w with
  | some c => s.withPending (c :: s.pending)
  | none => s

end Sys2Proof.Machine
end

