-- ==== Sys2Proof/Safety.lean ====
section
/-! DEFINITION. The terms the statements use: sparse data in its canonical form, life-cycle transitions that exist, and what a
command leaves unchanged. -/

namespace Sys2Proof.Machine

/-- A memory is in its canonical form: addresses strictly rising, no listed byte that reads as an unlisted one does. -/
abbrev Memory.wf (m : List Host.Cell) : Prop := SparseWf (fun _ => (0 : Byte)) m

/-- A poison map is in its canonical form: it lists only what is poisoned. -/
abbrev Poison.wf (m : List (Nat × Bool)) : Prop := SparseWf (fun _ => false) m

/-- The register file, the three memories and the poison maps are in their canonical forms. -/
structure State.Canonical (s : State) : Prop where
  regs : SparseWf regPor s.regs
  scr : Memory.wf s.scr
  hdm : Memory.wf s.hdm
  host : Memory.wf s.host
  scrPoison : Poison.wf s.scrPoison
  hdmPoison : Poison.wf s.hdmPoison

/-- The life-cycle transitions that exist (R522): 0 BLANK, 1 PROVISIONED, 2 DEBUG, 3 RETURNED, 4 SCRAPPED. -/
def lcsMoves : List (Nat × Nat) := [(0, 1), (0, 2), (1, 2), (2, 1), (1, 3), (2, 3), (0, 4), (1, 4), (2, 4), (3, 4)]

/-- A life-cycle transition in progress is one that exists. -/
def State.LawfulTransition (s : State) : Prop := ∀ target, s.sec.transition = some target → (s.nv.lcs, target) ∈ lcsMoves

/-- The cycles that a step boundary takes when it is passed: the duration of the run that ends there (R249, R269); none where no step
runs. -/
def runTime (inp : StepInput) (s : State) : Nat := if s.srv.running.isSome then 600 * inp.duration else 0

/-- Nothing but a step in flight: no request, no sequence, no block or region with state of its own, no generation being loaded or
draining, no pair, no mode change and no Rattle test due. What a step boundary does for those is then nothing. -/
structure State.Bare (s : State) : Prop where
  requests : s.srv.requests = []
  seqs : s.srv.seqs = []
  voids : s.srv.voids = []
  recipes : s.srv.stagedRecipes = []
  regions : s.regions = []
  blocks : s.blocks = []
  weights : s.wld = Weights.init
  draining : ∀ g, g < 4 → rd (WLD_GEN.state g) s ≠ 4
  alone : rd PAIR_STAT.state s ≠ 3
  joining : s.pair.joining = false
  settling : s.pair.settling = none
  leaving : s.tin.leaving = false
  rattle : rd CHK_RATTLE_STAT.deferred s = 0

/-- The three memories and the poison maps read the same. -/
def State.SameMemory (s t : State) : Prop :=
  t.scr = s.scr ∧ t.hdm = s.hdm ∧ t.host = s.host ∧ t.scrPoison = s.scrPoison ∧ t.hdmPoison = s.hdmPoison

/-- Every stored register but those listed reads the same. -/
def State.SameRegs (but : List Nat) (s t : State) : Prop := ∀ off, off ∉ but → t.reg off = s.reg off

/-- The byte of scratch at `a` after a write of `data` at `start` through a view. -/
def afterView (v : View) (start : Nat) (data : List (Option Byte)) (s : State) (a : Nat) : Byte :=
  if start ≤ a then
    match data[a - start]? with
    | some (some b) => viewByte v (byteAt s.scr a) b
    | _ => byteAt s.scr a
  else byteAt s.scr a

/-- A write of this master reaches the registers: it may write them (R542), and D3hot does not keep it out (R403). -/
abbrev reaches (who : Master) (s : State) : Prop := mayWrite who = true ∧ barClosed who s = false

/-- The mailbox is ready for the host, which D3hot does not keep out, the part is awake, and no command runs. -/
def mbxFree (s : State) : Prop :=
  rd MBX_STAT.ready s = 1 ∧ rd MBX_STAT.busy s = 0 ∧ rd PWR_STATE.state s = 0 ∧ s.cxl.d3hot = false

/-- The command has completed with a status and an output of `n` bytes; the rest of the buffer reads zero. -/
def mbxDone (s t : State) (status n : Nat) : Prop :=
  rd MBX_STAT.busy t = 0 ∧ rd MBX_STAT.done t = 1 ∧ rd MBX_STAT.status t = status ∧ rd MBX_STAT.out_len t = n
    ∧ rd MBX_STAT.count t = (rd MBX_STAT.count s + 1) % 65536 ∧ ∀ i, n ≤ i → i < 4096 → mbxByte i t = 0

/-- Every register outside the mailbox and `but` reads the same. -/
def sameOutsideMbx (but : List Nat) (s t : State) : Prop :=
  ∀ off, (off < MBX_DATA 0 ∨ MBX_DATA 511 < off) → off ∉ MBX_CMD :: MBX_STAT :: but → t.reg off = s.reg off

/-- The record of every block but one reads the same. -/
def otherBlocksSame (region block : Nat) (s t : State) : Prop :=
  ∀ k, k ≠ blockKey region block → tget Block.init t.blocks k = tget Block.init s.blocks k

/-- The record of every region but one reads the same. -/
def otherRegionsSame (region : Nat) (s t : State) : Prop := ∀ r, r ≠ region → regionAt r t = regionAt r s

/-- The codes of the reports handed over so far, and what has joined them since. -/
def codesJoin (s t : State) (codes : List (BitVec 16)) : Prop :=
  (t.reports.map fun h => h.report.code) = (s.reports.map fun h => h.report.code) ++ codes

end Sys2Proof.Machine
end

