-- ==== Sys2Proof/Certificates/Slice0/Obligations.lean ====
section
/-! DEFINITION. The statements for the provers. -/

open Sys2Proof Sys2Proof.Machine

/-! ## The block and its queue -/

/-- A step is `exec` of the command at the front of the queue, on the state whose queue is the rest. -/
def Obligations.StepRunsTheFrontCommand : Prop :=
  ∀ (c : Instr) (rest : List Instr) (s : State), s.pending = c :: rest → step s = exec c (s.withPending rest)

/-- On an empty queue one cycle of the management clock passes: the model's choice (log entry 2), no rule of the spec. Memories and
registers stay, but for the residence time of the power state that the part is in and CAL_QUALITY, which follows once per second. -/
def Obligations.IdleStepPassesOneCycle : Prop :=
  ∀ s : State, s.pending = [] →
    ∃ t, step s = .next t ∧ t.now = s.now + 1 ∧ t.pending = [] ∧ s.SameMemory t
      ∧ s.SameRegs [(PWR_RESID.us (rd PWR_STATE.state s)).off, CAL_QUALITY] t

/-- What reset leaves: POR_N low, an empty queue, every register at its value after POR, nothing listed in a memory, no life-cycle
transition in progress. -/
def Obligations.ResetLeavesEverythingAtPor : Prop :=
  State.reset.pending = [] ∧ State.reset.pins.porN = false ∧ (∀ off, State.reset.reg off = regPor off)
    ∧ (∀ a, byteAt State.reset.scr a = 0 ∧ byteAt State.reset.hdm a = 0 ∧ byteAt State.reset.host a = 0)
    ∧ rd GLB_STATE.state State.reset = 0 ∧ State.reset.Canonical ∧ State.reset.LawfulTransition

/-- Every step keeps the canonical form of the register file, the three memories and the poison maps. -/
def Obligations.StepKeepsCanonicalForm : Prop :=
  ∀ s t : State, s.Canonical → step s = .next t → t.Canonical

/-- No command touches the queue, the serial number or the firmware key hash of the fuses, and none but a step boundary takes time: one
that is passed takes as long as the run that ends there. -/
def Obligations.OnlyBoundariesTakeTime : Prop :=
  ∀ (c : Instr) (s t : State), exec c s = .next t →
    t.pending = s.pending ∧ t.nv.serial = s.nv.serial ∧ t.nv.fwKeyHash = s.nv.fwKeyHash
      ∧ (t.now = s.now ∨ ∃ inp, c = .stepBoundary inp ∧ t.now = s.now + 600 * inp.duration)

/-- The life-cycle state moves only along the transitions that exist, and a transition in progress is always one of them. -/
def Obligations.LifeCycleMovesOnlyAlongItsTransitions : Prop :=
  ∀ s t : State, s.LawfulTransition → step s = .next t →
    t.LawfulTransition ∧ (t.nv.lcs = s.nv.lcs ∨ (s.nv.lcs, t.nv.lcs) ∈ lcsMoves)

/-! ## The interrupt controller -/

/-- A read of ICU_CLAIM_t by its target answers the eligible source of the highest priority, the lowest number among equals: it becomes
active, owned by t, its latch clears. With no eligible source, or for another master, the answer is zero and nothing else changes. A
write of ICU_COMPLETE_t by its target frees source n when n is active and owned by t, and changes nothing else; a level source whose
input still asks is eligible again; for a source that is not active, or that another target owns, the write is ignored and logged. -/
def Obligations.ClaimAndComplete : Prop :=
  ((∀ (who : Master) (target : Fin 5) (n : Nat) (s : State), isTarget who target.val = true → barClosed who s = false → n < 256 →
     srcEligible target.val n s = true →
     (∀ m, m < 256 → srcEligible target.val m s = true →
       rd (ICU_SRC_CFG.prio m) s < rd (ICU_SRC_CFG.prio n) s
         ∨ rd (ICU_SRC_CFG.prio m) s = rd (ICU_SRC_CFG.prio n) s ∧ n ≤ m) →
     ∃ t, exec (.icuClaim who target) s = .next t
       ∧ t.out = .word (BitVec.ofNat 64 (n + 256 + 512 * rd (ICU_SRC_CFG.prio n) s))
       ∧ t.icu.active.getLsbD n = true ∧ t.icu.latch.getLsbD n = false ∧ rd (ICU_SRC_CFG.owner n) t = target.val
       ∧ (∀ m, m ≠ n → t.icu.active.getLsbD m = s.icu.active.getLsbD m ∧ t.icu.latch.getLsbD m = s.icu.latch.getLsbD m)
       ∧ t.icu.input = s.icu.input ∧ s.SameRegs [ICU_SRC_CFG n] t
       ∧ t = { s with icu := t.icu, regs := t.regs, out := t.out })
   ∧ ∀ (who : Master) (target : Fin 5) (s : State), barClosed who s = false →
     (isTarget who target.val = false ∨ ∀ m, m < 256 → srcEligible target.val m s = false) →
     exec (.icuClaim who target) s = .next { s with out := .word 0 })
  ∧ (∀ (who : Master) (target : Fin 5) (half : Half) (data : Word) (n : Nat) (s : State), isTarget who target.val = true → barClosed who s = false →
       n = fget (ICU_COMPLETE.source target.val) (wdata ⟨who, half, data⟩) →
       (s.icu.active.getLsbD n = true → rd (ICU_SRC_CFG.owner n) s = target.val →
         ∃ t, exec (.icuComplete who target half data) s = .next t ∧ t.icu.active.getLsbD n = false
           ∧ (∀ m, m ≠ n → t.icu.active.getLsbD m = s.icu.active.getLsbD m)
           ∧ (reservedSource n = false → softSource n = false →
               rd (ICU_SRC_CFG.sense n) s = 0 ∧ sourceInput n s = true ∨ rd (ICU_SRC_CFG.sense n) s = 1 ∧ sourceInput n s = false →
               rd (ICU_SRC_CFG.en n) s = 1 → srcRouted n target.val s = true →
               rd (ICU_TGT_CFG.thr target.val) s < rd (ICU_SRC_CFG.prio n) s → rd (ICU_TGT_CFG.mask_all target.val) s = 0 →
               srcEligible target.val n t = true)
           ∧ t = { s with icu := { s.icu with active := t.icu.active } })
       ∧ (s.icu.active.getLsbD n = false ∨ rd (ICU_SRC_CFG.owner n) s ≠ target.val →
         exec (.icuComplete who target half data) s = .next (logIgnored who (ICU_COMPLETE target.val) data.toNat s)))

/-- A write of ICU_PEND_w sets the latches of the sources whose bit it carries, reserved ones apart; a write of ICU_CLRPEND_w clears
those whose sources no core owns. A change of a source's input is seen; the edge that its sense names sets the latch, and no other does.
A full write of ICU_SRC_CFG_n by the host, for a source of its own and with the cores field it holds, stores en, prio and host; it stores
sense, 5 to 7 as 0, and a change of the stored sense clears the latch. -/
def Obligations.LatchesAndSourceConfiguration : Prop :=
  ((∀ (who : Master) (word : Fin 4) (half : Half) (data : Word) (s : State), reaches who s →
     ∃ t, exec (.icuPendSet who word half data) s = .next t
       ∧ (∀ k, k < 64 → t.icu.latch.getLsbD (64 * word.val + k) =
           (s.icu.latch.getLsbD (64 * word.val + k)
             || (wdata ⟨who, half, data⟩).getLsbD k && !reservedSource (64 * word.val + k)))
       ∧ (∀ m, m / 64 ≠ word.val → t.icu.latch.getLsbD m = s.icu.latch.getLsbD m)
       ∧ t.icu.active = s.icu.active ∧ t.icu.input = s.icu.input ∧ s.SameMemory t
       ∧ s.SameRegs [ICU_TGT_CFG 0, ICU_TGT_CFG 1, ICU_TGT_CFG 2, ICU_TGT_CFG 3] t)
   ∧ ∀ (who : Master) (word : Fin 4) (half : Half) (data : Word) (s : State), reaches who s →
     (∀ k, k < 64 → rd (ICU_SRC_CFG.cores (64 * word.val + k)) s = 0) →
     ∃ t, exec (.icuClearPending who word half data) s = .next t
       ∧ (∀ k, k < 64 → t.icu.latch.getLsbD (64 * word.val + k) =
           (s.icu.latch.getLsbD (64 * word.val + k) && !(wdata ⟨who, half, data⟩).getLsbD k))
       ∧ (∀ m, m / 64 ≠ word.val → t.icu.latch.getLsbD m = s.icu.latch.getLsbD m)
       ∧ t = { s with icu := { s.icu with latch := t.icu.latch } })
  ∧ (∀ (n : Fin 256) (s : State), reservedSource n.val = false → softSource n.val = false →
       s.icu.input.getLsbD n.val ≠ sourceInput n.val s →
       ∃ t, exec (.sourceInputChange n) s = .next t ∧ t.icu.input.getLsbD n.val = sourceInput n.val s
         ∧ t.icu.latch.getLsbD n.val = (s.icu.latch.getLsbD n.val
             || rd (ICU_SRC_CFG.sense n.val) s == 4
             || rd (ICU_SRC_CFG.sense n.val) s == 2 && sourceInput n.val s
             || rd (ICU_SRC_CFG.sense n.val) s == 3 && !sourceInput n.val s)
         ∧ (∀ m, m ≠ n.val → t.icu.input.getLsbD m = s.icu.input.getLsbD m ∧ t.icu.latch.getLsbD m = s.icu.latch.getLsbD m)
         ∧ t.icu.active = s.icu.active ∧ s.SameMemory t
         ∧ s.SameRegs [ICU_TGT_CFG 0, ICU_TGT_CFG 1, ICU_TGT_CFG 2, ICU_TGT_CFG 3] t)
  ∧ (∀ (n : Fin 256) (data : Word) (s : State), s.cxl.d3hot = false → reservedSource n.val = false → hostOwnsBasics n.val = true →
       fget (ICU_SRC_CFG.cores n.val) data = rd (ICU_SRC_CFG.cores n.val) s →
       ∃ t, exec (.icuSrcCfgWrite n ⟨.host, .full, data⟩) s = .next t
         ∧ rd (ICU_SRC_CFG.en n.val) t = fget (ICU_SRC_CFG.en n.val) data
         ∧ rd (ICU_SRC_CFG.prio n.val) t = fget (ICU_SRC_CFG.prio n.val) data
         ∧ rd (ICU_SRC_CFG.host n.val) t = fget (ICU_SRC_CFG.host n.val) data
         ∧ rd (ICU_SRC_CFG.sense n.val) t =
             (if 5 ≤ fget (ICU_SRC_CFG.sense n.val) data then 0 else fget (ICU_SRC_CFG.sense n.val) data)
         ∧ rd (ICU_SRC_CFG.cores n.val) t = rd (ICU_SRC_CFG.cores n.val) s
         ∧ t.icu.latch.getLsbD n.val = (s.icu.latch.getLsbD n.val
             && rd (ICU_SRC_CFG.sense n.val) t == rd (ICU_SRC_CFG.sense n.val) s)
         ∧ (∀ m, m ≠ n.val → t.icu.latch.getLsbD m = s.icu.latch.getLsbD m)
         ∧ t.icu.active = s.icu.active ∧ t.icu.input = s.icu.input ∧ s.SameMemory t
         ∧ s.SameRegs [ICU_SRC_CFG n.val, ICU_TGT_CFG 0, ICU_TGT_CFG 1, ICU_TGT_CFG 2, ICU_TGT_CFG 3] t)

/-! ## The event log -/

/-- A report that may reach the host and is no trace: it joins the newest entry of its class where that entry has its code and unit,
carries the sequence numbers just before it and neither is an alarm; a class without a lost run otherwise stages it as the last entry,
with the class's next sequence number, while staging is below the severity's limit. Either way the class consumes one number. The report
is the oldest one handed in, or the one that comes with the command. While the link is down or Bus Master Enable is 0 a report that is no
trace is lost: it consumes a sequence number of its class, joins the class's lost run and sets EVT_CFG.lost; a trace is dropped and
counted, or not recorded where its class is disabled. -/
def Obligations.ReportsReachTheHostOrAreLost : Prop :=
  (∀ (r : Option Report) (h : Handed) (s : State), h.report.severity.val ≠ 0 →
     (r = none ∧ s.reports.head? = some h ∨ r = some h.report ∧ h.stamp = stampOf h.report.cls.val s) →
     s.cxl.up = true → s.cxl.bme = true → rd PWR_STATE.state s < 3 →
     (∀ e, newestOf h.report.cls.val s.evt.staged = some e → e.code = h.report.code.toNat → e.unit = h.report.unit.toNat →
       h.report.severity.val ≠ 4 → e.severity ≠ 0 → e.severity ≠ 4 → nextSeq e.cls s = (e.seq + e.count) % 2 ^ 32 → e.count < 65535 →
       ∃ t, exec (.eventReport r) s = .next t
         ∧ t.evt.staged = s.evt.staged.map (fun x => if x = e then { x with count := x.count + 1 } else x)
         ∧ nextSeq e.cls t = (nextSeq e.cls s + 1) % 2 ^ 32
         ∧ (∀ c, c ≠ e.cls → nextSeq c t = nextSeq c s)
         ∧ t = { s with evt := { s.evt with staged := t.evt.staged, seqs := t.evt.seqs }
                        reports := if r = none then s.reports.tail else s.reports })
     ∧ ((∀ e, newestOf h.report.cls.val s.evt.staged = some e → e.code ≠ h.report.code.toNat ∨ e.unit ≠ h.report.unit.toNat) →
       (lostRun h.report.cls.val s).run = 0 →
       s.evt.staged.length < (if h.report.severity.val ≤ 2 then 64512 else 65536) →
       ∃ t, exec (.eventReport r) s = .next t
         ∧ t.evt.staged = s.evt.staged ++ [entryFor h (nextSeq h.report.cls.val s)]
         ∧ nextSeq h.report.cls.val t = (nextSeq h.report.cls.val s + 1) % 2 ^ 32
         ∧ (∀ c, c ≠ h.report.cls.val → nextSeq c t = nextSeq c s)
         ∧ t = { s with evt := { s.evt with staged := t.evt.staged, seqs := t.evt.seqs }
                        reports := if r = none then s.reports.tail else s.reports }))
  ∧ (∀ (r : Report) (s : State), (s.cxl.up && s.cxl.bme) = false →
       (r.severity.val ≠ 0 → ∃ t, exec (.eventReport (some r)) s = .next t ∧ rd EVT_CFG.lost t = 1
         ∧ nextSeq r.cls.val t = (nextSeq r.cls.val s + 1) % 2 ^ 32
         ∧ (lostRun r.cls.val t).run = min ((lostRun r.cls.val s).run + 1) 65535
         ∧ (lostRun r.cls.val t).last = nextSeq r.cls.val s
         ∧ (lostRun r.cls.val t).first =
             (if (lostRun r.cls.val s).run = 0 then nextSeq r.cls.val s else (lostRun r.cls.val s).first)
         ∧ (∀ c, c ≠ r.cls.val → nextSeq c t = nextSeq c s ∧ lostRun c t = lostRun c s)
         ∧ s.SameRegs [EVT_CFG] t ∧ t = { s with regs := t.regs, evt := { s.evt with seqs := t.evt.seqs, lost := t.evt.lost } })
       ∧ (r.severity.val = 0 → (rd EVT_TRACE_CFG.classes s).testBit r.cls.val = false → exec (.eventReport (some r)) s = .next s)
       ∧ (r.severity.val = 0 → (rd EVT_TRACE_CFG.classes s).testBit r.cls.val = true →
         ∃ t, exec (.eventReport (some r)) s = .next t
           ∧ rd EVT_TRACE_DROP.dropped t = min (rd EVT_TRACE_DROP.dropped s + 1) (2 ^ EVT_TRACE_DROP.dropped.w - 1)
           ∧ s.SameRegs [EVT_TRACE_DROP] t ∧ t = { s with regs := t.regs }))

/-- The drain writes the oldest staged entry, 32 bytes, at the ring slot that EVT_HEAD names and moves the head on, while the ring is
enabled and has room and the millisecond's cap allows 32 bytes more; no other byte of host memory changes. A write that fails sets
ring_err and leaves the entry staged. A write that sets EVT_CFG.en, which was 0, starts the ring: head and tail are 0 and a ring-start
entry is due. A write of EVT_TAIL stores an index no further from the head than the ring is long; any other index sets ring_err. -/
def Obligations.TheRingIsWrittenAtItsHead : Prop :=
  (∀ (e : Entry) (rest : List Entry) (s : State), s.evt.staged = e :: rest → s.evt.startDue = false → rd EVT_CFG.en s = 1 →
     s.cxl.up = true → s.cxl.bme = true → rd PWR_STATE.state s < 3 → ringUsed s < 2 ^ log2Entries s →
     s.evt.window = s.now / 600000 → s.evt.second = s.now / second → s.evt.windowBytes + 32 ≤ capBytes s →
     ((∀ c, c < 16 → (lostRun c s).run = 0) →
       ∃ t, exec (.eventDrain false) s = .next t ∧ t.evt.staged = rest
         ∧ rd EVT_HEAD.head t = (rd EVT_HEAD.head s + 1) % 2 ^ 32
         ∧ (∀ a, byteAt t.host a =
             (let start := rd EVT_BASE.addr s * 4096 + 32 * (rd EVT_HEAD.head s % 2 ^ log2Entries s)
              if start ≤ a ∧ a < start + 32 then (eventBytes e (rd EVT_HEAD.head s) (log2Entries s)).getD (a - start) 0
              else byteAt s.host a))
         ∧ t.evt.windowBytes = s.evt.windowBytes + 32 ∧ s.SameRegs [EVT_HEAD] t
         ∧ t = { s with regs := t.regs, host := t.host, evt := t.evt })
     ∧ ∃ t, exec (.eventDrain true) s = .next t ∧ rd EVT_CFG.ring_err t = 1 ∧ s.SameRegs [EVT_CFG] t ∧ t = { s with regs := t.regs })
  ∧ ((∀ (w : Write) (s : State), reaches w.who s → rd EVT_CFG.en s = 0 → wbits EVT_CFG.en w s = 1 →
       ∃ t, exec (.ringStart w) s = .next t ∧ rd EVT_CFG.en t = 1 ∧ rd EVT_CFG.thr t = wbits EVT_CFG.thr w s
         ∧ rd EVT_HEAD.head t = 0 ∧ rd EVT_TAIL.tail t = 0 ∧ t.evt = { s.evt with startDue := true }
         ∧ s.SameRegs [EVT_CFG, EVT_HEAD, EVT_TAIL] t ∧ t = { s with regs := t.regs, evt := t.evt })
     ∧ ∀ (w : Write) (s : State), reaches w.who s →
       ((rd EVT_HEAD.head s + 2 ^ 32 - wbits EVT_TAIL.tail w s) % 2 ^ 32 ≤ 2 ^ log2Entries s →
         ∃ t, exec (.evtTailWrite w) s = .next t ∧ rd EVT_TAIL.tail t = wbits EVT_TAIL.tail w s ∧ s.SameRegs [EVT_TAIL] t
           ∧ t = { s with regs := t.regs })
       ∧ (2 ^ log2Entries s < (rd EVT_HEAD.head s + 2 ^ 32 - wbits EVT_TAIL.tail w s) % 2 ^ 32 →
         ∃ t, exec (.evtTailWrite w) s = .next t ∧ rd EVT_CFG.ring_err t = 1 ∧ s.SameRegs [EVT_CFG] t ∧ t = { s with regs := t.regs }))

/-! ## HBM and scratch -/

/-- A training run of a stack counts; one that ends at a rate leaves the stack trained at it and out of self-refresh, and Memory_Active
is set once every stack is trained or failed and none refreshes itself; a failed stack stays as it is. A run that fails at the lowest
rate, in a part that does not serve, fails the stack, and every main generation is lost. REFRESH_FALL takes a stack's refresh mode to the
highest that its inputs call for, never up, once they have held a lower one for 10 s, and changes nothing before; a crossing of the
stack's own temperature stores the readout and takes every stack's mode up to what its inputs call for, never down. -/
def Obligations.StacksTrainAndRefresh : Prop :=
  (∀ (k : Fin 12) (s : State),
     (rd (MEM_HBM_STAT.state k) s = 3 → ∀ rate, exec (.hbmTraining k rate) s = .next s)
     ∧ (rd (MEM_HBM_STAT.state k) s ≠ 3 → ∀ r : Fin 3, ∃ t, exec (.hbmTraining k (some r)) s = .next t
       ∧ rd (MEM_HBM_STAT.state k) t = 2 ∧ rd (MEM_HBM_STAT.rate k) t = r.val ∧ rd (MEM_HBM_STAT.sr k) t = 0
       ∧ rd (MEM_HBM_STAT.trains k) t = min (rd (MEM_HBM_STAT.trains k) s + 1) 65535
       ∧ (t.cxl.memActive = true ↔ s.cxl.memActive = true ∨
           ∀ j : Fin 12, j ≠ k → 2 ≤ rd (MEM_HBM_STAT.state j) s ∧ rd (MEM_HBM_STAT.sr j) s = 0)
       ∧ (∀ j : Fin 12, j ≠ k → fput (MEM_HBM_STAT.refresh j) 0 (t.reg (MEM_HBM_STAT j))
           = fput (MEM_HBM_STAT.refresh j) 0 (s.reg (MEM_HBM_STAT j)))
       ∧ s.SameRegs (MEM_REFRESH_MODE :: (List.range 12).map MEM_HBM_STAT) t
       ∧ t = { s with regs := t.regs, thm := t.thm, cxl := { s.cxl with memActive := t.cxl.memActive } })
     ∧ (rd (MEM_HBM_STAT.state k) s ≠ 3 → rd GLB_STATE.state s < 2 → s.wld.load = none →
       ∃ t, exec (.hbmTraining k none) s = .next t ∧ rd (MEM_HBM_STAT.state k) t = 3 ∧ rd (MEM_HBM_STAT.fail k) t = 1
         ∧ (∀ g, g < 4 → rd (WLD_GEN.state g) t = 0)
         ∧ (rd BOOT_STAT.no_tin s = 0 → (rd GLB_STATE.tin_cause t).testBit 0 = true)
         ∧ s.SameMemory t ∧ t.nv = s.nv ∧ t.pins = s.pins))
  ∧ ((∀ (k : Fin 12) (s : State), heldLong k.val s = false → exec (.refreshFall k) s = .next s)
     ∧ (∀ (k : Fin 12) (s : State), heldLong k.val s = true → ∃ t, exec (.refreshFall k) s = .next t
       ∧ rd (MEM_HBM_STAT.refresh k) t = min (rd (MEM_HBM_STAT.refresh k) s) (refreshWanted k (deg 3) s)
       ∧ s.SameRegs [MEM_HBM_STAT k] t ∧ t = { s with regs := t.regs, thm := { s.thm with holds := t.thm.holds } })
     ∧ ∀ (k : Fin 12) (celsius : Int) (s : State), -128 ≤ celsius → celsius < 128 →
       ∃ t, exec (.stackTemperatureCrossing k celsius) s = .next t ∧ rds (MEM_HBM_STAT.temp k) t = celsius
         ∧ (∀ j : Fin 12, rd (MEM_HBM_STAT.refresh j) t = max (rd (MEM_HBM_STAT.refresh j) s) (refreshWanted j 0 t))
         ∧ rd MEM_REFRESH_MODE.band t = hottestBand 0 s
         ∧ s.SameRegs (MEM_REFRESH_MODE :: (List.range 12).map MEM_HBM_STAT) t
         ∧ t = { s with regs := t.regs, thm := { s.thm with holds := t.thm.holds } })

/-- A corrected line, found by an access or by the patrol scrubber, is counted and logged with its number; the fourth of a row within 24
hours repairs the row where its bank has a resource left, and retires the frame of a KV-pool row where it has none. A scrubbed line
without an error changes nothing. An uncorrectable line of the HDM range, of working data in HBM or of firmware's own, with no more than
64 in a second: counted, with its area and line, alarmed, its row repaired; a line of the HDM range reads as poison from then on, and no
other line does. Where both copies of a doubled area are lost (the model's reading, log entry 101), the keep copy is
incomplete and the factor store bad. -/
def Obligations.HbmErrorsAreCountedAndContained : Prop :=
  (∀ (c : Instr) (k : Fin 12) (line : BitVec 34) (row : Nat) (left pool : Bool) (s : State),
     exec (.patrolScrub k line row false left pool) s = .next s
     ∧ (c = .hbmCorrected k line row left pool ∨ c = .patrolScrub k line row true left pool →
       ∃ t, exec c s = .next t ∧ rd (MEM_ECC_CE.count k) t = min (rd (MEM_ECC_CE.count k) s + 1) (2 ^ 28 - 1)
         ∧ rd (MEM_ECC_CE.line k) t = line.toNat ∧ t.reports.length ≤ s.reports.length + 2
         ∧ (t.reports.map fun h => h.report.code).take (s.reports.length + 1) = (s.reports.map fun h => h.report.code) ++ [0x00B0]
         ∧ ((recent (24 * hour) (tget [] (hbmAt k s).rows row) s).length < 3 ∨ left = false → t.nv = s.nv)
         ∧ (3 ≤ (recent (24 * hour) (tget [] (hbmAt k s).rows row) s).length → left = true →
             t.nv = { s.nv with repairs := s.nv.repairs ++ [(k.val, row)] }
             ∧ rd (MEM_HBM_STAT.repairs k) t = min ((s.nv.repairs.filter fun r => r.1 == k.val).length + 1) 255)
         ∧ t.srv.lossFrames = s.srv.lossFrames
             + (if 3 ≤ (recent (24 * hour) (tget [] (hbmAt k s).rows row) s).length ∧ left = false ∧ pool = true then 1 else 0)
         ∧ s.SameRegs [MEM_ECC_CE k, MEM_HBM_STAT k, SRV_KV_STAT, SRV_STAT] t
         ∧ t = { s with regs := t.regs, hbm := t.hbm, nv := t.nv, reports := t.reports
                        srv := { s.srv with lossFrames := t.srv.lossFrames } }))
  ∧ (∀ (hit : HbmHit) (s : State), hit.area ∈ [HbmArea.hdm, .keep, .factors, .costumes, .saves, .firmware] → hit.repairLeft = true →
       (recent second (hbmAt hit.stack s).errors s).length < 64 →
       ∃ t, exec (.hbmUncorrectable hit) s = .next t
         ∧ rd (MEM_ECC_UE.count hit.stack) t = min (rd (MEM_ECC_UE.count hit.stack) s + 1) 65535
         ∧ rd (MEM_ECC_UE.area hit.stack) t = areaCode hit.area ∧ rd (MEM_ECC_UE.line hit.stack) t = hit.line.toNat
         ∧ rd (MEM_HBM_STAT.ue hit.stack) t = 1 ∧ rd (MEM_HBM_STAT.state hit.stack) t = rd (MEM_HBM_STAT.state hit.stack) s
         ∧ (∀ l, tget false t.hdmPoison l = (tget false s.hdmPoison l || (hit.area == .hdm && l == hit.index / 64)))
         ∧ t.tin.master = (s.tin.master && !(hit.area == .keep && hit.bothCopies))
         ∧ t.boot.badFactors = (s.boot.badFactors || (hit.area == .factors && hit.bothCopies))
         ∧ codesJoin s t [0x00B1, 0x00B2]
         ∧ t.nv.repairs = s.nv.repairs ++ [(hit.stack.val, hit.row)]
         ∧ s.SameRegs [MEM_ECC_UE hit.stack, MEM_HBM_STAT hit.stack] t
         ∧ t = { s with regs := t.regs, hdmPoison := t.hdmPoison, hbm := t.hbm, reports := t.reports
                        nv := { s.nv with repairs := t.nv.repairs }, tin := { s.tin with master := t.tin.master }
                        boot := { s.boot with badFactors := t.boot.badFactors } })

/-- A write to scratch that reaches the part and that its master may make, within one line of 64 bytes and free of poison, stores each
byte whose enable is set: as it is, by setting the bits that are 1, or by clearing them, as the view says; every other byte stays. A
write that leaves its line is aborted, one that the access rules refuse is ignored, and both are logged. Who may write scratch: the
part's own area is the host's to read only, the host area is everyone's, the secure part belongs to the control cores but for the host
portion at its end. -/
def Obligations.ScratchWritesThroughThreeViews : Prop :=
  (∀ (c : Instr) (v : View) (who : Master) (a : Fin 134217728) (data : List (Option Byte)) (s : State),
     (v = .plain ∧ c = .scratchWrite who a data false ∨ v = .setBits ∧ c = .bitSetAliasWrite who a data
       ∨ v = .clearBits ∧ c = .bitClearAliasWrite who a data) → barClosed who s = false →
     (64 < a.val % 64 + data.length → ∃ t, exec c s = .next t ∧ t.out = .abort
       ∧ codesJoin s t [0x0004]
       ∧ t = { s with out := t.out, reports := t.reports })
     ∧ (a.val % 64 + data.length ≤ 64 →
       (scrAccess who a s ≠ .open_ → ∃ t, exec c s = .next t
         ∧ codesJoin s t [0x0002]
         ∧ t = { s with reports := t.reports })
       ∧ (scrAccess who a s = .open_ → (0x7800000 ≤ a.val → s.sec.wiping = false) →
         (∀ w, a.val / 8 ≤ w → w ≤ (a.val + data.length) / 8 → tget false s.scrPoison w = false) →
         ∃ t, exec c s = .next t ∧ (∀ x, byteAt t.scr x = afterView v a data s x)
           ∧ (∀ w, tget false t.scrPoison w = tget false s.scrPoison w)
           ∧ t = { s with scr := t.scr, scrPoison := t.scrPoison })))
  ∧ (∀ (who : Master) (a : Nat) (s : State), a < 0x8000000 →
       (scrAccess who a s = .open_ ↔
         (a < 0x6000000 ∧ who ≠ .host) ∨ (0x6000000 ≤ a ∧ a < 0x7800000)
           ∨ (0x7800000 ≤ a ∧ ((∃ n, who = .core n)
               ∨ who = .host ∧ 0x7800000 + min (rd MEM_SECURE_BASE.host_start s) 0x80 * 65536 ≤ a))))

/-- Errors in scratch, found one at a time or by a scrub: a single one is corrected and counted, a double one outside the part's own area
poisons its word, counts and is alarmed; a storm of corrections sets its flag. A double error in the part's own area counts, is alarmed
and voids the running step, and leaves no poison in its word. -/
def Obligations.ScratchErrorsAreCorrectedOrPoisoned : Prop :=
  (∀ (c : Instr) (single double : List (Fin 16777216)) (storm : Bool) (s : State), (∀ w ∈ double, 0x6000000 ≤ 8 * w.val) →
    (c = .scratchScrub single double storm ∨ (∃ w, single = [w] ∧ double = [] ∧ c = .scratchEccError w false storm)
      ∨ ∃ w, single = [] ∧ double = [w] ∧ c = .scratchEccError w true storm) →
    ∃ t, exec c s = .next t
      ∧ rd MEM_SCR_ECC.ce t = min (rd MEM_SCR_ECC.ce s + single.length) (2 ^ 20 - 1)
      ∧ rd MEM_SCR_ECC.ue_count t = min (rd MEM_SCR_ECC.ue_count s + double.length) (2 ^ 16 - 1)
      ∧ (∀ w, tget false t.scrPoison w = (tget false s.scrPoison w || double.any fun d => d.val == w))
      ∧ (∀ w, (single ++ double).getLast? = some w → rd MEM_SCR_ECC.addr t = w.val
          ∧ rd MEM_SCR_ECC.last_ue t = (decide (double ≠ [])).toNat)
      ∧ rd MEM_SCR_ECC.ce_storm t = (if storm then 1 else rd MEM_SCR_ECC.ce_storm s)
      ∧ codesJoin s t (List.replicate double.length 0x00B3)
      ∧ s.SameRegs [MEM_SCR_ECC] t ∧ t = { s with regs := t.regs, scrPoison := t.scrPoison, reports := t.reports })
  ∧ ∀ (w : Fin 16777216) (storm : Bool) (s : State), 8 * w.val < 0x6000000 →
    ∃ t, exec (.scratchEccError w true storm) s = .next t
      ∧ rd MEM_SCR_ECC.ue_count t = min (rd MEM_SCR_ECC.ue_count s + 1) (2 ^ 16 - 1) ∧ rd MEM_SCR_ECC.addr t = w.val
      ∧ (∀ x, tget false t.scrPoison x = (tget false s.scrPoison x && x != w.val))
      ∧ (∀ r, s.srv.running = some r → ∃ r', t.srv.running = some r' ∧ r'.num = r.num ∧ r'.void = true)
      ∧ (∀ x, x / 8 ≠ w.val → byteAt t.scr x = byteAt s.scr x) ∧ t.hdm = s.hdm ∧ t.host = s.host ∧ t.wld = s.wld

/-! ## The security block -/

/-- A tamper trigger is counted for the part's life and starts the secure wipe: the secure part of scratch reads zero, the rest as
before; a report whose buffer lies there fails. Two failing mesh checks in a row are a mesh break, which acts as a tamper trigger does; a
single one, or a passing one, only shows. The end of a wipe counts it and stores how long it took. -/
def Obligations.TampersAndMeshBreaksWipe : Prop :=
  (∀ (source : TamperSource) (s : State), ∃ t, exec (.tamper source) s = .next t
     ∧ t.nv = { s.nv with tamperCount := s.nv.tamperCount + 1, tamperLast := tamperCode source }
     ∧ t.sec.wiping = true ∧ rd (tamperBit source) t = 1 ∧ rd SEC_WIPE_STAT.cause t = tamperCode source
     ∧ (∀ a, byteAt t.scr a = if a < 0x7800000 then byteAt s.scr a else 0)
     ∧ (∀ w, tget false t.scrPoison w = (tget false s.scrPoison w && decide (8 * w < 0x7800000)))
     ∧ (∀ a n, s.sec.attest = some (a, n) → 0x7800000 ≤ a →
         t.sec.attest = none ∧ rd SEC_ATTEST_CMD.busy t = 0 ∧ rd SEC_ATTEST_CMD.err t = 1 ∧ rd SEC_ATTEST_CMD.code t = 4)
     ∧ ((∀ a n, s.sec.attest = some (a, n) → a < 0x7800000) → s.SameRegs [SEC_TAMPER_STAT, SEC_WIPE_STAT] t)
     ∧ s.SameRegs [SEC_TAMPER_STAT, SEC_WIPE_STAT, SEC_ATTEST_CMD] t
     ∧ t = { s with regs := t.regs, scr := t.scr, scrPoison := t.scrPoison, nv := t.nv, pins := { s.pins with tamperN := t.pins.tamperN }
                    sec := { s.sec with wiping := true, attest := t.sec.attest } })
  ∧ ((∀ s : State, ∃ t, exec (.meshCheck true) s = .next t ∧ t.sec = { s.sec with meshFailed := false } ∧ rd SEC_TAMPER_STAT.mesh_ok t = 1
       ∧ s.SameRegs [SEC_TAMPER_STAT] t ∧ t = { s with regs := t.regs, sec := t.sec })
     ∧ (∀ s : State, s.sec.meshFailed = false → ∃ t, exec (.meshCheck false) s = .next t ∧ t.sec = { s.sec with meshFailed := true }
       ∧ rd SEC_TAMPER_STAT.mesh_ok t = 0 ∧ s.SameRegs [SEC_TAMPER_STAT] t ∧ t = { s with regs := t.regs, sec := t.sec })
     ∧ (∀ s : State, s.sec.meshFailed = true → ∃ t, exec (.meshCheck false) s = .next t ∧ t.sec.wiping = true
       ∧ t.sec.meshFailed = false ∧ rd SEC_TAMPER_STAT.mesh t = 1 ∧ rd SEC_TAMPER_STAT.mesh_ok t = 0
       ∧ rd SEC_WIPE_STAT.cause t = 5 ∧ t.nv = { s.nv with tamperCount := s.nv.tamperCount + 1, tamperLast := 5 }
       ∧ (∀ a, byteAt t.scr a = if a < 0x7800000 then byteAt s.scr a else 0) ∧ t.hdm = s.hdm
       ∧ s.SameRegs [SEC_TAMPER_STAT, SEC_WIPE_STAT, SEC_ATTEST_CMD] t)
     ∧ ∀ (tenNs : BitVec 16) (s : State), s.sec.wiping = true → ∃ t, exec (.wipeComplete tenNs) s = .next t
       ∧ t.sec = { s.sec with wiping := false } ∧ rd SEC_WIPE_STAT.last_10ns t = tenNs.toNat
       ∧ rd SEC_WIPE_STAT.wipes t = (rd SEC_WIPE_STAT.wipes s + 1) % 2 ^ 32 ∧ rd SEC_WIPE_STAT.cause t = rd SEC_WIPE_STAT.cause s
       ∧ s.SameRegs [SEC_WIPE_STAT] t ∧ t = { s with regs := t.regs, sec := t.sec })

/-- A life-cycle request (go, while none is in progress): a transition that does not exist is refused with code 1; one that a token has
to authorise is refused with the code of the token that the request names in host scratch; a part that nothing speaks against starts it.
The nonce changes either way. A transition commits when its fuse reads back: the new state stands and the secure part is wiped with cause
6; a part that becomes scrapped halts with cause 5. A fuse that does not read back leaves the old state, with code 9. -/
def Obligations.LifeCycleRequestsAndCommits : Prop :=
  (∀ (w : Write) (token : Token) (s : State), reaches w.who s → wone SEC_LCS_REQ.go w = true → rd SEC_LCS_REQ.busy s = 0 →
     token = tokenAt (wtake SEC_LCS_REQ.tok w s) →
     ∃ t, exec (.lcsRequest w) s = .next t
       ∧ rd SEC_LCS_REQ.code t = lcsCode (wbits SEC_LCS_REQ.target w s) token s
       ∧ rd SEC_LCS_REQ.target t = wbits SEC_LCS_REQ.target w s
       ∧ ((s.nv.lcs, wbits SEC_LCS_REQ.target w s) ∉ lcsMoves → rd SEC_LCS_REQ.code t = 1)
       ∧ (s.nv.lcs = 1 → wbits SEC_LCS_REQ.target w s = 2 → token.serial ≠ s.nv.serial.setWidth 64 ∨ token.nonce ≠ s.sec.nonce →
           rd SEC_LCS_REQ.code t ≠ 0)
       ∧ (s.nv.lcs = 0 → wbits SEC_LCS_REQ.target w s = 1 → s.boot.config.inForce = false → rd SEC_LCS_REQ.code t = 8)
       ∧ (s.nv.lcs = 0 → wbits SEC_LCS_REQ.target w s = 2 → rd SEC_LCS_REQ.code t = 0)
       ∧ (rd SEC_LCS_REQ.code t = 0 → rd SEC_LCS_REQ.busy t = 1
           ∧ t.sec.transition = some (wbits SEC_LCS_REQ.target w s))
       ∧ (rd SEC_LCS_REQ.code t ≠ 0 → rd SEC_LCS_REQ.busy t = 0 ∧ rd SEC_LCS_REQ.err t = 1 ∧ t.sec.transition = s.sec.transition)
       ∧ t.draws = s.draws + 1 ∧ t.sec.nonce = (Config.randomWord s.draws).setWidth 32
       ∧ s.SameRegs [SEC_LCS_REQ] t
       ∧ t = { s with regs := t.regs, draws := t.draws, sec := { s.sec with nonce := t.sec.nonce, transition := t.sec.transition } })
  ∧ (∀ (target : Nat) (s : State), s.sec.transition = some target →
       (∃ t, exec (.lcsCommit false) s = .next t ∧ t.sec = { s.sec with transition := none } ∧ rd SEC_LCS_REQ.code t = 9
         ∧ rd SEC_LCS_REQ.err t = 1 ∧ rd SEC_LCS_REQ.busy t = 0 ∧ s.SameRegs [SEC_LCS_REQ] t ∧ t = { s with regs := t.regs, sec := t.sec })
       ∧ (target ≠ 4 → ∃ t, exec (.lcsCommit true) s = .next t ∧ t.nv.lcs = target ∧ t.sec.transition = none ∧ t.sec.wiping = true
         ∧ rd SEC_LCS_REQ.done t = 1 ∧ rd SEC_LCS_REQ.busy t = 0 ∧ rd SEC_WIPE_STAT.cause t = 6
         ∧ (∀ a, byteAt t.scr a = if a < 0x7800000 then byteAt s.scr a else 0)
         ∧ (target = 1 → t.nv.identity.isSome = true ∧ t.nv.cfgKeyHash.isSome = true)
         ∧ (target = 2 → t.nv.debugEntries = s.nv.debugEntries + if s.nv.lcs = 1 then 1 else 0)
         ∧ (target = 3 → t.nv.identity = none) ∧ t.nv.serial = s.nv.serial ∧ t.nv.fwKeyHash = s.nv.fwKeyHash
         ∧ t.hdm = s.hdm ∧ t.host = s.host ∧ t.wld = s.wld ∧ t.srv = s.srv)
       ∧ (target = 4 → ∃ t, exec (.lcsCommit true) s = .next t ∧ t.nv.lcs = 4 ∧ rd GLB_STATE.state t = 5
         ∧ rd GLB_STATE.halt_cause t = 5))

/-- An attestation request starts a report where the part has an identity, the buffer is aligned and lies in host scratch or the host
portion, and no wipe runs over it; otherwise it fails with its code: 1 without an identity key, 2 outside the permitted ranges, 4 when a
wipe overtakes a buffer in the secure part, where nothing is left in it. A go while busy is ignored and logged. The finished report
stands in the buffer: the body, then the identity key's signature block. -/
def Obligations.AttestationReports : Prop :=
  (∀ (w : Write) (s : State), reaches w.who s → wone SEC_ATTEST_CMD.go w = true → rd SEC_ATTEST_CMD.busy s = 0 →
    (s.nv.identity = none → ∃ t, exec (.attestationRequest w) s = .next t ∧ rd SEC_ATTEST_CMD.code t = 1 ∧ rd SEC_ATTEST_CMD.err t = 1
      ∧ rd SEC_ATTEST_CMD.busy t = 0 ∧ s.SameRegs [SEC_ATTEST_CMD] t ∧ t = { s with regs := t.regs, sec := { s.sec with attest := none } })
    ∧ (s.nv.identity ≠ none → attestRange (64 * rd SEC_ATTEST_ADDR.addr s) s = true → s.sec.wiping = false →
      ∃ t, exec (.attestationRequest w) s = .next t ∧ rd SEC_ATTEST_CMD.busy t = 1 ∧ rd SEC_ATTEST_CMD.code t = 0
        ∧ t.sec = { s.sec with attest := some (64 * rd SEC_ATTEST_ADDR.addr s, bytesAt s.scr (64 * rd SEC_ATTEST_ADDR.addr s) 64) }
        ∧ s.SameRegs [SEC_ATTEST_CMD] t ∧ t = { s with regs := t.regs, sec := t.sec })
    ∧ (s.nv.identity ≠ none →
      attestRange (64 * rd SEC_ATTEST_ADDR.addr s) s = false
        ∨ attestRange (64 * rd SEC_ATTEST_ADDR.addr s) s = true ∧ 0x7800000 ≤ 64 * rd SEC_ATTEST_ADDR.addr s ∧ s.sec.wiping = true →
      ∃ t, exec (.attestationRequest w) s = .next t
        ∧ rd SEC_ATTEST_CMD.code t = (if attestRange (64 * rd SEC_ATTEST_ADDR.addr s) s = true then 4 else 2)
        ∧ rd SEC_ATTEST_CMD.err t = 1 ∧ rd SEC_ATTEST_CMD.busy t = 0 ∧ s.SameRegs [SEC_ATTEST_CMD] t
        ∧ t = { s with regs := t.regs, sec := { s.sec with attest := none } }))
  ∧ (∀ (w : Write) (s : State), reaches w.who s → wone SEC_ATTEST_CMD.go w = true → rd SEC_ATTEST_CMD.busy s = 1 →
    ∃ t, exec (.attestationRequest w) s = .next t ∧ rd SEC_ATTEST_CMD.busy t = 1 ∧ codesJoin s t [0x0002] ∧ s.SameRegs [SEC_ATTEST_CMD] t
      ∧ t = { s with regs := t.regs, reports := t.reports })
  ∧ (∀ (cause a : Nat) (nonce : List Byte) (s : State), s.sec.attest = some (a, nonce) → 0x7800000 ≤ a →
    (startWipe cause s).sec.attest = none ∧ rd SEC_ATTEST_CMD.code (startWipe cause s) = 4 ∧ rd SEC_ATTEST_CMD.err (startWipe cause s) = 1
      ∧ rd SEC_ATTEST_CMD.busy (startWipe cause s) = 0 ∧ ∀ x, 0x7800000 ≤ x → byteAt (startWipe cause s).scr x = 0)
  ∧ ∀ (signature : List Byte) (a key : Nat) (nonce : List Byte) (s : State), s.sec.attest = some (a, nonce) →
    s.nv.identity = some key → nonce.length = 64 →
    ∃ t, exec (.attestReportWritten signature) s = .next t ∧ rd SEC_ATTEST_CMD.done t = 1 ∧ rd SEC_ATTEST_CMD.busy t = 0
      ∧ (∀ x, byteAt t.scr x = if a ≤ x ∧ x < a + 1728 then (reportBody nonce s ++ signatureBlock key signature).getD (x - a) 0
          else byteAt s.scr x)
      ∧ t.sec = { s.sec with attest := none } ∧ s.SameRegs [SEC_ATTEST_CMD] t
      ∧ t = { s with regs := t.regs, scr := t.scr, scrPoison := t.scrPoison, sec := t.sec }

/-! ## Steps and serving -/

/-- A boundary that is passed while a step runs takes as long as the run did. One waits, and changes nothing, while reads of the running
step are out or steps cannot run; it is held, and counted once, while the step before has still to be checked. -/
def Obligations.BoundariesWaitAndPass : Prop :=
  ∀ (inp : StepInput) (s : State),
    ((stepsRun s = false ∨ ∃ u, s.srv.running = some u ∧ u.reads ≠ 0) → exec (.stepBoundary inp) s = .next s)
    ∧ (stepsRun s = true → rd PAIR_STAT.state s ≠ 3 → s.pair.settling = none → ∀ u, s.srv.running = some u → u.reads = 0 →
      (s.srv.done = [] → ∃ t, exec (.stepBoundary inp) s = .next t ∧ t.now = s.now + 600 * inp.duration)
      ∧ ∀ v rest, s.srv.done = v :: rest → u.void = false → v.void = false → (v.reads ≠ 0 ∨ v.shadows ≠ 0) →
        ∃ t, exec (.stepBoundary inp) s = .next t ∧ t.srv = { s.srv with holding := true }
          ∧ rd CHK_COMMIT_LAG.held t = (if s.srv.holding then rd CHK_COMMIT_LAG.held s
              else min (rd CHK_COMMIT_LAG.held s + 1) (2 ^ 15 - 1))
          ∧ s.SameRegs [CHK_COMMIT_LAG] t ∧ t = { s with regs := t.regs, srv := t.srv })

/-- A checked step commits: at the boundary that ends it where no other follows, or by COMMIT while none runs. CHK_COMMIT_LAG then names
it, nothing lags, and SRV_STEP_BUDGET.last shows its duration; values that take effect at a boundary are latched. -/
def Obligations.CheckedStepsCommit : Prop :=
  ∀ (c : Instr) (u : Step) (s : State) (duration : Nat), stepsRun s = true → s.Bare → u.reads = 0 → u.shadows = 0 → u.void = false →
    (c = .commit ∧ s.srv.running = none ∧ s.srv.done = [u] ∧ duration = u.duration
      ∨ (∃ inp, c = .stepBoundary inp ∧ inp.groups = [] ∧ inp.kv = [] ∧ duration = inp.duration) ∧ s.srv.running = some u
        ∧ s.srv.done = []) →
    ∃ t, exec c s = .next t ∧ t.srv.done = [] ∧ t.srv.running = none ∧ rd CHK_COMMIT_LAG.step t = u.num % 2 ^ 32
      ∧ rd CHK_COMMIT_LAG.lag t = 0 ∧ rd SRV_STEP_BUDGET.last t = min duration 1048575
      ∧ t.srv.budget = rd SRV_STEP_BUDGET.budget s ∧ t.srv.repWindow = rd SMP_CTL.rep_window s
      ∧ t.srv.shadowRate = rd CHK_SHADOW_RATE.log2_rate s ∧ t.srv.lastWide = u.wide ∧ s.SameMemory t ∧ t.nv = s.nv

/-- A scan counts; in PS3 and PS4 there is none. A scan of an enabled table takes a POSTED slot whose body is valid, here of a new
sequence: its copy joins the requests, the slot reads TAKEN and its result fields are zero. A POSTED slot with its cancel bit ends FAILED
with cause 0x10, and its irq flag sets SRV_STAT.req_irq. No other byte of the HDM range changes. (With no time to live just run out.) -/
def Obligations.ScanTakesPostedSlots : Prop :=
  ∀ (k : Fin 4) (s : State),
    (3 ≤ rd PWR_STATE.state s → exec .scan s = .next s)
    ∧ (rd PWR_STATE.state s = 0 → rd GLB_STATE.state s = 2 → rd GLB_STATE.rom_runner s = 0 → s.srv.running.isSome = true →
      (∀ q ∈ s.srv.seqs, countedOut q s = false) →
      (rd SRV_CTL.tbl_en s = 0 → ∃ t, exec .scan s = .next t ∧ rd SRV_SCAN.scans t = (rd SRV_SCAN.scans s + 1) % 2 ^ 32
        ∧ s.SameRegs [SRV_SCAN] t ∧ t = { s with regs := t.regs, pwr := { s.pwr with idleScans := 0 } })
      ∧ (rd SRV_CTL.tbl_en s = 2 ^ k.val → tableSlots k s = 1 → tableBase k s + 256 ≤ hdmSize →
        slotState (4096 * k.val) s = 1 →
        (slotCancel (4096 * k.val) s = true → ∃ t, exec .scan s = .next t
          ∧ (∀ a, byteAt t.hdm a = if a = tableBase k s then 5 else if a = tableBase k s + 1 then 0x10 else byteAt s.hdm a)
          ∧ rd SRV_STAT.req_irq t = (if (readSlot (4096 * k.val) 0 s).irq then 1 else rd SRV_STAT.req_irq s)
          ∧ s.SameRegs [SRV_SCAN, SRV_STAT] t ∧ t = { s with regs := t.regs, hdm := t.hdm, pwr := { s.pwr with idleScans := 0 } })
        ∧ ∀ r, r = readSlot (4096 * k.val) s.srv.nextOrder s → slotCancel (4096 * k.val) s = false → mayTake k s = true →
          slotValid (4096 * k.val) r s = true → r.new = true → seqAt false r.seq s = none →
          (∀ o ∈ s.srv.requests, isKeep o = true ∨ o.seq ≠ r.seq) →
          ∃ t, exec .scan s = .next t ∧ t.srv.requests = s.srv.requests ++ [r]
            ∧ (∀ a, byteAt t.hdm a = if a = tableBase k s then 2 else if a = tableBase k s + 1 then 0
                else if tableBase k s + 192 ≤ a ∧ a < tableBase k s + 256 then 0 else byteAt s.hdm a)
            ∧ t.srv.nextOrder = s.srv.nextOrder + 1 ∧ s.SameRegs [SRV_SCAN] t
            ∧ t = { s with regs := t.regs, hdm := t.hdm, pwr := { s.pwr with idleScans := 0 }
                           srv := { s.srv with requests := t.srv.requests, nextOrder := t.srv.nextOrder
                                               lastTaken := t.srv.lastTaken, expired := t.srv.expired } }))

/-- While no step runs, a taken RUN of a new sequence whose generation is active and whose reservation fits is admitted at once: it runs
on the active generation with its reservation, its slot reads RUNNING, and its sequence exists. -/
def Obligations.RunsAreAdmitted : Prop :=
  ∀ (table : Fin 4) (slot : Fin 4096) (r : Request) (g : Nat) (s : State), r.key = 4096 * table.val + slot.val → s.srv.requests = [r] →
    s.srv.seqs = [] → s.srv.running = none → s.srv.done = [] → s.srv.voids = [] → r.running = false → r.op = 0 → r.new = true →
    r.cancelled = false → r.genHint = 0 → r.costumeCheck = false → (wardrobeAt r.context s).current = none →
    0 < r.promptLen → r.promptLen ≤ maxPos → activeSlot s = some g → spec SMP_SPEC.draft_kind s = 0 →
    rd GLB_STATE.state s = 2 → rd SRV_STAT.stage s < 2 → rd SRV_CTL.hold s = 0 → rd PAIR_STAT.state s ≠ 3 →
    fitsNever r (needs { r with slot := g, draft := 0, draftSlot := 0 } s) s = false →
    fitsNow r (needs { r with slot := g, draft := 0, draftSlot := 0 } s) s = true →
    ∃ t, exec (.opRun (table.castLE (by decide)) slot) s = .next t
      ∧ (∃ r', reqAt r.key t = some r' ∧ r'.running = true ∧ r'.slot = g ∧ r'.genId = rd (WLD_GEN.gen g) s ∧ r'.costume = none
        ∧ (r'.frames, r'.units) = needs { r with slot := g, draft := 0, draftSlot := 0 } s)
      ∧ t.srv.seqs = [⟨r.seq, false, r.context, rd (WLD_GEN.gen g) s, [], 0, 0, .live, 0, 0, false⟩]
      ∧ byteAt t.hdm (slotAddr r.key s) = 3 ∧ byteAt t.hdm (slotAddr r.key s + 1) = 0
      ∧ (∀ a, a < slotAddr r.key s ∨ slotAddr r.key s + 224 ≤ a ∨ (slotAddr r.key s + 2 ≤ a ∧ a < slotAddr r.key s + 216) →
          byteAt t.hdm a = byteAt s.hdm a)
      ∧ s.SameRegs [PWR_STATE, SRV_KV_STAT, SRV_STAT] t ∧ t.scr = s.scr ∧ t.host = s.host

/-- A taken PAUSE of a live main sequence starts its copy where the Toybox has room, and the Toybox counts its space; without room it
ends FAILED with cause 0x1B and the sequence stays live. A taken RELEASE ends the sequence, its slot reads DONE with cause 0x04, and its
irq flag sets SRV_STAT.req_irq. The end of a speculation pause makes the request's next step a probe, and changes no other request. -/
def Obligations.PauseReleaseAndProbe : Prop :=
  (∀ (table : Fin 4) (slot : Fin 4096) (r : Request) (q : Sequence) (s : State), r.key = 4096 * table.val + slot.val →
     reqAt r.key s = some r → r.running = false → seqAt false r.seq s = some q → q.place = .live →
     (r.op = 1 → rd GLB_STATE.state s = 2 → rd SRV_TOYBOX_BASE.en s = 1 →
       rd SRV_TOYBOX_SIZE.used s + toyboxUnits q.frames ≤ rd SRV_TOYBOX_SIZE.size s →
       ∃ t, exec (.opPause (table.castLE (by decide)) slot) s = .next t
         ∧ seqAt false r.seq t = some { q with place := .copying r.ttl (some r.key), toybox := q.frames }
         ∧ rd SRV_TOYBOX_SIZE.used t = rd SRV_TOYBOX_SIZE.used s + toyboxUnits q.frames
         ∧ (∀ keep id, (keep, id) ≠ (false, r.seq) → seqAt keep id t = seqAt keep id s)
         ∧ s.SameRegs [SRV_TOYBOX_SIZE] t ∧ t = { s with regs := t.regs, srv := { s.srv with seqs := t.srv.seqs } })
     ∧ (r.op = 1 → rd SRV_TOYBOX_BASE.en s = 0 ∨ rd SRV_TOYBOX_SIZE.size s < rd SRV_TOYBOX_SIZE.used s + toyboxUnits q.frames →
       ∃ t, exec (.opPause (table.castLE (by decide)) slot) s = .next t ∧ seqAt false r.seq t = some q ∧ reqAt r.key t = none
         ∧ byteAt t.hdm (slotAddr r.key s) = 5 ∧ byteAt t.hdm (slotAddr r.key s + 1) = 0x1B ∧ rd SRV_STAT.tbx_full t = 1
         ∧ s.SameRegs [SRV_STAT] t
         ∧ t = { s with regs := t.regs, hdm := t.hdm, srv := { s.srv with requests := t.srv.requests } })
     ∧ (r.op = 2 → ∃ t, exec (.opRelease (table.castLE (by decide)) slot) s = .next t
         ∧ seqAt false r.seq t = none ∧ reqAt r.key t = none
         ∧ ((∀ o ∈ s.srv.seqs, ∀ ms, o.place ≠ .waiting ms) →
             ∀ keep id, (keep, id) ≠ (false, r.seq) → seqAt keep id t = seqAt keep id s)
         ∧ (∀ key, key ≠ r.key → reqAt key t = reqAt key s)
         ∧ byteAt t.hdm (slotAddr r.key s) = 4 ∧ byteAt t.hdm (slotAddr r.key s + 1) = 4
         ∧ (∀ a, a < slotAddr r.key s ∨ slotAddr r.key s + 232 ≤ a ∨ (slotAddr r.key s + 2 ≤ a ∧ a < slotAddr r.key s + 192) →
             byteAt t.hdm a = byteAt s.hdm a)
         ∧ rd SRV_TOYBOX_SIZE.used t = rd SRV_TOYBOX_SIZE.used s - toyboxUnits q.toybox
         ∧ rd SRV_STAT.req_irq t = (if r.irq then 1 else rd SRV_STAT.req_irq s)
         ∧ s.SameRegs [SRV_TOYBOX_SIZE, SRV_STAT] t
         ∧ t = { s with regs := t.regs, hdm := t.hdm
                        srv := { s.srv with seqs := t.srv.seqs, requests := t.srv.requests, kv := t.srv.kv } }))
  ∧ (∀ (table : Fin 5) (slot : Fin 4096) (r : Request) (s : State), reqAt (4096 * table.val + slot.val) s = some r → 8 ≤ r.rejects →
       r.pauseLeft = 0 → ∃ t, exec (.specPauseEnd table slot) s = .next t
         ∧ reqAt (4096 * table.val + slot.val) t = some { r with probe := true }
         ∧ (∀ key, key ≠ 4096 * table.val + slot.val → reqAt key t = reqAt key s)
         ∧ t = { s with srv := { s.srv with requests := t.srv.requests } })

/-- The end of a copy to the Toybox frees the sequence's frames and starts its time to live, and a resumption that waited for a live
place starts its fetch; the end of a fetch brings the sequence back and gives the space back; a time to live that has run out ends the
sequence, whose id reads as expired, sets tbx_exp and is logged; one that has not run out changes nothing. -/
def Obligations.ToyboxTransfersAndExpiry : Prop :=
  ∀ (id : BitVec 16) (q : Sequence) (s : State), seqAt false id.toNat s = some q →
    (∀ ttl, q.place = .copying ttl none → rd GLB_STATE.state s ≠ 3 → rd GLB_STATE.rom_runner s = 0 → s.cxl.up = true → s.cxl.bme = true →
      ∃ t, exec (.toyboxCopyComplete id) s = .next t
        ∧ ((∀ o ∈ s.srv.seqs, ∀ ms, o.place ≠ .waiting ms) →
            seqAt false id.toNat t = some { q with place := .paused (s.now + ttl * 600000000), frames := 0 }
            ∧ ∀ keep j, (keep, j) ≠ (false, id.toNat) → seqAt keep j t = seqAt keep j s)
        ∧ (∀ o ms, s.srv.seqs = [q, o] → o.place = .waiting ms → o.mirror = false → (o.keep, o.id) ≠ (false, id.toNat) →
            t.srv.seqs = [{ q with place := .paused (s.now + ttl * 600000000), frames := 0 }, { o with place := .fetching ms }])
        ∧ t = { s with srv := { s.srv with seqs := t.srv.seqs } })
    ∧ (∀ ms, q.place = .fetching ms → rd GLB_STATE.state s ≠ 3 → rd GLB_STATE.rom_runner s = 0 → s.cxl.up = true → s.cxl.bme = true → s.srv.running.isSome = true →
      ∃ t, exec (.toyboxFetchComplete id) s = .next t
        ∧ seqAt false id.toNat t = some { q with place := .live, toybox := 0, frames := q.toybox }
        ∧ rd SRV_TOYBOX_SIZE.used t = rd SRV_TOYBOX_SIZE.used s - toyboxUnits q.toybox
        ∧ (∀ keep j, (keep, j) ≠ (false, id.toNat) → seqAt keep j t = seqAt keep j s)
        ∧ s.SameRegs [SRV_TOYBOX_SIZE] t
        ∧ t = { s with regs := t.regs, srv := { s.srv with seqs := t.srv.seqs, requests := t.srv.requests } })
    ∧ (∀ ends, q.place = .paused ends → s.now < ends → exec (.ttlExpiry id) s = .next s)
    ∧ (∀ ends, q.place = .paused ends → ends ≤ s.now → ∃ t, exec (.ttlExpiry id) s = .next t ∧ seqAt false id.toNat t = none
        ∧ t.srv.expired = s.srv.expired ++ [(id.toNat, false)] ∧ rd SRV_STAT.tbx_exp t = 1
        ∧ rd SRV_TOYBOX_SIZE.used t = rd SRV_TOYBOX_SIZE.used s - toyboxUnits q.toybox
        ∧ codesJoin s t [0x0072]
        ∧ (∀ keep j, (keep, j) ≠ (false, id.toNat) → seqAt keep j t = seqAt keep j s)
        ∧ s.SameRegs [SRV_STAT, SRV_TOYBOX_SIZE] t
        ∧ t = { s with regs := t.regs, reports := t.reports
                       srv := { s.srv with seqs := t.srv.seqs, kv := t.srv.kv, expired := t.srv.expired } })

/-! ## The host link and accesses -/

/-- The link comes up at a width and speed it can train at, once no reset holds it; it goes down without any other effect on the part; a
hot reset brings the configuration registers and the HDM decoders to their reset values as well. Bus Master Enable, the device state and
ASPM L1 follow their writes, and nothing else changes. In D3hot no access of the host to the BARs is accepted: each is answered as an
unsupported request and changes nothing else. -/
def Obligations.HostLinkUpAndDown : Prop :=
  ((∀ (width : Fin 17) (speed : Fin 33) (s : State), width.val ∈ [4, 8, 16] → speed.val ∈ [16, 32] → s.pins.porN = true →
     s.pins.perstN = true → s.boot.held = false → s.cxl.up = false →
     ∃ t, exec (.cxlLinkTrained width speed) s = .next t
       ∧ t.cxl = { s.cxl with up := true, everUp := true, width := width.val, speed := speed.val }
       ∧ codesJoin s t [0x00D0]
       ∧ t = { s with cxl := t.cxl, reports := t.reports })
   ∧ (∀ s : State, s.cxl.up = true →
     (∃ t, exec .linkDown s = .next t ∧ t.cxl = { s.cxl with up := false, width := 0, speed := 0 }
       ∧ codesJoin s t [0x00D0]
       ∧ t = { s with cxl := t.cxl, reports := t.reports })
     ∧ ∃ t, exec .hotReset s = .next t
       ∧ t.cxl = { s.cxl with up := false, width := 0, speed := 0, bme := false, decoders := [], notCommitted := [], d3hot := false
                              aspmL1 := false }
       ∧ codesJoin s t [0x00D0]
       ∧ t = { s with cxl := t.cxl, reports := t.reports })
   ∧ ∀ (c : PciConfig) (s : State), exec (.busMasterEnableChange c) s =
       .next { s with cxl := { s.cxl with bme := c.bme, d3hot := c.d3hot, aspmL1 := c.aspmL1 } })
  ∧ (∀ (w : Write) (off : BitVec 26) (poison : Bool) (r : Fin 52) (half : Half) (key deadline : BitVec 16) (slot : Fin 4) (n : Fin 256)
       (word : Fin 4) (addr : Fin 134217728) (data : List (Option Byte)) (offset : BitVec 32) (size len : Nat) (image : Option (List Byte))
       (s : State), w.who = .host → s.cxl.d3hot = true → rd MBX_STAT.busy s = 0 →
       ∀ c ∈ [Instr.registerWrite off w poison, .debugArm r w, .debugCancel r w, .debugDataRead .host r half, .recipeFlagPop r w,
           .zeroCntRead .host r half, .selfCalibration w, .scanRestart w, .refbufEnable w, .fifoFlush w, .fifoRead .host half, .passRequest w,
           .rattleRequest r w, .regionResetRequest r w, .load .host slot false false slot deadline, .retire .host slot deadline,
           .unload .host slot, .abort .host slot, .reload .host slot, .wldActiveWrite w, .costumeInstall w, .costumeRemove w, .pairLeave w,
           .pairRejoin w none, .enterTinSoldier .host key, .leaveTinSoldier .host key, .halt .host key, .warmResetCommand .host key,
           .scratchWrite .host addr data poison, .bitSetAliasWrite .host addr data, .bitClearAliasWrite .host addr data,
           .barAccessAbort false offset size false .host, .getInfo .host len, .recipeSet .host len, .nvmUpdateBegin .host len,
           .recovImageBegin .host len, .recovFetch w image, .icuClaim .host 4, .icuComplete .host 4 half w.data, .icuPendSet .host word half w.data,
           .icuClearPending .host word half w.data, .icuSrcCfgWrite n w, .ringStart w, .evtTailWrite w, .lcsRequest w, .attestationRequest w],
         exec c s = .next { s with out := .abort })

/-- An access to the HDM range, of the host over CXL.mem while HBM serves or of a master of the part: a write stores the bytes whose
enables are set and poisons or cleans its line; a read answers the line's 64 bytes, as poison where the line is bad. No other byte and no
register changes. A read by the host while Memory_Active reads 0 completes with poison. The save areas belong to the data movers and the
control cores, and to anyone in debug mode: an access of another master, or one past their end (the model's choice, log entry 150), is
refused and logged, and a read of it is zero. A read answers eight words of its image, a write replaces their enabled bytes, and no other
image changes. Host memory is reached by the part's masters only while the link is up and Bus Master Enable is set. An access to BAR0 that
is not 4 or 8 bytes at its own alignment, or one to BAR2 that leaves its line of 64 bytes, is aborted and logged; it has no other effect.
A decoder that is not locked commits a base and a size in units of 256 MiB, unskipped and one way, within the HDM range, the second only
after the first; a commit that breaks one of these leaves it uncommitted, with its error. A locked decoder stays. -/
def Obligations.MemoryAccessesAndDecoders : Prop :=
  ((∀ (a : MemAccess) (s : State), a.area = .hdm → 64 * a.line < hdmSize → a.who = .host → rd PWR_STATE.state s < 3 →
     s.cxl.memActive = false → a.write = false →
     exec (.cxlMemAccess a) s = .next { s with out := .poison (bytesAt s.hdm (64 * a.line) 64) })
   ∧ ∀ (a : MemAccess) (s : State), a.area = .hdm → 64 * a.line < hdmSize →
     (a.who = .host → rd PWR_STATE.state s < 3 ∧ s.cxl.memActive = true) →
     (a.write = false → exec (.cxlMemAccess a) s = .next { s with
       out := if lineBad a.line s then .poison (bytesAt s.hdm (64 * a.line) 64) else .bytes (bytesAt s.hdm (64 * a.line) 64) })
     ∧ (a.write = true → a.data.length = 64 → ∃ t, exec (.cxlMemAccess a) s = .next t
       ∧ (∀ x, byteAt t.hdm x =
           if 64 * a.line ≤ x then
             (match a.data[x - 64 * a.line]? with | some (some b) => b | _ => byteAt s.hdm x)
           else byteAt s.hdm x)
       ∧ (∀ l, l ≠ a.line → tget false t.hdmPoison l = tget false s.hdmPoison l)
       ∧ tget false t.hdmPoison a.line = (a.poison || (lineBad a.line s && a.data.any Option.isNone))
       ∧ t = { s with hdm := t.hdm, hdmPoison := t.hdmPoison, out := .none }))
  ∧ ((∀ (a : MemAccess) (s : State), a.area = .saves →
       (maySaves a.who s = false ∨ saveSlots ≤ a.line / 320 → ∃ t, exec (.cxlMemAccess a) s = .next t ∧ codesJoin s t [0x0002]
         ∧ (a.write = false → t.out = .bytes (List.replicate 64 0)) ∧ t = { s with out := t.out, reports := t.reports })
       ∧ (maySaves a.who s = true → a.line / 320 < saveSlots →
         (a.write = false → exec (.cxlMemAccess a) s = .next { s with out := .bytes ((List.range 8).flatMap fun i =>
           leBytes 8 ((savedImage (a.line / 320) s).getD (a.line % 320 * 8 + i) 0).toNat) })
         ∧ (a.write = true → ∃ t, exec (.cxlMemAccess a) s = .next t
           ∧ savedImage (a.line / 320) t = writeSave (savedImage (a.line / 320) s) (a.line % 320 * 8) a.data
           ∧ (∀ j, j ≠ a.line / 320 → savedImage j t = savedImage j s)
           ∧ t = { s with saves := t.saves, srv := { s.srv with running := t.srv.running, done := t.srv.done } })))
     ∧ ∀ (a : MemAccess) (s : State), a.area = .hostMemory →
       (a.who ≠ .host → (s.cxl.up && s.cxl.bme) = false → exec (.cxlMemAccess a) s = .next s)
       ∧ ((a.who = .host ∨ s.cxl.up = true ∧ s.cxl.bme = true) →
         (a.write = false → exec (.cxlMemAccess a) s = .next { s with out := .bytes (bytesAt s.host (64 * a.line) 64) })
         ∧ (a.write = true → a.data.length = 64 → ∃ t, exec (.cxlMemAccess a) s = .next t
           ∧ (∀ x, byteAt t.host x = if 64 * a.line ≤ x then
               (match a.data[x - 64 * a.line]? with | some (some b) => b | _ => byteAt s.host x) else byteAt s.host x)
           ∧ t = { s with host := t.host })))
  ∧ (∀ (bar2 : Bool) (offset : BitVec 32) (size : Nat) (write : Bool) (who : Master) (s : State), barClosed who s = false →
       (bar2 = true → 64 < offset.toNat % 64 + size) →
       (bar2 = false → (offset.toNat < 0x3000000 ∨ 0x3010000 ≤ offset.toNat) ∧ (size ∉ [4, 8] ∨ offset.toNat % size ≠ 0)) →
       ∃ t, exec (.barAccessAbort bar2 offset size write who) s = .next t ∧ t.out = .abort
         ∧ codesJoin s t [0x0004]
         ∧ t = { s with out := t.out, reports := t.reports })
  ∧ (∀ (d : Fin 2) (base size ways skip : Nat) (lock : Bool) (s : State),
       ((∃ b n, decoderAt d s = some (b, n, true)) → exec (.hdmDecoderCommit d base size ways skip lock) s = .next s)
       ∧ ((∀ b n, decoderAt d s ≠ some (b, n, true)) →
         ∃ t, exec (.hdmDecoderCommit d base size ways skip lock) s = .next t
           ∧ (decoderAt d t = some (base, size, lock) ↔
               268435456 ∣ base ∧ 268435456 ∣ size ∧ 0 < size ∧ ways = 1 ∧ skip = 0
                 ∧ size + ((decoderAt (1 - d.val) s).map fun x => x.2.1).getD 0 ≤ 8589934592 ∧ (d.val = 0 ∨ (decoderAt 0 s).isSome = true))
           ∧ (decoderAt d t = none ↔ d.val ∈ t.cxl.notCommitted) ∧ (decoderAt d t = none ∨ decoderAt d t = some (base, size, lock))
           ∧ decoderAt (1 - d.val) t = decoderAt (1 - d.val) s
           ∧ t = { s with cxl := { s.cxl with decoders := t.cxl.decoders, notCommitted := t.cxl.notCommitted } }))

/-! ## The mailbox -/

/-- GET_INFO answers its 32 bytes. A command that its writer or the part's state does not allow, or of a wrong length, completes with its
status and no output. RECIPE_SET with valid entries stages each of them, for the step it names or for the next one to start, and answers
that step. A target step that has begun is refused with status 6, an invalid entry with status 4, and neither stages anything. -/
def Obligations.InfoAndRecipeCommandsAnswer : Prop :=
  (∀ (len : Nat) (s : State), mbxFree s → rd GLB_STATE.state s ≤ 5 →
     (len = 0 → ∃ t, exec (.getInfo .host len) s = .next t ∧ mbxDone s t 0 32 ∧ (∀ i, i < 32 → mbxByte i t = (infoBytes s).getD i 0)
       ∧ sameOutsideMbx [] s t ∧ t = { s with regs := t.regs })
     ∧ (0 < len → len < 8192 → ∃ t, exec (.getInfo .host len) s = .next t ∧ mbxDone s t 2 0 ∧ sameOutsideMbx [] s t
       ∧ t = { s with regs := t.regs })
     ∧ ∀ n, ∃ t, exec (.getInfo (.core n) 0) s = .next t ∧ mbxDone s t 3 0 ∧ sameOutsideMbx [] s t ∧ t = { s with regs := t.regs })
  ∧ (∀ (n : Nat) (s : State), mbxFree s → (rd GLB_STATE.state s = 2 ∨ rd GLB_STATE.state s = 3) → hostManages s = true → n = mbxNat 0 2 s →
       0 < n → n ≤ 1020 → mbxNat 2 1 s ≤ 1 → mbxNat 3 5 s = 0 →
       ((∃ i, i < n ∧ recipeEntryOk (recipeEntry i s) s = false) → ∃ t, exec (.recipeSet .host (16 + 4 * n)) s = .next t ∧ mbxDone s t 4 0
         ∧ sameOutsideMbx [] s t ∧ t = { s with regs := t.regs })
       ∧ ((∀ i, i < n → recipeEntryOk (recipeEntry i s) s = true) →
         (mbxNat 2 1 s = 1 → mbxNat 8 8 s ≤ s.srv.highest → ∃ t, exec (.recipeSet .host (16 + 4 * n)) s = .next t ∧ mbxDone s t 6 0
           ∧ sameOutsideMbx [] s t ∧ t = { s with regs := t.regs })
         ∧ ((mbxNat 2 1 s = 1 → s.srv.highest < mbxNat 8 8 s) →
           ∃ t step, exec (.recipeSet .host (16 + 4 * n)) s = .next t ∧ mbxDone s t 0 8
             ∧ step = (if mbxNat 2 1 s = 1 then mbxNat 8 8 s else s.srv.highest + 1) ∧ mbxNat 0 8 t = step % 2 ^ 64
             ∧ t.srv.stagedRecipes = s.srv.stagedRecipes ++ (List.range n).map (fun i =>
                 (step, (recipeEntry i s).1, (recipeEntry i s).2.1, (recipeEntry i s).2.2 == 1))
             ∧ sameOutsideMbx [] s t ∧ t = { s with regs := t.regs, srv := { s.srv with stagedRecipes := t.srv.stagedRecipes } })))

/-- An update of the boot NVM: BEGIN makes the item absent in the header and opens it, the other items as before, DATA programs the next
part at its place, END enters the length of a complete item that passes its check into the header; one that is incomplete or fails stays
absent, with status 5 and BOOT_STAT.nvm_err. -/
def Obligations.NvmUpdates : Prop :=
  ∀ s : State, mbxFree s → rd GLB_STATE.state s ∈ [2, 3, 4] →
    (s.boot.update = none → nvmUsable s = true → mbxNat 0 1 s ∈ [1, 2, 3] → mbxNat 1 3 s = 0 →
      mbxNat 4 4 s ≤ itemRoom (mbxNat 0 1 s) s.nv.nvm →
      ∃ t, exec (.nvmUpdateBegin .host 8) s = .next t ∧ mbxDone s t 0 0 ∧ t.boot.update = some ⟨mbxNat 0 1 s, mbxNat 4 4 s, []⟩
        ∧ rd BOOT_NVM_CTL.item t = mbxNat 0 1 s ∧ nvmItem (mbxNat 0 1 s) t.nv.nvm = none
        ∧ (∀ j ∈ [1, 2, 3], j ≠ mbxNat 0 1 s → nvmItem j t.nv.nvm = nvmItem j s.nv.nvm)
        ∧ sameOutsideMbx [BOOT_NVM_CTL] s t
        ∧ t = { s with regs := t.regs, nv := { s.nv with nvm := t.nv.nvm }, boot := { s.boot with update := t.boot.update } })
    ∧ (∀ u len, s.boot.update = some u → 8 ≤ len → len ≤ 4096 → mbxNat 0 4 s = u.data.length → mbxNat 4 4 s = 0 →
      u.data.length + (len - 8) ≤ u.length →
      ∃ t, exec (.nvmUpdateData .host len false) s = .next t ∧ mbxDone s t 0 0
        ∧ t.boot = { s.boot with update := some { u with data := u.data ++ mbxData len s } }
        ∧ nvmBytes t.nv.nvm (itemOffset u.item s.nv.nvm + u.data.length) (len - 8) = mbxData len s
        ∧ sameOutsideMbx [BOOT_NVM_CTL] s t
        ∧ t = { s with regs := t.regs, boot := t.boot, nv := { s.nv with nvm := t.nv.nvm } })
    ∧ (∀ u page, s.boot.update = some u → u.length ≤ u.data.length → u.data.length < 2 ^ 32 →
      (u.item = 1 ∧ imageCode (parseImage u.data) s = 0 ∨ u.item = 2 ∧ recordCode (parseRecord u.data) s = 0) →
      ∃ t, exec (.nvmUpdateEnd .host 0 false page) s = .next t ∧ mbxDone s t 0 0 ∧ t.boot = { s.boot with update := none }
        ∧ itemLength u.item t.nv.nvm = u.data.length ∧ itemOffset u.item t.nv.nvm = itemOffset u.item s.nv.nvm
        ∧ rd BOOT_STAT.nvm_done t = 1 ∧ rd BOOT_NVM_CTL.item t = 0 ∧ sameOutsideMbx [BOOT_NVM_CTL, BOOT_STAT] s t
        ∧ t = { s with regs := t.regs, boot := t.boot, nv := { s.nv with nvm := t.nv.nvm } })
    ∧ (∀ u page, s.boot.update = some u →
      u.data.length < u.length ∨ u.item = 1 ∧ imageCode (parseImage u.data) s ≠ 0 ∨ u.item = 2 ∧ recordCode (parseRecord u.data) s ≠ 0 →
      ∃ t, exec (.nvmUpdateEnd .host 0 false page) s = .next t ∧ mbxDone s t 5 0
        ∧ t.boot = { s.boot with update := none } ∧ rd BOOT_STAT.nvm_err t = 1 ∧ sameOutsideMbx [BOOT_NVM_CTL, BOOT_STAT] s t
        ∧ t = { s with regs := t.regs, boot := t.boot })

/-- A recovery image: BEGIN opens its stream, DATA takes the next part, and the complete image, or the one fetched from host memory, runs
where its key and signature are good; one whose key hash is wrong is refused with error 3. Here the NVM's header is bad, so firmware
finds no record in it. -/
def Obligations.RecoveryImages : Prop :=
  ∀ s : State, mbxFree s → rd GLB_STATE.state s = 4 →
    (rd BOOT_RECOV_CTL.state s ≠ 4 → mbxNat 0 4 s ≤ 33554432 → mbxNat 4 4 s = 0 → ∃ t, exec (.recovImageBegin .host 8) s = .next t
      ∧ mbxDone s t 0 0 ∧ t.boot = { s.boot with recov := some ⟨0, mbxNat 0 4 s, []⟩ } ∧ rd BOOT_RECOV_CTL.state t = 1
      ∧ rd BOOT_RECOV_CTL.bytes t = 0 ∧ sameOutsideMbx [BOOT_RECOV_CTL] s t ∧ t = { s with regs := t.regs, boot := t.boot })
    ∧ (∀ u len, s.boot.recov = some u → 8 ≤ len → len ≤ 4096 → mbxNat 0 4 s = u.data.length → mbxNat 4 4 s = 0 →
      u.data.length + (len - 8) ≤ u.length →
      ∃ t, exec (.recovImageData .host len) s = .next t ∧ mbxDone s t 0 0
        ∧ t.boot = { s.boot with recov := some { u with data := u.data ++ mbxData len s } } ∧ sameOutsideMbx [BOOT_RECOV_CTL] s t
        ∧ t = { s with regs := t.regs, boot := t.boot })
    ∧ (∀ (c : Instr) (b : List Byte) (i : FwImage), i = parseImage b → b.length ≤ 33554432 → headerUsable s.nv.nvm = false →
      ((∃ u, s.boot.recov = some u ∧ u.length ≤ u.data.length ∧ u.data = b ∧ c = .recovImageRun .host 0)
        ∨ rd BOOT_RECOV_CTL.state s ≠ 4 ∧ s.cxl.up = true ∧ s.cxl.bme = true ∧ c = .recovFetch ⟨.host, .full, 8⟩ (some b)) →
      (i.keyHash ≠ s.nv.fwKeyHash → ∃ t, exec c s = .next t ∧ rd BOOT_RECOV_CTL.state t = 5 ∧ rd BOOT_RECOV_CTL.err t = 3
        ∧ sameOutsideMbx [BOOT_RECOV_CTL] s t)
      ∧ (i.keyHash = s.nv.fwKeyHash → i.signatureOk = true → i.magicOk = true → ∃ t, exec c s = .next t
        ∧ rd BOOT_RECOV_CTL.state t = 4 ∧ rd BOOT_RECOV_CTL.err t = 0 ∧ t.boot.imageDigest = i.digest ∧ rd BOOT_STAT.img_ok t = 1
        ∧ rd BOOT_STAT.src t = 1 ∧ (rd MCV_REFBUF.settled s = 0 → rd BOOT_STAT.stage t = 3)
        ∧ rd BOOT_IMG_INFO.fw_version t = i.fwVersion.toNat ∧ t.nv = s.nv))

/-! ## Resets and boot -/

/-- While POR_N is low the part is at its reset values, but for what fuses, security block, boot NVM and cells hold, and the fault record
and block journals in them. -/
def Obligations.PorRestoresTheResetValues : Prop :=
  ∀ s : State, ∃ t, exec .porNAssert s = .next t ∧ t.pins = { s.pins with porN := false, tripLatch := false }
    ∧ t.scr = [] ∧ t.hdm = [] ∧ t.scrPoison = [] ∧ t.hdmPoison = [] ∧ t.host = s.host ∧ t.nv = s.nv ∧ t.cells = s.cells
    ∧ t.srv = Serving.init ∧ t.evt = Evt.init ∧ t.sec = Sec.init ∧ t.boot = Boot.init ∧ t.cxl = Cxl.init ∧ t.pair = Pair.init
    ∧ t.mcv = Mcv.init ∧ t.icu = ⟨0, 0, 0⟩ ∧ t.reports = [] ∧ t.tin.model = s.tin.model
    ∧ rd GLB_STATE.state t = 0
    ∧ ∀ off, off ∉ CHK_RETIRED :: GLB_STATE :: WLD_STAT :: (List.range 4).map WLD_GEN ++ (List.range 52).map RGN_STATE ++ (List.range 12).map MEM_HBM_STAT
        → t.reg off = regPor off

/-- The boot ROM after POR_N rises or a held warm reset is released: a scrapped part halts with cause 5; without a good image in the boot
NVM the part is in RECOVERY with the code of the failure; with one, firmware runs it and the boot is at stage 3, further on only where
the reference buffer has settled. -/
def Obligations.TheBootRomLooksForAnImage : Prop :=
  ∀ (c : Instr) (s : State), (c = .por ∧ s.pins.porN = false ∨ c = .warmResetRelease ∧ s.pins.porN = true ∧ s.boot.held = true) →
    (s.nv.lcs = 4 → ∃ t, exec c s = .next t ∧ t.pins.porN = true ∧ rd GLB_STATE.state t = 5 ∧ rd GLB_STATE.halt_cause t = 5)
    ∧ (s.nv.lcs < 3 → ∀ code, findImage s = .error code → ∃ t, exec c s = .next t ∧ t.pins.porN = true ∧ rd GLB_STATE.state t = 4
      ∧ rd BOOT_STAT.img_fail t = 1 ∧ rd BOOT_STAT.code t = code ∧ rd BOOT_STAT.recov_ready t = 1 ∧ t.boot.held = false ∧ t.nv = s.nv)
    ∧ (s.nv.lcs < 3 → ∀ i, findImage s = .ok i → nvmItem 2 s.nv.nvm = none → nvmItem 3 s.nv.nvm = none → ∃ t, exec c s = .next t
      ∧ t.pins.porN = true ∧ rd BOOT_STAT.img_ok t = 1 ∧ (c = .por ∨ rd MCV_REFBUF.settled s = 0 → rd BOOT_STAT.stage t = 3)
      ∧ t.boot.imageDigest = i.digest
      ∧ rd BOOT_IMG_INFO.fw_version t = i.fwVersion.toNat ∧ t.boot.held = false ∧ t.boot.lcs = s.nv.lcs ∧ t.nv = s.nv)

/-- A warm reset, by WRST_N, by PERST_N once the link has been up, or by its command while no pin holds it: no request, step, pair or
transition is left, and the boot is a warm one; the pins hold it, the command boots at once. -/
def Obligations.WarmResets : Prop :=
  (∀ (c : Instr) (s : State), s.pins.porN = true → s.boot.held = false →
    (c = .warmReset ∨ c = .perstNAssert ∧ s.cxl.everUp = true) →
    ∃ t, exec c s = .next t ∧ t.boot.held = true ∧ t.boot.warm = true ∧ rd GLB_STATE.state t = 0 ∧ t.srv.requests = []
      ∧ t.srv.running = none ∧ t.srv.done = [] ∧ t.srv.voids = [] ∧ t.icu = ⟨0, 0, 0⟩ ∧ t.pair = Pair.init ∧ t.cxl.up = false
      ∧ t.sec.transition = none ∧ (∀ a, 0x7800000 ≤ a → byteAt t.scr a = 0)
      ∧ (c = .warmReset → t.pins = { s.pins with wrstN := false }) ∧ (c = .perstNAssert → t.pins = { s.pins with perstN := false }))
  ∧ ∀ (who : Master) (s : State), reaches who s → rd PWR_STATE.state s = 0 → s.pins.wrstN = true → s.pins.perstN = true →
    ∃ t, exec (.warmResetCommand who 0x0650) s = .next t ∧ t.boot.held = false ∧ t.boot.warm = true ∧ t.srv.requests = []
      ∧ t.srv.running = none ∧ t.pair = Pair.init ∧ t.sec.transition = none

/-- The end of CAL: without a Tin Soldier cause the part serves, with the lockable fields locked unless the life-cycle state leaves them
open; here no table is enabled and nothing was left over. -/
def Obligations.CalibrationEndsInService : Prop :=
  ∀ s : State, rd BOOT_STAT.stage s = 4 → s.tin.reprogram = [] → s.nv.erase = false → rd GLB_STATE.state s = 1 →
    rd GLB_STATE.tin_cause s = 0 → (rd BOOT_STAT.no_tin s = 1 ∨ rd (WLD_GEN.state 0) s = 2) → junction s < deg (rd THM_CFG.tin_c s) →
    s.pins.railsOut = [] → s.srv.requests = [] → s.srv.seqs = [] → rd SRV_CTL.tbl_en s = 0 →
    rd GLB_STATE.rom_runner s = 0 → (∀ i, i < tableSlots 4 s → slotState (16384 + i) s ≠ 2 ∧ slotState (16384 + i) s ≠ 3) →
    rd PWR_STATE.state s = 0 →
    ∃ t, exec .calEnd s = .next t ∧ rd GLB_STATE.state t = 2 ∧ rd BOOT_STAT.stage t = 5
      ∧ rd BOOT_STAT.boot_ms t = (s.now - s.boot.start) / 600000 % 2 ^ BOOT_STAT.boot_ms.w
      ∧ rd BOOT_STAT.lock t = (if s.boot.lcs = 2 ∨ s.boot.lcs = 3 then rd BOOT_STAT.lock s else 1)
      ∧ rd GLB_STATE.rom_runner t = 0 ∧ t.nv = s.nv ∧ t.srv = s.srv ∧ s.SameMemory t

/-- Loss of the PLL's lock is a clock glitch: the secure part is wiped, the running step is void and its reads are gone. The lock that
comes back within time only shows; without it the part halts with cause 2. A watchdog expiry changes nothing. -/
def Obligations.PllAndWatchdog : Prop :=
  ∀ s : State,
    (rd CLK_ROOT_STAT.lock s = 1 → ∃ t, exec .pllLockLoss s = .next t ∧ rd CLK_ROOT_STAT.lock t = 0 ∧ rd PWR_STATE.clk_err t = 1
      ∧ rd CLK_ROOT_STAT.unlocks t = min (rd CLK_ROOT_STAT.unlocks s + 1) (2 ^ CLK_ROOT_STAT.unlocks.w - 1)
      ∧ t.sec.wiping = true ∧ t.nv = { s.nv with tamperCount := s.nv.tamperCount + 1, tamperLast := 3 }
      ∧ (s.srv.running = none → t.srv.running = none)
      ∧ (∀ u, s.srv.running = some u → t.srv.running = some { u with void := true, reads := 0 })
      ∧ (∀ a, byteAt t.scr a = if a < 0x7800000 then byteAt s.scr a else 0)
      ∧ s.SameRegs [CLK_ROOT_STAT, PWR_STATE, SEC_TAMPER_STAT, SEC_WIPE_STAT, SEC_ATTEST_CMD] t ∧ t.hdm = s.hdm ∧ t.host = s.host)
    ∧ (rd CLK_ROOT_STAT.lock s = 0 → s.pins.porN = true →
      (∀ us, ∃ t, exec (.pllRelock us) s = .next t ∧ rd CLK_ROOT_STAT.lock t = 1 ∧ s.SameRegs [CLK_ROOT_STAT] t
        ∧ t = { s with regs := t.regs, boot := { s.boot with lockUs := us } })
      ∧ (rd GLB_STATE.state s ≠ 5 → ∃ t, exec .relockTimeout s = .next t ∧ rd GLB_STATE.state t = 5 ∧ rd GLB_STATE.halt_cause t = 2))
    ∧ ∀ p, exec (.watchdogExpiry p) s = .next s

/-! ## Registers -/

/-- A write to a register without an effect of its own follows the access codes of its fields: RW bits that it covers take the data, W1C
bits that it covers with 1 clear, and every other bit stays. A write at an offset that holds no register, or by a master that may not
write, is ignored and logged; a poisoned one is discarded, logged, and sets an uncorrectable status. -/
def Obligations.RegisterWritesFollowTheAccessCodes : Prop :=
  ∀ (off : Nat) (w : Write) (s : State),
    off ∈ [SRV_STEP_BUDGET, SRV_CHUNK, SRV_SCAN, SMP_SPEC, THM_STAT, PWR_POLICY, CHK_STAT, CHK_SHADOW_RATE, EVT_TELEM_CAP] →
    (reaches w.who s → ∃ t row, exec (.registerWrite (BitVec.ofNat 26 off) w false) s = .next t ∧ rowOf off = some row
      ∧ (∀ f ∈ row.fields, ∀ i, f.lo ≤ i → i < f.lo + f.width →
          (t.reg off).getLsbD i =
            (if f.acc = .rw ∧ (wmask w).getLsbD i = true then w.data.getLsbD i
             else if f.acc = .w1c ∧ (wdata w).getLsbD i = true then false else (s.reg off).getLsbD i))
      ∧ s.SameRegs [off] t ∧ t = { s with regs := t.regs })
    ∧ (mayWrite w.who = false → ∃ t, exec (.registerWrite (BitVec.ofNat 26 off) w false) s = .next t
      ∧ codesJoin s t [0x0002] ∧ t = { s with reports := t.reports })
    ∧ (∀ o : BitVec 26, barClosed w.who s = false → (o.toNat < 0x3000000 ∨ 0x3010000 ≤ o.toNat) → rowOf o.toNat = none →
      ∃ t, exec (.registerWrite o w false) s = .next t
        ∧ codesJoin s t [0x0002] ∧ t = { s with reports := t.reports })
    ∧ ∀ o : BitVec 26, barClosed w.who s = false → ∃ t, exec (.registerWrite o w true) s = .next t
      ∧ codesJoin s t [0x00D1]
      ∧ t = { s with reports := t.reports, cxl := { s.cxl with uncorr := true } }

/-- A block read over SMBus answers the register its code names as a read of BAR0 would, while POR_N is high; any other code, and any
while POR_N is low, is refused. -/
def Obligations.SmbusReadsRegisters : Prop :=
  ∀ (code : BitVec 8) (s : State),
    (∀ off, s.pins.porN = true →
      ((code, off) ∈ [((0x00 : BitVec 8), GLB_ID), (0x01, GLB_STATE), (0x02, GLB_SUMMARY), (0x03, THM_BAND), (0x04, THM_STAT)]
        ∨ 0x10 ≤ code.toNat ∧ code.toNat ≤ 0x44 ∧ off = THM_SENSOR (code.toNat - 0x10)) →
      exec (.smbusBlockRead code) s = .next { s with out := .word (readReg off s) })
    ∧ ((s.pins.porN = false ∨ 4 < code.toNat ∧ (code.toNat < 0x10 ∨ 0x44 < code.toNat)) →
      exec (.smbusBlockRead code) s = .next { s with out := .nack })

/-! ## Power and temperatures -/

/-- Every wake reaches PS0 with its cause, and counts: the scheduled one from its instant on, a wake event from the states it wakes from,
a comparator in PS4. From PS1 and PS2 nothing else changes; from PS3 and PS4 HBM leaves self-refresh and the buffered events are staged.
A due time that has come opens its context's window for hold_ms, and the windows that have lasted that long close; a part deeper than PS1
at a due time is late and wakes. A due time that has not come changes nothing. -/
def Obligations.WakesAndDueWindows : Prop :=
  (∀ (c : Instr) (st cause : Nat) (s : State), st = rd PWR_STATE.state s → 1 ≤ st → st ≤ 4 →
     (c = .scheduledWake ∧ (∃ x, s.pwr.scheduled = some x ∧ x ≤ s.now) ∧ cause = 1
       ∨ c = .wakeEvent .postedSlot ∧ st ≤ 2 ∧ cause = 2 ∨ c = .wakeEvent .memAccess ∧ 3 ≤ st ∧ cause = 3
       ∨ c = .wakeEvent .registerWrite ∧ cause = 4 ∨ c = .wakeEvent .powerFloor ∧ cause = 5 ∨ c = .wakeEvent .thermal ∧ cause = 6
       ∨ c = .wakeEvent .linkTraining ∧ 3 ≤ st ∧ cause = 7 ∨ (∃ n, c = .ps4WakeComparator n) ∧ st = 4 ∧ cause = 6) →
     ∃ t, exec c s = .next t ∧ rd PWR_STATE.state t = 0 ∧ rd PWR_STATE.target t = 0 ∧ rd PWR_STATE.cause t = cause
       ∧ rd PWR_STATE.wakes t = (rd PWR_STATE.wakes s + 1) % 2 ^ 32 ∧ t.pwr.scheduled = none ∧ t.pwr.since = s.now
       ∧ (st ≤ 2 → s.SameRegs [PWR_STATE] t
           ∧ t = { s with regs := t.regs, pwr := { s.pwr with idleScans := 0, scheduled := none, since := s.now } })
       ∧ (3 ≤ st → (∀ k : Fin 12, rd (MEM_HBM_STAT.sr k) t = 0) ∧ t.evt.staged = s.evt.staged ++ s.evt.buffer ∧ t.evt.buffer = []
           ∧ t.cxl.held = [] ∧ (s.cxl.held = [] → s.SameMemory t))
       ∧ (st = 4 → rd MCV_REFBUF.en t = 1 ∧ rd MCV_REFBUF.settled t = 0 ∧ rd MCV_CTL.run t = 1))
  ∧ ((∀ (ctx : Fin 4096) (s : State), (∀ d ∈ s.pwr.dues, d.1 = ctx.val → s.now < d.2) → exec (.dueTime ctx) s = .next s)
     ∧ (∀ (ctx : Fin 4096) (s : State), (∃ d ∈ s.pwr.dues, d.1 = ctx.val ∧ d.2 ≤ s.now) →
       ∃ t, exec (.dueTime ctx) s = .next t ∧ rd PWR_STATE.due_open t = 1 ∧ t.pwr.open_ = s.pwr.open_ ++ [(ctx.val, s.now + rd PWR_POLICY.hold_ms s * 600000)]
         ∧ t.pwr.dues = s.pwr.dues.filter (fun d => d.1 != ctx.val)
         ∧ (rd PWR_STATE.state s ≤ 1 → rd PWR_STATE.late t = rd PWR_STATE.late s ∧ s.SameRegs [PWR_STATE] t
             ∧ t = { s with regs := t.regs, pwr := { s.pwr with dues := t.pwr.dues, open_ := t.pwr.open_ } })
         ∧ (2 ≤ rd PWR_STATE.state s → rd PWR_STATE.late t = 1 ∧ rd PWR_STATE.state t = 0 ∧ rd PWR_STATE.cause t = 1))
     ∧ ∀ s : State, ∃ t, exec .dueWindowClose s = .next t ∧ t.pwr = { s.pwr with open_ := s.pwr.open_.filter fun w => decide (s.now < w.2) }
       ∧ (rd PWR_STATE.due_open t = 1 ↔ ∃ w ∈ s.pwr.open_, s.now < w.2) ∧ s.SameRegs [PWR_STATE] t
       ∧ t = { s with regs := t.regs, pwr := t.pwr })

/-- The throttle level rises by one while T_j stays at or above the threshold, up to 3, and falls by one while it stays 3 °C below it;
the core divider follows the level. -/
def Obligations.ThrottlingFollowsTheJunction : Prop :=
  ∀ s : State,
    (throttleTemp s ≤ junction s → rd THM_STAT.level s < 3 → ∃ t, exec .throttleStepUp s = .next t
      ∧ rd THM_STAT.level t = rd THM_STAT.level s + 1 ∧ rd THM_STAT.throttled t = 1
      ∧ rd CLK_DIV.core t = coreDivider (rd THM_STAT.level s + 1) ∧ s.SameRegs [THM_STAT, CLK_DIV] t ∧ t = { s with regs := t.regs })
    ∧ (throttleTemp s ≤ junction s → rd THM_STAT.level s = 3 → exec .throttleStepUp s = .next s)
    ∧ (junction s ≤ throttleTemp s - deg 3 → 0 < rd THM_STAT.level s → ∃ t, exec .throttleStepDown s = .next t
      ∧ rd THM_STAT.level t = rd THM_STAT.level s - 1 ∧ rd CLK_DIV.core t = coreDivider (rd THM_STAT.level s - 1)
      ∧ rd THM_STAT.throttled t = rd THM_STAT.throttled s ∧ s.SameRegs [THM_STAT, CLK_DIV] t ∧ t = { s with regs := t.regs })

/-- A sensor that becomes suspect, or stops being one, shows it in THM_SENSOR and THM_SUSPECT, is logged, and every effective temperature
is formed anew: a suspect sensor's from its neighbours. It becomes suspect without a valid sample for 500 ms, or more than 6 °C from the
median of its neighbours, and stops being suspect within 3 °C of it. Here the part does not serve yet and is awake. -/
def Obligations.SuspectSensorsAreReplaced : Prop :=
  ∀ (c : Instr) (n : Fin 53) (suspect : Bool) (s : State), rd GLB_STATE.state s < 2 → rd PWR_STATE.state s = 0 →
    (rd (THM_SENSOR.suspect n) s = 0 ∧ suspect = true
        ∧ (c = .sensorStale n ∧ max (tget 0 s.thm.validAt n) s.thm.ratesFrom + 300000000 ≤ s.now
          ∨ c = .sensorSuspect n ∧ ∃ d, medianGap n s = some d ∧ 6 * 64 < d)
      ∨ rd (THM_SENSOR.suspect n) s = 1 ∧ suspect = false ∧ c = .sensorCleared n ∧ ∃ d, medianGap n s = some d ∧ d ≤ 3 * 64) →
    ∃ t, exec c s = .next t ∧ rd (THM_SENSOR.suspect n) t = suspect.toNat ∧ (t.reg THM_SUSPECT_0).getLsbD n = suspect
      ∧ (∀ m : Fin 53, m ≠ n → rd (THM_SENSOR.suspect m) t = rd (THM_SENSOR.suspect m) s
          ∧ (t.reg THM_SUSPECT_0).getLsbD m = (s.reg THM_SUSPECT_0).getLsbD m)
      ∧ (suspect = true → rd THM_STAT.suspect t = 1 ∧ (t.reg THM_SUSPECT_1).getLsbD n = true)
      ∧ (c = .sensorStale n → rd (THM_SENSOR.valid n) t = 0)
      ∧ (∀ m : Fin 53, rd (THM_SENSOR.temp m) t = rd (THM_SENSOR.temp m) s
          ∧ rds (THM_SENSOR.eff m) t = max (-32768) (min (effective m t + guardTemp t) 32767))
      ∧ codesJoin s t [Config.unlistedCode 475]
      ∧ t = { s with regs := t.regs, thm := { s.thm with holds := t.thm.holds }, reports := t.reports }

/-! ## Operating state -/

/-- An enter command, or a supply out of range, brings a part that serves, here with no request and nothing in flight, into Tin Soldier
mode with its cause. -/
def Obligations.TinSoldierModeIsEntered : Prop :=
  ∀ (c : Instr) (bit : Nat) (s : State), rd GLB_STATE.state s = 2 → rd PWR_STATE.state s = 0 → s.srv.requests = [] → s.srv.seqs = [] →
    s.srv.running = none → s.srv.done = [] → s.srv.voids = [] → rd PAIR_STAT.state s ≠ 3 → rd PAIR_STAT.state s ≠ 6 →
    (rd (RGN_STATE.unusable 50) s = 0 ∨ rd (RGN_STATE.unusable 51) s = 0) →
    (∀ i, i < tableSlots 4 s → slotState (16384 + i) s = 0) →
    (c = .enterTinSoldier .host 0x0650 ∧ s.cxl.d3hot = false ∧ bit = 5 ∨ (∃ rail, c = .supplyOutOfRange rail) ∧ bit = 3) →
    ∃ t, exec c s = .next t ∧ rd GLB_STATE.state t = 3 ∧ (∀ b, b < 6 → tinBit b t = (tinBit b s || b == bit))
      ∧ rd PWR_STATE.tin t = 1 ∧ rd GLB_STATE.changes t = (rd GLB_STATE.changes s + 1) % 2 ^ 32
      ∧ (bit = 5 → rd GLB_CMD.status t = 0)
      ∧ (∀ rail : Fin 8, c = .supplyOutOfRange rail → t.pins.railsOut.contains rail.val = true) ∧ s.SameMemory t ∧ t.nv = s.nv

/-- Tin Soldier mode is left when its last cause clears and no step runs: by the leave command for Command and an in-range Supply, by
TEMP_CAUSE_CLEAR for Temperature at a junction of 100 °C or less. A leave command is refused with status 4 while another cause stands.
The master copy of the keep model is complete once the NVM's container of the same digest has passed its checks. -/
def Obligations.TinSoldierModeIsLeft : Prop :=
  (∀ (c : Instr) (s : State), rd GLB_STATE.state s = 3 → s.srv.running = none →
    (c = .leaveTinSoldier .host 0x0650 ∧ s.cxl.d3hot = false ∧ rd PWR_STATE.state s = 0
        ∧ (rd GLB_STATE.tin_cause s = 32 ∨ rd GLB_STATE.tin_cause s ∈ [8, 40] ∧ s.pins.railsOut = [] ∧ rd CAL_REF.fail s = 0)
      ∨ c = .tempCauseClear ∧ rd GLB_STATE.tin_cause s = 4 ∧ junction s ≤ deg 100) →
    ∃ t, exec c s = .next t ∧ rd GLB_STATE.state t = 2 ∧ rd GLB_STATE.tin_cause t = 0 ∧ t.tin = { s.tin with leaving := false, exact := false }
      ∧ s.SameMemory t ∧ t.nv = s.nv)
  ∧ (∀ s : State, s.cxl.d3hot = false → rd GLB_STATE.state s = 3 → rd PWR_STATE.state s = 0 → tinBit 2 s = true → ∃ t,
    exec (.leaveTinSoldier .host 0x0650) s = .next t ∧ rd GLB_CMD.status t = 4
      ∧ codesJoin s t [0x0002] ∧ s.SameRegs [GLB_CMD] t ∧ t = { s with regs := t.regs, reports := t.reports })
  ∧ ∀ s : State, exec .supplyInRange s = .next { s with pins := { s.pins with railsOut := [] } }
    ∧ ∀ m c, s.tin.model = some m → nvmContainer s = some c →
      (containerOk c s = true → c.manifest.digest = m.digest →
        exec .tinMasterCopyComplete s = .next { s with tin := { s.tin with master := true, payload := c.payload } })
      ∧ (containerOk c s = false ∨ c.manifest.digest ≠ m.digest → exec .tinMasterCopyComplete s = .next s)

/-- A thermal trip latches THERM_TRIP_N, puts every trained stack into self-refresh and halts the part with cause 3. A halt command halts
the part with cause 1. A command of GLB_CMD with a wrong key has no effect but its status, 2, and its log entry. -/
def Obligations.PartsHaltAndRefuseWrongKeys : Prop :=
  (∀ (n : Fin 53) (s : State), ∃ t, exec (.thermalTrip n) s = .next t ∧ rd GLB_STATE.state t = 5 ∧ rd GLB_STATE.halt_cause t = 3
     ∧ t.pins.tripLatch = true ∧ rd (THM_SENSOR.trip n) t = 1 ∧ rd THM_STAT.trip t = 1
     ∧ ∀ k : Fin 12, rd (MEM_HBM_STAT.state k) t = 2 → rd (MEM_HBM_STAT.sr k) t = 1)
  ∧ ((∀ (who : Master) (s : State), reaches who s → rd PWR_STATE.state s = 0 → rd GLB_STATE.state s ≠ 5 →
       ∃ t, exec (.halt who 0x0650) s = .next t ∧ rd GLB_STATE.state t = 5 ∧ rd GLB_STATE.halt_cause t = 1)
     ∧ ∀ (c : Instr) (key : BitVec 16) (s : State), key ≠ 0x0650 → s.cxl.d3hot = false → rd PWR_STATE.state s = 0 →
       c ∈ [Instr.halt .host key, .warmResetCommand .host key, .enterTinSoldier .host key, .leaveTinSoldier .host key] →
       ∃ t, exec c s = .next t ∧ rd GLB_CMD.status t = 2 ∧ codesJoin s t [0x0002] ∧ s.SameRegs [GLB_CMD] t
         ∧ t = { s with regs := t.regs, reports := t.reports })

/-! ## The measurement converter -/

/-- A conversion of channels above the diodes' ends: the result register holds the word, with the channel's next sequence number, the
FIFO takes it where the entry asks for it and has room, and the entry's next channel starts. A result out of range is clamped and
flagged. A read of the FIFO answers its oldest entry, or zero; it removes the entry unless it covers the lower half alone. A flush
empties it. -/
def Obligations.ConversionsAreStored : Prop :=
  (∀ (raw : Int) (clipped : Bool) (e c : Nat) (s : State), s.mcv.conv = some (e, c) → e < 24 → 52 < c → c < s.mcv.content.toNat / 64 % 64 →
     (pushes e s = true → s.mcv.fifo.length < 64) →
     ∃ t w, exec (.conversionResult raw clipped) s = .next t
       ∧ w = resultWord (correctResult raw clipped s).1 c (tget 0 s.mcv.seqs c) e (!s.mcv.startSettled) (correctResult raw clipped s).2 (uncal s)
       ∧ (clipped = true → (correctResult raw clipped s).1 = if raw < 0 then -8388608 else 8388607)
       ∧ (clipped = true → w.getLsbD 31 = true)
       ∧ t.reg (MCV_RESULT c) = w ∧ tget 0 t.mcv.seqs c = (tget 0 s.mcv.seqs c + 1) % 65536
       ∧ (∀ d, d ≠ c → tget 0 t.mcv.seqs d = tget 0 s.mcv.seqs d)
       ∧ t.mcv.fifo = s.mcv.fifo ++ (if pushes e s then [w] else [])
       ∧ t.mcv.conv = some (e, c + 1) ∧ rd MCV_STAT.entry t = e ∧ rd MCV_STAT.channel t = c + 1
       ∧ s.SameRegs [MCV_RESULT c, MCV_STAT] t ∧ t = { s with regs := t.regs, mcv := t.mcv })
  ∧ ((∀ (who : Master) (half : Half) (s : State), barClosed who s = false → ∃ t, exec (.fifoRead who half) s = .next t
       ∧ t.out = .word (match half with
           | .full => s.mcv.fifo.headD 0
           | .lower => (s.mcv.fifo.headD 0) &&& 0xFFFFFFFF
           | .upper => (s.mcv.fifo.headD 0) >>> 32)
       ∧ t.mcv.fifo = (if half = .lower then s.mcv.fifo else s.mcv.fifo.tail)
       ∧ t = { s with out := t.out, mcv := { s.mcv with fifo := t.mcv.fifo } })
     ∧ ∀ (w : Write) (s : State), reaches w.who s → wone MCV_CTL.flush w = true → ∃ t, exec (.fifoFlush w) s = .next t
       ∧ t.mcv = { s.mcv with fifo := [] } ∧ rd MCV_CTL.fifo_thr t = wbits MCV_CTL.fifo_thr w s ∧ rd MCV_CTL.fw_fifo t = wbits MCV_CTL.fw_fifo w s
       ∧ rd MCV_CTL.run t = rd MCV_CTL.run s ∧ s.SameRegs [MCV_CTL] t ∧ t = { s with regs := t.regs, mcv := t.mcv })

/-- Commands of the converter: a self-calibration stops the scan and abandons the conversion in progress once the buffer has settled, and
waits for that otherwise; a restart begins the scan at the first channel of entry 0 where that entry converts something. A control core
may always give them. The reference buffer: a write disables it and stops the scan, or enables it, and the scan runs on from the entry it
was interrupted at, which here converts something, outside PS4; once it has settled the boot that waits for it goes on to CAL after a
warm reset or once the boot ROM has calibrated, and to a self-calibration after a POR, and a self-calibration that waited for it stops
the scan. -/
def Obligations.ConverterCommandsAndItsBuffer : Prop :=
  (∀ (n : Fin 4) (s : State), rd MCV_STAT.cal_busy s = 0 →
     (∃ t, exec (.selfCalibration ⟨.core n, .full, 1⟩) s = .next t ∧ rd MCV_STAT.cal_busy t = 1
       ∧ (rd MCV_REFBUF.settled s = 1 → rd MCV_CTL.run t = 0 ∧ t.mcv = { s.mcv with conv := none } ∧ s.SameRegs [MCV_STAT, MCV_CTL] t)
       ∧ (rd MCV_REFBUF.settled s = 0 → t.mcv = s.mcv ∧ s.SameRegs [MCV_STAT] t)
       ∧ t = { s with regs := t.regs, mcv := t.mcv })
     ∧ (rd MCV_CTL.run s = 1 → rd (MCV_SCAN.en 0) s = 1 → rd (MCV_SCAN.first 0) s ≤ rd (MCV_SCAN.last 0) s →
       ∃ t, exec (.scanRestart ⟨.core n, .full, 2⟩) s = .next t ∧ t.mcv.conv = some (0, rd (MCV_SCAN.first 0) s)
         ∧ t.mcv.content = s.reg (MCV_SCAN 0) ∧ rd MCV_STAT.entry t = 0 ∧ rd MCV_STAT.channel t = rd (MCV_SCAN.first 0) s
         ∧ s.SameRegs [MCV_STAT] t
         ∧ t = { s with regs := t.regs, mcv := { s.mcv with conv := t.mcv.conv, content := t.mcv.content, startSettled := t.mcv.startSettled } })
     ∧ ((rd GLB_STATE.state s = 2 ∨ rd GLB_STATE.state s = 3) → s.nv.lcs ≠ 2 → s.cxl.d3hot = false → ∀ d ∈ [(1 : Word), 2], ∃ t,
       exec (.selfCalibration ⟨.host, .full, d⟩) s = .next t ∧ codesJoin s t [0x0002] ∧ t = { s with reports := t.reports }))
  ∧ (∀ (n : Fin 4) (s : State),
       (rd MCV_REFBUF.en s = 1 → rd PWR_STATE.state s ≠ 4 → ∃ t, exec (.refbufEnable ⟨.core n, .full, 0⟩) s = .next t ∧ rd MCV_REFBUF.en t = 0
         ∧ rd MCV_REFBUF.settled t = 0 ∧ rd MCV_CTL.run t = 0 ∧ t.mcv.conv = none ∧ (∀ p, s.mcv.conv = some p → t.mcv.resumeAt = p.1)
         ∧ s.SameRegs [MCV_REFBUF, MCV_CTL] t ∧ t = { s with regs := t.regs, mcv := t.mcv })
       ∧ (∀ e, rd MCV_REFBUF.en s = 0 → rd PWR_STATE.state s ≠ 4 → s.mcv.resumeAt = e → e < 24 → rd (MCV_SCAN.en e) s = 1 → rd (MCV_SCAN.first e) s ≤ rd (MCV_SCAN.last e) s →
         ∃ t, exec (.refbufEnable ⟨.core n, .full, 1⟩) s = .next t
           ∧ rd MCV_REFBUF.en t = 1 ∧ rd MCV_CTL.run t = 1 ∧ t.mcv.enabledAt = s.now ∧ t.mcv.conv = some (e, rd (MCV_SCAN.first e) s)
           ∧ t.mcv.startSettled = rdb MCV_REFBUF.settled s
           ∧ s.SameRegs [MCV_REFBUF, MCV_CTL, MCV_STAT] t ∧ t = { s with regs := t.regs, mcv := t.mcv })
       ∧ (rd MCV_REFBUF.en s = 1 → rd BOOT_STAT.stage s ≠ 3 → rd GLB_STATE.state s ≠ 4 ∨ s.boot.warm = true → rd MCV_STAT.cal_busy s = 0 →
         ∃ t, exec .refbufSettled s = .next t
         ∧ rd MCV_REFBUF.settled t = 1 ∧ s.SameRegs [MCV_REFBUF] t ∧ t = { s with regs := t.regs })
       ∧ (rd MCV_REFBUF.en s = 1 → rd BOOT_STAT.stage s ≠ 3 → rd MCV_STAT.cal_busy s = 1 → ∃ t, exec .refbufSettled s = .next t
         ∧ rd MCV_REFBUF.settled t = 1 ∧ rd MCV_CTL.run t = 0 ∧ t.mcv = { s.mcv with conv := none }
         ∧ s.SameRegs [MCV_REFBUF, MCV_CTL] t ∧ t = { s with regs := t.regs, mcv := t.mcv })
       ∧ (rd MCV_REFBUF.en s = 1 → rd BOOT_STAT.stage s = 3 → s.boot.warm = true ∨ rd MCV_STAT.cal_ok s = 1 → rd MCV_STAT.cal_busy s = 0 →
         rd GLB_STATE.state s = 0 →
         ∃ t, exec .refbufSettled s = .next t ∧ rd MCV_REFBUF.settled t = 1 ∧ rd BOOT_STAT.stage t = 4 ∧ rd GLB_STATE.state t = 1)
       ∧ (rd MCV_REFBUF.en s = 1 → rd BOOT_STAT.stage s = 3 → s.boot.warm = false → rd MCV_STAT.cal_ok s = 0 → rd MCV_STAT.cal_busy s = 0 →
         ∃ t, exec .refbufSettled s = .next t ∧ rd MCV_REFBUF.settled t = 1 ∧ rd MCV_STAT.cal_busy t = 1
           ∧ rd BOOT_STAT.stage t = 3 ∧ t.mcv.conv = none ∧ rd MCV_CTL.run t = 0))

/-- The end of a self-calibration computes the offset from the sum of 9 outputs with the input shorted, the gain from that and the sum at
3/4 of VREF_EXT (their rounding is the model's, log entry 154), and stores them where they lie in their ranges; results
out of range leave the factors, count as a failure and set cal_fail. The scan then runs again from the first channel of entry 0. Here
entry 0 converts something, the guard is off and boot is over. The reference check on usable results of channels 53 and 54: an estimate
within 2.5 mV of 1.25 V with the buffer within its limit clears the failure count and warns of nothing; one beyond 6.25 mV counts a
failing cycle, up to two here, warns, and is logged. -/
def Obligations.SelfCalibrationsAndReferenceChecks : Prop :=
  (∀ (zero full ground offset : Int) (gain : Nat) (s : State), offset = rneRat (16 * (zero : Rat) / 9) →
     gain = (if full ≤ zero then 0 else (rneRat (6291456 * 9 * 2 ^ 30 / ((full - zero : Int) : Rat))).toNat) → rd MCV_STAT.cal_busy s = 1 → rd MCV_REFBUF.settled s = 1 →
     rd (MCV_SCAN.en 0) s = 1 → rd (MCV_SCAN.first 0) s ≤ rd (MCV_SCAN.last 0) s → rd THM_STAT.guard s = 0 → rd BOOT_STAT.stage s ≠ 3 →
     rd GLB_STATE.state s ≠ 4 →
     (offset.natAbs ≤ 1048576 → 98 * 2 ^ 30 ≤ 100 * gain → 100 * gain ≤ 102 * 2 ^ 30 →
       (rneRat (((ground : Rat) - (offset : Rat) / 16) * ((gain : Rat) / 2 ^ 30))).natAbs ≤ 8 →
       ∃ t, exec (.selfCalComplete zero full ground) s = .next t ∧ rds MCV_OFS.ofs t = offset ∧ rd MCV_GAIN.gain t = gain
         ∧ rd MCV_STAT.cal_busy t = 0 ∧ rd MCV_STAT.cal_ok t = 1 ∧ rd MCV_STAT.cal_fail t = rd MCV_STAT.cal_fail s ∧ rd MCV_CTL.run t = 1
         ∧ t.mcv = { s.mcv with failed := false, conv := some (0, rd (MCV_SCAN.first 0) s), content := s.reg (MCV_SCAN 0), startSettled := true }
         ∧ t.thm = { s.thm with calFails := 0 }
         ∧ s.SameRegs [MCV_OFS, MCV_GAIN, MCV_STAT, MCV_CTL] t ∧ t = { s with regs := t.regs, mcv := t.mcv, thm := t.thm })
     ∧ (1048576 < offset.natAbs ∨ 100 * gain < 98 * 2 ^ 30 ∨ 102 * 2 ^ 30 < 100 * gain
         ∨ 8 < (rneRat (((ground : Rat) - (offset : Rat) / 16) * ((gain : Rat) / 2 ^ 30))).natAbs → s.thm.calFails ≠ 1 →
       ∃ t, exec (.selfCalComplete zero full ground) s = .next t ∧ rd MCV_STAT.cal_busy t = 0 ∧ rd MCV_STAT.cal_ok t = 0
         ∧ rd MCV_STAT.cal_fail t = 1 ∧ rd MCV_CTL.run t = 1
         ∧ t.mcv = { s.mcv with failed := true, conv := some (0, rd (MCV_SCAN.first 0) s), content := s.reg (MCV_SCAN 0), startSettled := true }
         ∧ t.thm = { s.thm with calFails := s.thm.calFails + 1 } ∧ s.SameRegs [MCV_STAT, MCV_CTL] t
         ∧ t = { s with regs := t.regs, mcv := t.mcv, thm := t.thm }))
  ∧ (∀ (v : Nat) (dev : Int) (s : State), usableResult (s.reg (MCV_RESULT 53)) = true → usableResult (s.reg (MCV_RESULT 54)) = true →
       v = vrefEstimate (signed 24 (s.reg (MCV_RESULT 54)).toNat) s → dev = signed 24 (s.reg (MCV_RESULT 53)).toNat - 2 ^ 22 →
       (((v : Int) - 1250000).natAbs ≤ 2500 → dev.natAbs ≤ 2097 → ∃ t, exec .referenceCheck s = .next t ∧ rd CAL_REF.vref_uv t = v
         ∧ rds CAL_REF.buf_dev t = dev ∧ rd CAL_REF.warn t = 0 ∧ rd CAL_REF.fail t = 0 ∧ rd CAL_REF.fails t = 0
         ∧ s.SameRegs [CAL_REF] t ∧ t = { s with regs := t.regs })
       ∧ (6250 < ((v : Int) - 1250000).natAbs → rd CAL_REF.fails s < 2 → ∃ t, exec .referenceCheck s = .next t ∧ rd CAL_REF.vref_uv t = v
         ∧ rd CAL_REF.warn t = 1 ∧ rd CAL_REF.fail t = 1 ∧ rd CAL_REF.fails t = rd CAL_REF.fails s + 1 ∧ rd CAL_STAT.ref_warn t = 1
         ∧ codesJoin s t [0x0041] ∧ s.SameRegs [CAL_REF, CAL_STAT] t ∧ t = { s with regs := t.regs, reports := t.reports }))

/-! ## Calibration -/

/-- A calibration slot of a block that is neither being rewritten, retired nor gated serves the running pass, one more column reading
each, else the first pass queued, else one drift read of the next array. A scheduled pass that has fallen due joins the block's passes,
and the next one starts unless one runs. A pass of 1,024 slots that is over, while a step runs: the factors it fitted wait for the next
boundary and it is counted, or, where one lies out of range, none is staged and the block is to be rewritten. A request queues a pass of
every block of a region. A deep pass that is over gives the region's stand-in back. -/
def Obligations.CalibrationPassesRun : Prop :=
  (∀ (region : Fin 52) (block : Fin 1312) (s : State) (b : Block), b = blockAt region block s →
     (b.rewriting = true ∨ b.retired = true ∨ gatedInTin region s = true → exec (.calibrationSlot region block) s = .next s)
     ∧ (b.rewriting = false → b.retired = false → gatedInTin region s = false →
       (∀ k n band array pattern, knownBlock region block s = true → b.pass = some (k, n, band) → n < 1024 →
         readableArrays region block s ≠ [] → uniformOnly region s = false → pattern = n % 4 →
         array = (readableArrays region block s).getD ((b.passNext + n / 4) % (readableArrays region block s).length) 0 →
         ∃ t, exec (.calibrationSlot region block) s = .next t
         ∧ blockAt region block t = { b with pass := some (k, n + 1, band), passSums := (blockAt region block t).passSums }
         ∧ (∀ c, c < 32 → (blockAt region block t).passSums.getD c FitSums.init = addFit (b.passSums.getD c FitSums.init)
             (2 * digitLevels (passDigits pattern) (knownRows region block array s) c : Nat)
             ((slotCode (passDigits pattern) (arrayRows region block array s) (s.draws + c) c : Int) - 64))
         ∧ otherBlocksSame region block s t ∧ t = { s with blocks := t.blocks, draws := s.draws + 32 })
       ∧ (∀ k, knownBlock region block s = true → b.pass = none → nextPass b = some k → readableArrays region block s ≠ [] →
         ∃ t, exec (.calibrationSlot region block) s = .next t
         ∧ blockAt region block t = { b with
             passes := b.passes.filter (· != k), pass := some (k, 1, passBand region k s), passSums := (blockAt region block t).passSums }
         ∧ otherBlocksSame region block s t ∧ t = { s with blocks := t.blocks, draws := s.draws + 32 })
       ∧ (∀ a n, (knownBlock region block s = false ∨ b.pass = none ∧ b.passes = []) → b.driftNext = 64 * a + n → a < 512 → n < 63 →
         b.noMonitor.contains a = false →
         ∃ t, exec (.calibrationSlot region block) s = .next t
         ∧ blockAt region block t = { b with
             drift := tset Drift.init b.drift a
               (addReading (n / 16) (driftReading region block a (n / 16) s) (tget Drift.init b.drift a))
             driftNext := b.driftNext + 1 }
         ∧ otherBlocksSame region block s t ∧ t = { s with blocks := t.blocks, draws := s.draws + 32 }))
     ∧ (b.rewriting = true ∨ knownBlock region block s = false → exec (.recalPassStart region block) s = .next s)
     ∧ (b.rewriting = false → knownBlock region block s = true →
       (passDue region block s = false → (b.pass.isSome = true ∨ nextPass b = none) → exec (.recalPassStart region block) s = .next s)
       ∧ (passDue region block s = true → b.passes = [] → ∃ t, exec (.recalPassStart region block) s = .next t
         ∧ blockAt region block t = (if b.pass.isSome then { b with passes := [.scheduled] }
             else { b with pass := some (.scheduled, 0, rd (RGN_STATE.band region) s), passSums := [] })
         ∧ regionAt region t = { regionAt region s with passStart := some (s.now / 600000) }
         ∧ otherBlocksSame region block s t ∧ otherRegionsSame region s t
         ∧ t = { s with blocks := t.blocks, regions := t.regions })))
  ∧ ((∀ (region : Fin 52) (block : Fin 1312) (s : State) (b : Block), b = blockAt region block s →
       (b.pass = none → exec (.recalPassComplete region block) s = .next s)
       ∧ ∀ k n band fits l, b.pass = some (k, n, band) → (n < 1024 → exec (.recalPassComplete region block) s = .next s)
         ∧ (1024 ≤ n → aheadPass k = false → fits = fitBlock b (k, n, band) (regionTemp region s) →
           l = (readableArrays region block s).length → s.srv.running.isSome = true → ∃ t, exec (.recalPassComplete region block) s = .next t
           ∧ (fits.all fitOk = true → blockAt region block t = { b with
                 pass := none, passSums := [], passNext := if l = 0 then 0 else (b.passNext + 256) % l
                 bandPasses := (b.bandPasses.filter fun p => p.band != band)
                   ++ [⟨band, regionTemp region s, (List.range 32).map fun c => (lineFit (b.passSums.getD c FitSums.init)).1⟩]
                 lastPass := s.now, newFits := fits }
             ∧ rd CAL_STAT.passes t = (rd CAL_STAT.passes s + 1) % 2 ^ 32 ∧ rd CAL_STAT.region t = region
             ∧ s.SameRegs [CAL_STAT] t ∧ otherBlocksSame region block s t ∧ t = { s with regs := t.regs, blocks := t.blocks })
           ∧ (fits.all fitOk = false → b.rewriting = false → (blockAt region block t).pass = none ∧ (blockAt region block t).newFits = b.newFits
             ∧ (blockAt region block t).want.contains .overBound = true ∧ (blockAt region block t).fits = b.fits
             ∧ rd CAL_STAT.fit_fail t = 1 ∧ codesJoin s t [0x0042] ∧ s.SameRegs [CAL_STAT] t
             ∧ otherBlocksSame region block s t ∧ t = { s with regs := t.regs, blocks := t.blocks, reports := t.reports })))
     ∧ (∀ (region : Fin 52) (s : State),
       ((regionAt region s).affected = false → exec (.deepPassComplete region) s = .next s)
       ∧ ∀ own u, (regionAt region s).affected = true →
         own = (s.blocks.filter fun p => p.1 / 1312 == region.val && !p.2.retired && !p.2.rewriting).map (fun p => p.1 % 1312) →
         u = own.foldl (fun a b => fullSet region b (driftAll region b 16 false a)) s →
         ∃ t, exec (.deepPassComplete region) s = .next t
           ∧ (u.srv.running.isSome = true →
             regionAt region t = { regionAt region u with deepDone := true, want := (regionAt region u).want.filter (· != .deep) }
             ∧ otherRegionsSame region u t ∧ t = { u with regions := t.regions }))
     ∧ ∀ (w : Write) (n : Nat) (s : State), reaches w.who s → rd BOOT_STAT.lock s = 0 → wone CAL_CTL.req w = true →
       n = fget CAL_CTL.req_region (wdata w) → n ≤ 51 →
       ∃ t, exec (.passRequest w) s = .next t
         ∧ (∀ b, b < 1312 → blockAt n b t = queuePass .scheduled (blockAt n b s))
         ∧ (∀ k, k / 1312 ≠ n → tget Block.init t.blocks k = tget Block.init s.blocks k)
         ∧ (∀ f ∈ [CAL_CTL.sched_en, CAL_CTL.la_en, CAL_CTL.rise_en, CAL_CTL.la_margin], rd f t = wbits f w s)
         ∧ s.SameRegs [CAL_CTL] t ∧ t = { s with regs := t.regs, blocks := t.blocks })

/-- Rewrites of a block, while a step runs: an array written 30 days ago falls due and its block wants stand-in; a rewrite with every row
written runs its pass and its set; where both hold no array is due any more and its stand-in ends, where the set fails the block is to be
written once more, and the second time it is retired for a spare block. The sweep, warm-up and vector sets of a block, while a step runs:
the end of a sweep shows its time and starts warm-up unless a warm reset or a short PS4 kept its state; a block leaves warm-up at the
boundary after its millionth MVM or 600 s; a set whose columns hold gives the block's next figure, one above its bound brings the block
to rewrite. -/
def Obligations.RewritesSweepsAndVectorSets : Prop :=
  (∀ (region : Fin 52) (block : Fin 1312) (s : State) (b : Block), b = blockAt region block s → s.srv.running.isSome = true →
     (∀ array : Fin 512,
       (s.now < tget 0 b.written array.val + thirtyDays → exec (.driftAgeLimit region block array) s = .next s)
       ∧ (tget 0 b.written array.val + thirtyDays ≤ s.now → ∃ t, exec (.driftAgeLimit region block array) s = .next t
         ∧ blockAt region block t = { b with
             due := if b.due.contains array.val then b.due else b.due ++ [array.val]
             want := if b.want.contains .rewrite then b.want else b.want ++ [.rewrite] }
         ∧ otherBlocksSame region block s t ∧ t = { s with blocks := t.blocks }))
     ∧ (b.rewriting = false ∨ (∀ j, b.journal = some j → j.row ≠ 16384) → exec (.rewriteComplete region block) s = .next s)
     ∧ (∀ j p o u, b.rewriting = true → b.journal = some j → j.row = 16384 → p = fullPass region block s →
       (o, u) = runSet region block (readableArrays region block s) p → ∃ t, exec (.rewriteComplete region block) s = .next t
       ∧ ((blockAt region block p).retired = false → p.srv.running.isSome = true → o.again = [] →
       (b.overCheck = (blockAt region block p).overCheck → o.above = false →
         blockAt region block t = { blockAt region block u with
             rewriting := false, overCheck := false, due := [], journal := none
             drift := (blockAt region block p).drift.filter fun q => !(blockAt region block p).due.contains q.1
             want := (blockAt region block p).want.filter fun c => c != .rewrite && c != .overBound }
         ∧ (blockAt region block t).rNext = (o.r.map fun r => (r, rd (RGN_STATE.band region) p)).or (blockAt region block p).rNext
         ∧ rd CHK_ABACUS_CTL.sets t = (rd CHK_ABACUS_CTL.sets p + 1) % 2 ^ 32
         ∧ p.SameRegs [CHK_ABACUS_CTL] t ∧ otherBlocksSame region block p t
         ∧ t = { p with regs := t.regs, blocks := t.blocks, draws := t.draws })
       ∧ (b.overCheck = false → o.above = true → (blockAt region block t).rewriting = false ∧ (blockAt region block t).overCheck = true
         ∧ (blockAt region block t).journal = none ∧ (blockAt region block t).want.contains .overBound = true
         ∧ p.SameRegs [CHK_ABACUS_CTL] t ∧ otherBlocksSame region block p t
         ∧ t = { p with regs := t.regs, blocks := t.blocks, draws := t.draws })
       ∧ (∀ l n, b.overCheck = true → o.above = true → roleOf region block p = some l → freeSpare region p = some n →
         (blockAt region block t).retired = true ∧ (regionAt region t).spareFor.contains (l, n) = true ∧ rd CHK_STAT.blk_retired t = 1))))
  ∧ (∀ (region : Fin 52) (block : Fin 1312) (s : State) (b : Block), b = blockAt region block s → s.srv.running.isSome = true →
       (b.retired = true → ∀ ms, exec (.sweepComplete region block ms) s = .next s)
       ∧ (b.retired = false → ∀ ms u, u = sweepBlock region block s →
         ∃ t, exec (.sweepComplete region block ms) s = .next t
         ∧ (u.srv.running.isSome = true → u.boot = s.boot → (blockAt region block u).swept = b.swept →
         rd CAL_WARMUP.sweep_ms t = ms % 65536
         ∧ (s.boot.warm = true ∧ s.boot.badFactors = false ∨ b.swept = true →
           blockAt region block t = { blockAt region block u with mvms := 0, swept := true } ∧ t.pwr = u.pwr)
         ∧ ((s.boot.warm = false ∨ s.boot.badFactors = true) → b.swept = false →
           blockAt region block t = { blockAt region block u with
             warm := true, warmFrom := u.pwr.operated, warmEnds := false, mvms := 0, swept := true }
           ∧ t.pwr = { u.pwr with warmFrom := u.pwr.operated })
         ∧ u.SameRegs [CAL_WARMUP] t ∧ otherBlocksSame region block u t
         ∧ t = { u with regs := t.regs, blocks := t.blocks, pwr := t.pwr }))
       ∧ (b.mvms < 1000000 → s.pwr.operated < b.warmFrom + 600 * second → exec (.warmupEnd region block) s = .next s)
       ∧ (1000000 ≤ b.mvms ∨ b.warmFrom + 600 * second ≤ s.pwr.operated → ∃ t, exec (.warmupEnd region block) s = .next t
         ∧ blockAt region block t = { b with warmEnds := true }
         ∧ otherBlocksSame region block s t ∧ t = { s with blocks := t.blocks })
       ∧ (runsSets region block s = false ∨ rd CHK_ABACUS_CTL.en s = 0 ∨ gatedInTin region s = true →
         exec (.abacusVectorSet region block) s = .next s)
       ∧ (∀ rs o, runsSets region block s = true → rd CHK_ABACUS_CTL.en s = 1 → gatedInTin region s = false →
         rs = setReadings region block s (nextArrays region block s) s.draws b.vectors → o = judgeSet region block rs.1 s →
         ∃ t, exec (.abacusVectorSet region block) s = .next t ∧ (o.again = [] →
         (o.above = false → blockAt region block t = { b with
               rNext := match o.r with | some r => some (r, rd (RGN_STATE.band region) s) | none => b.rNext
               failing := o.failing, vectors := rs.2, setNext := (b.setNext + 4) % max 1 (readableArrays region block s).length }
           ∧ rd CHK_ABACUS_CTL.sets t = (rd CHK_ABACUS_CTL.sets s + 1) % 2 ^ 32 ∧ s.SameRegs [CHK_ABACUS_CTL] t
           ∧ otherBlocksSame region block s t ∧ t = { s with regs := t.regs, blocks := t.blocks, draws := t.draws })
         ∧ (o.above = true → b.rewriting = false → (blockAt region block t).want.contains .overBound = true ∧ (blockAt region block t).overAt = some s.now
           ∧ s.SameRegs [CHK_ABACUS_CTL] t ∧ otherBlocksSame region block s t
           ∧ t = { s with regs := t.regs, blocks := t.blocks, draws := t.draws }))))

/-! ## Recipes -/

/-- The end of recipe windows, once: a region's open counts become its last ones, whichever windows have ended since; no layer over its
thresholds leaves the flag queue as it was, and one that is, here with nothing else counted, joins it as a new flag. What the recipe
manager and the scheduler do with them: a pop by the manager removes the oldest flag, and firmware, where it manages, stages the wide
alternative of the flag's layer; any other writer is ignored; a layer whose recipe's number of windows has passed without a flag goes
back to its primary recipe; a read of the counters shows the selected layer's; a quiet time takes the scheduler one stage down. -/
def Obligations.RecipeWindowsFlagsAndStages : Prop :=
  (∀ (region : Fin 52) (k : Nat) (r : Region) (s : State), k = windowsEnded s → r = regionAt region s →
     (k ≤ r.windowsDone → exec (.recipeWindowEval region) s = .next s)
     ∧ (r.windowsDone < k → ∃ t, exec (.recipeWindowEval region) s = .next t
       ∧ regionAt region t = { r with
           flags := (regionAt region t).flags, lastCounts := r.counts, counts := [], windowsDone := k, counted := true }
       ∧ ((∀ e ∈ r.counts, ∀ q, recipeAt (e.1 / 65536) (e.1 % 65536) (wasWide (e.1 / 65536) (e.1 % 65536) s) s = some q →
             trips q e.2 s = (false, false)) →
           (regionAt region t).flags = r.flags ∧ t.regs = s.regs ∧ t.reports = s.reports ∧ t.wld = s.wld)
       ∧ (∀ slot layer c q, slot < 4 → layer < 65536 → r.counts = [(65536 * slot + layer, c)] →
           recipeAt slot layer (wasWide slot layer s) s = some q → trips q c s ≠ (false, false) → r.flags.length < 64 →
           (∀ g ∈ r.flags, g.slot ≠ slot ∨ g.layer ≠ layer) →
           (regionAt region t).flags = r.flags ++ [⟨slot, layer, (trips q c s).1, (trips q c s).2,
             !canWiden slot layer (wasWide slot layer s) s, k * recipeWindow s - 1⟩]
           ∧ t.regs = s.regs ∧ t.reports = s.reports)
       ∧ s.SameRegs [RGN_RECIPE_FLAG region] t ∧ otherRegionsSame region s t
       ∧ t = { s with regs := t.regs, regions := t.regions, reports := t.reports, wld := t.wld }))
  ∧ ((∀ (region : Fin 52) (w : Write) (s : State), reaches w.who s → wone (RGN_RECIPE_FLAG.pop region) w = true →
       (isManager w.who s = false → ∃ t, exec (.recipeFlagPop region w) s = .next t ∧ codesJoin s t [0x0002]
         ∧ t = { s with reports := t.reports })
       ∧ (isManager w.who s = true → (regionAt region s).flags = [] → exec (.recipeFlagPop region w) s = .next s)
       ∧ (isManager w.who s = true → ∀ f rest, (regionAt region s).flags = f :: rest → mirrored s = false →
         ∃ t, exec (.recipeFlagPop region w) s = .next t ∧ regionAt region t = { regionAt region s with flags := rest }
           ∧ rd (RGN_RECIPE_FLAG.overflow region) t = 0
           ∧ (hostManages s = true → t.reports = s.reports ∧ t.srv = s.srv)
           ∧ (hostManages s = false → codesJoin s t [0x0015]
             ∧ t.srv = { s.srv with stagedRecipes := s.srv.stagedRecipes ++
                 if f.nowide = false ∧ canWiden f.slot f.layer ((genAt f.slot s).wide.contains f.layer) s = true
                 then [(s.srv.highest + 1, f.slot, f.layer, true)] else [] })
           ∧ s.SameRegs [RGN_RECIPE_FLAG region] t ∧ otherRegionsSame region s t
           ∧ t = { s with regs := t.regs, regions := t.regions, reports := t.reports, srv := t.srv })
       ∧ (isManager w.who s = true → hostManages s = false → ∀ f rest, (regionAt region s).flags = f :: rest → mirrored s = true →
         ∃ t, exec (.recipeFlagPop region w) s = .next t ∧ t.srv.stagedRecipes = s.srv.stagedRecipes ++
             (if f.nowide = false ∧ canWiden f.slot f.layer ((genAt f.slot s).wide.contains f.layer) s = true
               then [(s.srv.highest + 2, f.slot, f.layer, true)] else [])
           ∧ t.sent = s.sent ++ [.recipeFlag (s.srv.highest + 2) f.slot f.layer]))
     ∧ (∀ (slot : Fin 4) (layer : Nat) (s : State),
       (recipeAt slot layer true s = none → exec (.recipeRevert slot layer) s = .next s)
       ∧ ∀ r, recipeAt slot layer true s = some r →
         exec (.recipeRevert slot layer) s = .next (
           if hostManages s = false ∧ (genAt slot s).wide.contains layer = true ∧ r.revert ≠ 0 ∧ r.revert ≤ calmWindows slot layer s
             ∧ flagged slot layer s = false then
             { s with srv := { s.srv with stagedRecipes := s.srv.stagedRecipes ++ [(changeStep s, slot.val, layer, false)] } }
           else s))
     ∧ (∀ (who : Master) (region : Fin 52) (half : Half) (s : State), barClosed who s = false → ∃ t, exec (.zeroCntRead who region half) s = .next t
       ∧ rd (RGN_ZERO_CNT.zero region) t = (selectedCounts region s).1.2.1 % 2 ^ 32
       ∧ rd (RGN_ZERO_CNT.valid region) t = (selectedCounts region s).2.toNat
       ∧ rd (RGN_SAT_CNT.sat region) t = (selectedCounts region s).1.2.2 % 2 ^ 32
       ∧ rd (RGN_SAT_CNT.groups region) t = (selectedCounts region s).1.1 % 2 ^ 32
       ∧ t.out = .word (halfOf half (t.reg (RGN_ZERO_CNT region)))
       ∧ s.SameRegs [RGN_ZERO_CNT region, RGN_SAT_CNT region] t ∧ t = { s with regs := t.regs, out := t.out })
     ∧ ∀ s : State, (rd SRV_STAT.stage s = 0 ∨ s.srv.quiet < stormQuiet s → exec .stageReturn s = .next s)
       ∧ (0 < rd SRV_STAT.stage s → stormQuiet s ≤ s.srv.quiet → ∃ t, exec .stageReturn s = .next t
         ∧ rd SRV_STAT.stage t = rd SRV_STAT.stage s - 1
         ∧ t.srv = { s.srv with quiet := 0, storm := if rd SRV_STAT.stage s = 3 then false else s.srv.storm }
         ∧ codesJoin s t (if rd SRV_STAT.stage s = 3 then [0x0071] else [])
         ∧ s.SameRegs [SRV_STAT] t ∧ t = { s with regs := t.regs, srv := t.srv, reports := t.reports }))

/-! ## Integrity -/

/-- The oldest Shadow comparison of a region completes: values that agree count, and are traced; ones that differ by more than the
tolerance on an analogue block void their step and the block is suspect and wanted for stand-in; where the run they belong to is gone,
which the model marks with step 0, the block's window opens at once. A window with fewer than two mismatches in its 64 invocations
closes. An engine that passes its test is trusted again. -/
def Obligations.ShadowComparisonsJudge : Prop :=
  ∀ (region : Fin 52) (r : Region) (s : State), r = regionAt region s →
    (r.shadows = [] → ∀ dev, exec (.shadowComparison region dev) s = .next s)
    ∧ (∀ x rest dev, r.shadows = x :: rest → x.window = false →
      ((∀ d ∈ deviations x dev, d = 0) → ∃ t, exec (.shadowComparison region dev) s = .next t
        ∧ regionAt region t = { r with shadows := rest } ∧ rd CHK_STAT.shadows t = (rd CHK_STAT.shadows s + 1) % 2 ^ 32
        ∧ t.srv = { s.srv with
            running := s.srv.running.map fun u => if u.num = x.step then { u with shadows := u.shadows - 1 } else u
            done := s.srv.done.map fun u => if u.num = x.step then { u with shadows := u.shadows - 1 } else u }
        ∧ codesJoin s t [0x00F1] ∧ s.SameRegs [CHK_STAT] t ∧ otherRegionsSame region s t
        ∧ t = { s with regs := t.regs, regions := t.regions, srv := t.srv, reports := t.reports })
      ∧ (x.analogue = true → x.step ≠ 0 → shadowTol x.rEff s * shadowTol x.rEff s < rhoSquared x (deviations x dev) →
        ∃ t, exec (.shadowComparison region dev) s = .next t ∧ rd CHK_STAT.mismatch t = 1
          ∧ rd CHK_STAT.mismatches t = min (rd CHK_STAT.mismatches s + 1) 65535 ∧ (regionAt region t).shadows = rest
          ∧ (∀ u, s.srv.running = some u → x.step ≤ u.num → ∃ v, t.srv.running = some v ∧ v.num = u.num ∧ v.void = true)
          ∧ (blockAt region x.block t).want.contains .replay = true
          ∧ ((blockAt region x.block s).window = none → (blockAt region x.block s).retired = false →
              (blockAt region x.block t).window = some ⟨64, 0, false⟩)
          ∧ codesJoin s t [0x00F1, 0x0090] ∧ s.SameRegs [CHK_STAT, CHK_SUSPECT] t ∧ otherRegionsSame region s t
          ∧ otherBlocksSame region x.block s t
          ∧ t = { s with regs := t.regs, regions := t.regions, blocks := t.blocks, srv := t.srv, reports := t.reports })
      ∧ (x.analogue = true → x.step = 0 → shadowTol x.rEff s * shadowTol x.rEff s < rhoSquared x (deviations x dev) →
        (blockAt region x.block s).window = none → (blockAt region x.block s).retired = false →
        (∀ u, s.srv.running = some u → u.num ≠ 0) → (∀ u ∈ s.srv.done, u.num ≠ 0) →
        ∃ t, exec (.shadowComparison region dev) s = .next t ∧ (regionAt region t).shadows = rest ∧ t.srv = s.srv
          ∧ (blockAt region x.block t).window = some ⟨64, 0, true⟩))
    ∧ (∀ block : Fin 1312, ∃ t, exec (.suspectWindowEnd region (some block)) s = .next t
      ∧ blockAt region block t = { blockAt region block s with
          window := (blockAt region block s).window.filter fun w => decide (w.left ≠ 0) || decide (2 ≤ w.hits) }
      ∧ otherBlocksSame region block s t ∧ s.SameRegs [CHK_SUSPECT] t ∧ t = { s with regs := t.regs, blocks := t.blocks })
    ∧ (∃ t, exec (.suspectWindowEnd region none) s = .next t
      ∧ regionAt region t = { r with window := r.window.filter fun w => decide (w.left ≠ 0) || decide (2 ≤ w.hits) }
      ∧ otherRegionsSame region s t ∧ s.SameRegs [CHK_SUSPECT] t ∧ t = { s with regs := t.regs, regions := t.regions })
    ∧ (r.want.contains .engineTest = false → ∀ ok, exec (.engineTestEnd region ok) s = .next s)
    ∧ (r.want.contains .engineTest = true → s.srv.running.isSome = true → ∃ t, exec (.engineTestEnd region true) s = .next t
      ∧ regionAt region t = { r with suspects := [], want := r.want.filter (· != .engineTest) }
      ∧ otherRegionsSame region s t ∧ t = { s with regions := t.regions })

/-- Rattle tests: one that falls due starts at once where it needs no stand-in and nothing defers it, and is deferred otherwise; its end
counts it with its result; one may be asked for out of turn on a region that is not down. A region reset outside debug mode is ignored. -/
def Obligations.RattleTestsRun : Prop :=
  (∀ (p : Fin 52) (s : State), rattleTarget s = some p.val →
    (rd CHK_RATTLE_STAT.running s ≠ 0 → exec .rattleTestStart s = .next s)
    ∧ (rd CHK_RATTLE_STAT.running s = 0 → rattleBlocked p s = true → ∃ t, exec .rattleTestStart s = .next t
      ∧ rd CHK_RATTLE_STAT.deferred t = 1 ∧ rd CHK_RATTLE_STAT.running t = 0 ∧ s.SameRegs [CHK_RATTLE_STAT] t
      ∧ t = { s with regs := t.regs })
    ∧ (rd CHK_RATTLE_STAT.running s = 0 → rattleBlocked p s = false → rattleNeedsCover p s = false →
      ∃ t, exec .rattleTestStart s = .next t ∧ rd CHK_RATTLE_STAT.running t = 1 ∧ rd CHK_RATTLE_STAT.deferred t = 0
        ∧ rd CHK_RATTLE_STAT.region t = p
        ∧ rd CHK_RATTLE_CTL.next t = (if (regionAt p s).rattleAsked then rd CHK_RATTLE_CTL.next s else (p.val + 1) % 52)
        ∧ regionAt p t = { regionAt p s with rattleAsked := false } ∧ t.pwr = { s.pwr with rattleAt := s.now }
        ∧ s.SameRegs [CHK_RATTLE_STAT, CHK_RATTLE_CTL] t ∧ otherRegionsSame p s t
        ∧ t = { s with regs := t.regs, regions := t.regions, pwr := t.pwr }))
  ∧ (∀ (finding : RattleFinding) (fails : Bool) (s : State), s.srv.running.isSome = true →
    (finding = .clean ∧ fails = false ∨ finding = .otherFault ∧ fails = true) →
    (rd CHK_RATTLE_STAT.running s = 0 → exec (.rattleTestEnd finding) s = .next s)
    ∧ (rd CHK_RATTLE_STAT.running s ≠ 0 → ∃ t, exec (.rattleTestEnd finding) s = .next t ∧ rd CHK_RATTLE_STAT.running t = 0
      ∧ rd CHK_RATTLE_STAT.result t = (if fails then 0 else 1)
      ∧ rd CHK_RATTLE_STAT.tests t = (rd CHK_RATTLE_STAT.tests s + 1) % 2 ^ 32
      ∧ rd CHK_RATTLE_STAT.fails t = (if fails then min (rd CHK_RATTLE_STAT.fails s + 1) 65535 else rd CHK_RATTLE_STAT.fails s)
      ∧ rd CHK_STAT.rattle_fail t = (if fails then 1 else rd CHK_STAT.rattle_fail s)
      ∧ regionAt (rd CHK_RATTLE_STAT.region s) t = { regionAt (rd CHK_RATTLE_STAT.region s) s with
          want := (regionAt (rd CHK_RATTLE_STAT.region s) s).want.filter (· != .rattle) }
      ∧ codesJoin s t [0x0095] ∧ s.SameRegs [CHK_RATTLE_STAT, CHK_STAT] t ∧ otherRegionsSame (rd CHK_RATTLE_STAT.region s) s t
      ∧ t = { s with regs := t.regs, regions := t.regions, reports := t.reports }))
  ∧ ∀ (c : Instr) (region : Fin 52) (w : Write) (s : State), reaches w.who s →
    c ∈ [Instr.rattleRequest region w, .regionResetRequest region w] →
    (wone (RGN_CTL.rattle region) w = true → wone (RGN_CTL.reset region) w = false → regionDown region s = false →
      ∃ t, exec c s = .next t ∧ regionAt region t = { regionAt region s with rattleAsked := true } ∧ otherRegionsSame region s t
        ∧ t = { s with regions := t.regions })
    ∧ (wone (RGN_CTL.rattle region) w = false → wone (RGN_CTL.reset region) w = true → debugMode s = false →
      ∃ t, exec c s = .next t ∧ codesJoin s t [0x0002] ∧ t = { s with reports := t.reports })

/-- A region reset, for an uncorrectable error in its SRAM, for tables no two copies of which agree, or asked for in debug mode: the
region loses its tiles, flags, counters and the reads on their way, its step is void, it wants stand-in; here no third one within 600 s.
At its end every block runs a full vector set and a pass of every block is queued. A single disagreement in a table is corrected and
counted. A spare whose blocks are written and that qualifies enters warm-up and serves from the next boundary; one that does not is tried
again, and after the third time the other spare is brought up. -/
def Obligations.ResetsSparesAndScrubs : Prop :=
  ∀ (region : Fin 52) (r : Region) (s : State), r = regionAt region s → s.srv.running.isSome = true →
    (∀ c : Instr, (recent (600 * second) r.resets s).length < 2 →
      (c = .sramEccError region true
        ∨ (∃ word a b f g, a ≠ b ∧ f ≠ 0 ∧ g ≠ 0 ∧ f ≠ g ∧ c = .configScrub region [⟨word, a, f⟩, ⟨word, b, g⟩])
        ∨ ∃ w, c = .regionResetRequest region w ∧ reaches w.who s ∧ wone (RGN_CTL.rattle region) w = false
            ∧ wone (RGN_CTL.reset region) w = true ∧ debugMode s = true) →
      ∃ t, exec c s = .next t ∧ (regionAt region t).tiles = [] ∧ (regionAt region t).flags = [] ∧ (regionAt region t).counts = []
        ∧ (regionAt region t).lastCounts = [] ∧ (regionAt region t).shadows = r.shadows ∧ (regionAt region t).capture = []
        ∧ (regionAt region t).resets = recent (600 * second) r.resets s ++ [s.now]
        ∧ (regionAt region t).want.contains .reset = true ∧ (regionAt region t).blockMap = r.blockMap
        ∧ (∀ b, b < 1312 → (blockAt region b t).queue = [] ∧ (blockAt region b t).pass = none)
        ∧ (∀ u, s.srv.running = some u → ∃ v, t.srv.running = some v ∧ v.num = u.num ∧ v.void = true)
        ∧ rd CHK_STAT.rgn_reset t = 1 ∧ codesJoin s t [0x0093]
        ∧ s.SameRegs [CHK_STAT, CHK_RETIRED, RGN_STATE region, RGN_SAT_CNT region, RGN_ZERO_CNT region, RGN_TILE_SAT region,
            RGN_RECIPE_FLAG region, RGN_CFG_VOTE region, RGN_DEBUG_CTL region] t
        ∧ otherRegionsSame region s t ∧ s.SameMemory t
        ∧ t = { s with regs := t.regs, regions := t.regions, blocks := t.blocks, srv := t.srv, reports := t.reports })
    ∧ (∃ t, exec (.sramEccError region false) s = .next t ∧ codesJoin s t [Config.unlistedCode 393] ∧ t = { s with reports := t.reports })
    ∧ (r.want.contains .reset = false → exec (.regionResetComplete region) s = .next s)
    ∧ (r.want.contains .reset = true → ∀ u, u = fullSets region s →
      ∃ t, exec (.regionResetComplete region) s = .next t
        ∧ (u.srv.running.isSome = true → regionAt region t = { regionAt region u with want := (regionAt region u).want.filter (· != .reset) }
        ∧ (∀ b, b < 1312 → blockAt region b t = queuePass .scheduled (blockAt region b u))
        ∧ (∀ k, k / 1312 ≠ region.val → tget Block.init t.blocks k = tget Block.init u.blocks k)
        ∧ otherRegionsSame region u t ∧ t = { u with regions := t.regions, blocks := t.blocks }))
    ∧ (r.bringUp = none → ∀ ok failing, exec (.spareQualified region ok failing) s = .next s)
    ∧ (∀ l, r.bringUp = some l → regionWritten region l s = false → ∀ ok failing, exec (.spareQualified region ok failing) s = .next s)
    ∧ (∀ l, r.bringUp = some l → regionWritten region l s = true →
      (∀ failing, ∃ t, exec (.spareQualified region true failing) s = .next t
        ∧ regionAt region t = { r with qualified := true }
        ∧ (∀ b, b < 1312 → (∃ p ∈ s.blocks, p.1 = blockKey region b) → blockAt region b t = { blockAt region b s with
            warm := true, warmFrom := s.pwr.operated, warmEnds := false, mvms := 0, swept := true })
        ∧ (∀ k, k / 1312 ≠ region.val → tget Block.init t.blocks k = tget Block.init s.blocks k) ∧ otherRegionsSame region s t
        ∧ t = { s with regions := t.regions, blocks := t.blocks, pwr := { s.pwr with warmFrom := s.pwr.operated } })
      ∧ (r.qualFails < 3 → ∃ t, exec (.spareQualified region false []) s = .next t
        ∧ regionAt region t = { r with qualFails := r.qualFails + 1 } ∧ otherRegionsSame region s t
        ∧ t = { s with regions := t.regions })
      ∧ (3 ≤ r.qualFails → region.val = 48 → l < 48 → regionDown 49 s = false → rd CHK_RETIRED.s1_serves s = 0x3F →
        ∃ t, exec (.spareQualified region false []) s = .next t ∧ rd (RGN_STATE.unusable 48) t = 1 ∧ rd CHK_RETIRED.s0_serves t = 0x3F
          ∧ rd CHK_RETIRED.s1_serves t = l ∧ regionAt 48 t = { r with bringUp := none, qualified := false }
          ∧ regionAt 49 t = { regionAt 49 s with bringUp := some l, qualified := false, qualFails := 0 }
          ∧ codesJoin s t [0x0092, 0x0094] ∧ s.SameRegs [RGN_STATE 48, CHK_RETIRED, CHK_STAT] t
          ∧ t = { s with regs := t.regs, regions := t.regions, reports := t.reports }))
    ∧ (∃ t, exec (.configScrub region []) s = .next t
      ∧ rd (RGN_CFG_VOTE.scrubs region) t = (rd (RGN_CFG_VOTE.scrubs region) s + 1) % 65536 ∧ s.SameRegs [RGN_CFG_VOTE region] t
      ∧ t = { s with regs := t.regs })
    ∧ (∀ word copy flips, flips ≠ 0 → ∃ t, exec (.configScrub region [⟨word, copy, flips⟩]) s = .next t
      ∧ rd (RGN_CFG_VOTE.corrected region) t = min (rd (RGN_CFG_VOTE.corrected region) s + 1) (2 ^ 24 - 1)
      ∧ rd (RGN_CFG_VOTE.last_word region) t = word % 65536
      ∧ rd (RGN_CFG_VOTE.scrubs region) t = (rd (RGN_CFG_VOTE.scrubs region) s + 1) % 65536
      ∧ rd CHK_STAT.vote t = 1 ∧ codesJoin s t [0x0017] ∧ s.SameRegs [RGN_CFG_VOTE region, CHK_STAT] t
      ∧ t = { s with regs := t.regs, reports := t.reports })

/-! ## Weights -/

/-- Commands of the weights unit, in service and awake: LOAD takes a slot that is FREE or INCOMPLETE and starts from WLD_SRC; it fails
with code 1 while a load runs and with code 10 for a source it may not use. RETIRE drains a READY or ACTIVE slot at the next boundary;
UNLOAD frees a slot no request uses; RELOAD names a new source. A command that its slot's state does not allow is ignored. A load that is
aborted, or that the host cannot serve for too long, ends with its code: its slot is INCOMPLETE where a cell of it was written, FREE
otherwise. -/
def Obligations.LoadCommandsAndTheirEnds : Prop :=
  (∀ (who : Master) (slot : Fin 4) (s : State), reaches who s → rd PWR_STATE.state s = 0 →
    (rd GLB_STATE.state s = 2 ∨ rd GLB_STATE.state s = 3) → rd GLB_STATE.rom_runner s = 0 →
    (∀ (act dispEn : Bool) (dispSlot : Fin 4) (deadline : BitVec 16),
      (∀ code, s.wld.load.isSome = true ∧ code = 1
          ∨ s.wld.load = none ∧ rd (WLD_GEN.state slot) s ∈ [0, 5] ∧ (rd WLD_SRC.kind s = 3 ∨ rd WLD_SRC.kind s = 2 ∧ s.boot.lcs ≠ 1)
            ∧ code = 10 →
        ∃ t, exec (.load who slot act dispEn dispSlot deadline) s = .next t
        ∧ rd WLD_STAT.err t = 1 ∧ rd WLD_STAT.code t = code ∧ codesJoin s t [0x0080] ∧ s.SameRegs [WLD_STAT] t
        ∧ t = { s with regs := t.regs, reports := t.reports })
      ∧ (s.wld.load = none → rd WLD_SRC.kind s ≤ 1 →
        (rd (WLD_GEN.state slot) s = 0 ∨ rd (WLD_GEN.state slot) s = 5) →
        ∃ t, exec (.load who slot act dispEn dispSlot deadline) s = .next t
          ∧ t.wld.load = some ⟨slot, act, dispEn, dispSlot, deadline.toNat, rd WLD_SRC.kind s, rd WLD_SRC.addr s,
              rd (WLD_GEN.state slot) s != 0, false, [], false, 1⟩
          ∧ rd WLD_STAT.busy t = 1 ∧ rd WLD_STAT.slot t = slot ∧ rd WLD_STAT.code t = 0
          ∧ rd WLD_STAT.chunks_done t = 0 ∧ rd WLD_STAT.chunks_total t = 0
          ∧ (rd (WLD_GEN.state slot) s = 0 → rd (WLD_GEN.state slot) t = 1 ∧ codesJoin s t [0x0082]
            ∧ genAt slot t = { genAt slot s with source := (rd WLD_SRC.kind s, rd WLD_SRC.addr s) })
          ∧ (rd (WLD_GEN.state slot) s = 5 → t.reg (WLD_GEN slot) = s.reg (WLD_GEN slot) ∧ t.reports = s.reports
            ∧ genAt slot t = genAt slot s)
          ∧ (∀ g, g ≠ slot.val → genAt g t = genAt g s) ∧ s.SameRegs [WLD_GEN slot, WLD_STAT, WLD_PARCEL_STAT] t
          ∧ t = { s with regs := t.regs, reports := t.reports, wld := t.wld }))
    ∧ (∀ deadline : BitVec 16,
      (rd (WLD_GEN.state slot) s ∈ [2, 3] → s.srv.running.isSome = true →
        exec (.retire who slot deadline) s = .next { s with wld := { s.wld with
          stagedDrain := s.wld.stagedDrain ++ [(slot.val, deadline.toNat)] } })
      ∧ (rd (WLD_GEN.state slot) s ∉ [2, 3] → ∃ t, exec (.retire who slot deadline) s = .next t ∧ codesJoin s t [0x0002]
        ∧ t = { s with reports := t.reports }))
    ∧ (rd (WLD_GEN.state slot) s = 5 ∧ s.wld.load = none ∨ rd (WLD_GEN.state slot) s = 2 ∧ pins slot s = 0 →
      ∃ t, exec (.unload who slot) s = .next t ∧ t.reg (WLD_GEN slot) = 0 ∧ genAt slot t = Gen.init
        ∧ (∀ g, g ≠ slot.val → genAt g t = genAt g s) ∧ codesJoin s t [0x0082] ∧ s.SameRegs [WLD_GEN slot] t
        ∧ (∀ p ∈ t.regions, ∀ e ∈ p.2.counts ++ p.2.lastCounts, e.1 / 65536 ≠ slot.val)
        ∧ t = { s with
            regs := t.regs, reports := t.reports, blocks := t.blocks, regions := t.regions, wld := { s.wld with gens := t.wld.gens }
            srv := { s.srv with stagedRecipes := s.srv.stagedRecipes.filter fun c => c.2.1 != slot.val } })
    ∧ (rd (WLD_GEN.state slot) s ∈ [0, 3, 4] ∨ rd (WLD_GEN.state slot) s = 2 ∧ pins slot s ≠ 0 →
      ∃ t, exec (.unload who slot) s = .next t ∧ codesJoin s t [0x0002] ∧ t = { s with reports := t.reports })
    ∧ (rd (WLD_GEN.state slot) s ≠ 0 → rd WLD_SRC.kind s < 2 → ∃ t, exec (.reload who slot) s = .next t
      ∧ genAt slot t = { genAt slot s with source := (rd WLD_SRC.kind s, rd WLD_SRC.addr s), sourceLost := false }
      ∧ (rd WLD_SRC.kind s = 0 → t.sent = s.sent)
      ∧ (rd WLD_SRC.kind s = 1 → t.sent.length = s.sent.length + (genAt slot s).reload.length)
      ∧ (∀ g, g ≠ slot.val → genAt g t = genAt g s) ∧ t = { s with wld := { s.wld with gens := t.wld.gens }, sent := t.sent }))
  ∧ ∀ (c : Instr) (code : Nat) (l : Load) (s : State), s.wld.load = some l → l.slot < 4 → l.resume = false → l.kind ≠ 1 →
    (c = .loadPauseTimeout ∧ l.kind = 0 ∧ (s.cxl.up && s.cxl.bme) = false ∧ code = 11
      ∨ (∃ who slot, c = .abort who slot ∧ reaches who s ∧ slot.val = l.slot) ∧ rd PWR_STATE.state s = 0
        ∧ (rd GLB_STATE.state s = 2 ∨ rd GLB_STATE.state s = 3) ∧ rd GLB_STATE.rom_runner s = 0 ∧ code = 12) →
    ∃ t, exec c s = .next t ∧ t.wld.load = none ∧ rd WLD_STAT.busy t = 0 ∧ rd WLD_STAT.err t = 1
      ∧ rd WLD_STAT.code t = code ∧ rd (WLD_GEN.state l.slot) t = (if (genAt l.slot s).wrote then 5 else 0)
      ∧ s.SameRegs [WLD_STAT, WLD_GEN l.slot] t
      ∧ t = { s with regs := t.regs, reports := t.reports, wld := t.wld, blocks := t.blocks, regions := t.regions
                     srv := { s.srv with stagedRecipes := t.srv.stagedRecipes } }

/-- A load goes on: a container header and manifest that pass every check are taken up with their placement, any that does not ends the
load with its code; a good chunk joins the copy, one without its hash, with a reserved weight code or from a source out of reach ends the
load; a chunk held over a reset joins the copy or is fetched again, and once all have matched the generation is READY again. A staged
generation, and a drain whose deadline has passed, wait for the next boundary while a step runs. -/
def Obligations.LoadsProgress : Prop :=
  (∀ (header raw : List Byte) (pageBytes : Nat) (h : LusonHeader) (m : Manifest) (s : State),
    h = parseHeader header → m = parseManifest raw pageBytes →
    (s.wld.load = none → exec (.manifestFetched header raw pageBytes) s = .next s)
    ∧ (∀ l, s.wld.load = some l → l.kind = 0 → (s.cxl.up && s.cxl.bme) = true → l.slot < 4 → l.verified = false → l.resume = false →
      rd (WLD_GEN.state l.slot) s = 1 →
      (∀ code, headerError l h s = some code
          ∨ headerError l h s = none ∧ h.kind = 0 ∧ placeGen l h.footprint s = .error code
          ∨ headerError l h s = none ∧ (∃ x, placeGen l h.footprint s = .ok x) ∧ signedOk m s = false ∧ code = 3
          ∨ headerError l h s = none ∧ (∃ x, placeGen l h.footprint s = .ok x) ∧ signedOk m s = true ∧ manifestOk h m = false ∧ code = 7 →
        ∃ t, exec (.manifestFetched header raw pageBytes) s = .next t ∧ t.wld.load = none ∧ rd WLD_STAT.busy t = 0
          ∧ rd WLD_STAT.err t = 1 ∧ rd WLD_STAT.code t = code
          ∧ rd (WLD_GEN.state l.slot) t = (if (genAt l.slot s).wrote = true ∧ code ∉ [2, 3, 7] then 5 else 0))
      ∧ (∀ o wait, headerError l h s = none → h.kind = 0 → placeGen l h.footprint s = .ok (o, wait) → signedOk m s = true →
        manifestOk h m = true → 0 < m.chunks → s.wld.queued = [] → isLast s = true →
        ∃ t, exec (.manifestFetched header raw pageBytes) s = .next t
          ∧ genAt l.slot t = { genAt l.slot s with
              manifest := some m, header, raw, source := (0, l.addr), sourceLost := false
              verify := (genAt l.slot s).verify ++ (genAt l.slot s).chunks, chunks := [], reload := []
              payload := [], sums := [], blocksDone := [], wrote := false }
          ∧ rd (WLD_GEN.gen l.slot) t = h.gen ∧ rd (WLD_GEN.footprint l.slot) t = h.footprint ∧ rd (WLD_GEN.offset l.slot) t = o
          ∧ rd (WLD_GEN.master l.slot) t = 0 ∧ t.wld.load = some { l with verified := true, displaces := wait, phase := 2 }
          ∧ rd WLD_STAT.chunks_total t = h.chunks ∧ (∀ g, g ≠ l.slot → genAt g t = genAt g s) ∧ s.SameRegs [WLD_GEN l.slot, WLD_STAT] t
          ∧ t = { s with regs := t.regs, wld := { s.wld with gens := t.wld.gens, load := t.wld.load } })))
  ∧ (∀ (index : Nat) (bytes : Option (List Byte)) (s : State),
    (∀ g m, reloadSlot index s = some g → (genAt g s).manifest = some m →
      ((∀ b, bytes = some b → hashOk m index b = false) → ∃ t, exec (.chunkFetched index bytes) s = .next t
        ∧ genAt g t = { genAt g s with sourceLost := true } ∧ (∀ i, i ≠ g → genAt i t = genAt i s) ∧ codesJoin s t [0x0081]
        ∧ t = { s with wld := { s.wld with gens := t.wld.gens }, reports := t.reports })
      ∧ (∀ b, bytes = some b → hashOk m index b = true → s.wld.load = none → s.srv.running.isSome = true →
        (∀ r, ∀ p ∈ (regionAt r s).tiles, p.2.held = []) →
        ∃ t, exec (.chunkFetched index bytes) s = .next t ∧ (genAt g t).reload = (genAt g s).reload.filter (· != index)
          ∧ (genAt g t).chunks.contains index = true ∧ tget [] (genAt g t).payload index = b))
    ∧ (∀ l m, reloadSlot index s = none → s.wld.load = some l → l.kind = 0 → (s.cxl.up && s.cxl.bme) = true → l.slot < 4 →
      l.verified = true → (genAt l.slot s).manifest = some m → index < m.chunks → (genAt l.slot s).chunks.contains index = false →
      (∀ code, bytes = none ∧ code = 11 ∨ (∃ b, bytes = some b ∧ hashOk m index b = false) ∧ code = 4
          ∨ (∃ b, bytes = some b ∧ hashOk m index b = true ∧ payloadOk m (tset [] (genAt l.slot s).payload index b) index = false) ∧ code = 7 →
        ∃ t, exec (.chunkFetched index bytes) s = .next t ∧ t.wld.load = none ∧ rd WLD_STAT.busy t = 0 ∧ rd WLD_STAT.err t = 1
          ∧ rd WLD_STAT.code t = code)
      ∧ (∀ b, bytes = some b → hashOk m index b = true → payloadOk m (tset [] (genAt l.slot s).payload index b) index = true →
        (genAt l.slot s).chunks.length + 1 < m.chunks → s.wld.queued = [] → isLast s = true →
        ∃ t, exec (.chunkFetched index bytes) s = .next t
          ∧ genAt l.slot t = { genAt l.slot s with
              chunks := (genAt l.slot s).chunks ++ [index], verify := (genAt l.slot s).verify.filter (· != index)
              payload := tset [] (genAt l.slot s).payload index b }
          ∧ rd WLD_STAT.chunks_done t = min (rd WLD_STAT.chunks_done s + 1) (2 ^ WLD_STAT.chunks_done.w - 1)
          ∧ s.SameRegs [WLD_STAT] t ∧ (∀ g, g ≠ l.slot → genAt g t = genAt g s)
          ∧ t = { s with regs := t.regs, wld := { s.wld with gens := t.wld.gens } })))
  ∧ (∀ (slot : Fin 4) (index : Nat) (s : State),
    ((genAt slot s).verify.contains index = false → exec (.chunkReverified slot index) s = .next s)
    ∧ ∀ m matched, (genAt slot s).verify.contains index = true → s.wld.load = none → s.wld.queued = [] →
      (genAt slot s).manifest = some m → matched = hashOk m index (tget [] (genAt slot s).payload index) →
      ((genAt slot s).verify.filter (· != index) ≠ [] → (genAt slot s).source.1 = 0 → ∃ t, exec (.chunkReverified slot index) s = .next t
        ∧ genAt slot t = { genAt slot s with
            verify := (genAt slot s).verify.filter (· != index)
            chunks := if matched then (genAt slot s).chunks ++ [index] else (genAt slot s).chunks
            payload := if matched then (genAt slot s).payload else tset [] (genAt slot s).payload index []
            reload := if matched then (genAt slot s).reload else (genAt slot s).reload ++ [index] }
        ∧ (∀ g, g ≠ slot.val → genAt g t = genAt g s) ∧ t = { s with wld := { s.wld with gens := t.wld.gens } })
      ∧ (matched = true → (genAt slot s).verify.filter (· != index) = [] → (genAt slot s).reload = [] →
        m.chunks ≤ (genAt slot s).chunks.length + 1 → rd (WLD_GEN.state slot) s = 1 → rd (WLD_GEN.resident slot) s = 1 →
        (genAt slot s).wasActive = false → (mainBlocks m).all (genAt slot s).blocksDone.contains = true →
        ∃ t, exec (.chunkReverified slot index) s = .next t ∧ rd (WLD_GEN.state slot) t = 2 ∧ rd (WLD_GEN.master slot) t = 1
          ∧ rd (WLD_GEN.resident slot) t = 0 ∧ (genAt slot t).wide = [] ∧ codesJoin s t [0x0082] ∧ s.SameRegs [WLD_GEN slot] t))
  ∧ (∀ (w : Write) (none_ : Bool) (g : Nat) (s : State), reaches w.who s → w.half ≠ .upper → s.srv.running.isSome = true →
    none_ = (wbits WLD_ACTIVE.none w s != 0) → g = wbits WLD_ACTIVE.slot w s →
    (none_ = true ∨ rd (WLD_GEN.state g) s ∈ [2, 3] → ∃ t, exec (.wldActiveWrite w) s = .next t ∧ rd WLD_ACTIVE.pending t = 1
      ∧ t.wld = { s.wld with stagedActive := some (if none_ then none else some g) }
      ∧ s.SameRegs [WLD_ACTIVE] t ∧ t = { s with regs := t.regs, wld := t.wld })
    ∧ (none_ = false → rd (WLD_GEN.state g) s ∉ [2, 3] → ∃ t, exec (.wldActiveWrite w) s = .next t ∧ codesJoin s t [0x0002]
      ∧ t = { s with reports := t.reports }))
  ∧ ∀ (slot : Fin 4) (s : State),
    (rd (WLD_GEN.state slot) s ≠ 4 → exec (.drainDeadline slot) s = .next s)
    ∧ (rd (WLD_GEN.state slot) s = 4 → s.srv.running.isSome = true →
      exec (.drainDeadline slot) s = .next { s with wld := { s.wld with expired := s.wld.expired ++ [slot.val] } })

/-- Programming of a block: spares first, in ascending order, then the load's next block that no generation in use lies on, start with a
journal entry while fewer blocks than the limit are programming. The row the journal names takes the levels of its generation once it
verifies in every column, counts, and moves the journal to the next row; the last row of an array writes its weight sums; a column that
does not verify is given a spare; no other row is written. A block with every row written is complete where its pass and its set hold,
and is written once more where they do not. -/
def Obligations.BlocksAreProgrammed : Prop :=
  ∀ (region : Fin 52) (block : Fin 1312) (b : Block) (s : State), b = blockAt region block s →
    (b.journal.isSome = true ∨ programLimit s ≤ programmingNow s → exec (.blockProgramStart region block) s = .next s)
    ∧ (b.journal = none →
      (∀ src ts (b' : Block), (region.val, block.val) ∈ sparesWaiting s → programmingNow s < programLimit s →
        (∀ x ∈ sparesWaiting s, logicalKey region block s ≤ logicalKey x.1 x.2 s) → spareJob region block s = some src →
        ts = missingTiers region block src s → resumes b ts = false →
        b' = { b with tiers := (b.tiers.filter fun x => !ts.any fun t => t.1 == x.1) ++ ts.map fun t => (t.1, { t.2 with complete := false }) } →
        ∃ t, exec (.blockProgramStart region block) s = .next t
          ∧ blockAt region block t = { b' with journal := some ⟨3, firstRowOf (jobArrays 3 b'), 0⟩ }
          ∧ otherBlocksSame region block s t ∧ t = { s with blocks := t.blocks })
      ∧ (∀ l m ts (b' : Block), s.wld.load = some l → (region.val, block.val) ∉ sparesWaiting s →
        programmingNow s + (sparesWaiting s).length < programLimit s → forKeep region block s = false → forLoad region block s = true →
        blockInUse region block s = false → (genAt l.slot s).manifest = some m →
        ts = genTiers (rd (WLD_GEN.gen l.slot) s) (rd (WLD_GEN.footprint l.slot) s) (rd (WLD_GEN.offset l.slot) s) (digest12 m) →
        resumes b ts = false → b' = { b with tiers := (b.tiers.filter fun x => !ts.any fun t => t.1 == x.1) ++ ts } →
        ∃ t, exec (.blockProgramStart region block) s = .next t
          ∧ blockAt region block t = { b' with journal := some ⟨1, firstRowOf (jobArrays 1 b'), rd (WLD_GEN.gen l.slot) s⟩ }
          ∧ genAt l.slot t = { genAt l.slot s with programming := (genAt l.slot s).programming ++ [logicalKey region block s] }
          ∧ (∀ g, g ≠ l.slot → genAt g t = genAt g s) ∧ otherBlocksSame region block s t
          ∧ t = { s with blocks := t.blocks, wld := { s.wld with gens := t.wld.gens } }))
    ∧ (∀ (array : Fin 512) (row : Fin 32) excluded, (∀ j, b.journal = some j → j.row ≠ 32 * array.val + row.val) →
      exec (.rowProgrammed region block array row excluded) s = .next s)
    ∧ ((∀ j, b.journal = some j → j.op = 2 ∨ j.row ≠ 16384) → exec (.blockProgramComplete region block) s = .next s)
    ∧ (∀ (j : Journal) (array : Fin 512) (row : Fin 32) (k : Nat), b.journal = some j → b.retired = false → k = 32 * array.val + row.val →
      j.row = k →
      (∃ t, exec (.rowProgrammed region block array row 0) s = .next t
        ∧ rowAt (rowKey region block array row) t = programmedRow region block array row s
        ∧ (∀ i, i ≠ rowKey region block array row → rowAt i t = rowAt i s)
        ∧ rd WLD_PROG.rows t = (rd WLD_PROG.rows s + 1) % 2 ^ WLD_PROG.rows.w
        ∧ blockAt region block t = closeTier array row { b with
            journal := some { j with row := rowAfter (jobArrays j.op b) k }, untrusted := b.untrusted.filter (· != k)
            rewrites := tset 0 b.rewrites k (tget 0 b.rewrites k + 1), written := tset 0 b.written array.val s.now }
        ∧ (∀ l, s.wld.load = some l → j.op = 1 → region.val < 50 → (genAt l.slot t).wrote = true)
        ∧ (row.val ≠ 31 → t.wsums = s.wsums)
        ∧ (∀ tier x, row.val = 31 → (b.tiers.find? fun t => t.1 == array.val / 128 && t.2.gen != 0) = some tier →
            tierTile tier.2 (placeOf region block s).1 (placeOf region block s).2 array s = some x →
            tget [] t.wsums (512 * blockKey region block + array.val) = x.1.sums x.2)
        ∧ s.SameRegs [WLD_PROG] t ∧ otherBlocksSame region block s t
        ∧ t = { s with regs := t.regs, cells := t.cells, blocks := t.blocks, wsums := t.wsums, wld := { s.wld with gens := t.wld.gens } })
      ∧ (∀ c, c < 14 → remapOf b array = (31, 31) → b.remapNext = [] → b.badSpares = [] → b.noMonitor = [] →
        ∃ t, exec (.rowProgrammed region block array row (1#32 <<< c)) s = .next t
          ∧ (blockAt region block t).remapNext = [(array.val, (c, 31))] ∧ (blockAt region block t).want.contains .spare = true
          ∧ codesJoin s t [0x0094] ∧ otherBlocksSame region block s t))
    ∧ ∀ (j : Journal) x, b.journal = some j → j.op = 1 → region.val < 50 → j.row = 16384 → x = checkBlock region block s →
      ∃ t, exec (.blockProgramComplete region block) s = .next t ∧ ((blockAt region block x.2).retired = false →
      (x.1 = true → x.2.srv.running.isSome = true →
        blockAt region block t = { blockAt region block x.2 with
            journal := none, overCheck := false, drift := [], want := (blockAt region block x.2).want.filter (· != .program) }
        ∧ otherBlocksSame region block x.2 t
        ∧ (x.2.wld.load = none → t = { x.2 with blocks := t.blocks })
        ∧ (∀ l m key, x.2.wld.load = some l → (genAt l.slot x.2).manifest = some m → key = logicalKey region block x.2 →
          (mainBlocks m).contains key = true →
          (blockAt region block x.2).tiers.any (fun q => q.2.gen == rd (WLD_GEN.gen l.slot) x.2 && q.2.complete) = true →
          (∃ k ∈ mainBlocks m, k ≠ key ∧ (genAt l.slot x.2).blocksDone.contains k = false) →
          (genAt l.slot t).blocksDone.contains key = true ∧ (genAt l.slot t).programming = (genAt l.slot x.2).programming.filter (· != key)
            ∧ t = { x.2 with blocks := t.blocks, wld := { x.2.wld with gens := t.wld.gens } }))
      ∧ (x.1 = false → b.overCheck = false → (blockAt region block t).overCheck = true ∧ (blockAt region block t).journal.isSome = true
        ∧ (∀ q ∈ (blockAt region block t).tiers, q.2.gen = j.gen → q.2.complete = false)
        ∧ otherBlocksSame region block x.2 t ∧ t = { x.2 with blocks := t.blocks }))

/-- Frames of the chain: with no load of this part's own a manifest or chunk frame goes on downstream one hop further, but a resend frame
and one at the chain's last part go no further; a bad manifest or chunk frame of its own load is asked for again; a request is answered
from a verified copy, waits for the load that may bring it, or goes on upstream; a completion at the head of the chain shows its outcome
and the chain's length, and a failure goes on upstream from any other part. -/
def Obligations.ParcelFramesTravel : Prop :=
  (∀ (c : Instr) (frame : List Byte) (pageBytes : Nat) (f : ParcelFrame) (s : State), f = parseFrame frame →
    (∀ l, s.wld.load = some l → l.kind ≠ 1) → (∀ g, g < 4 → (genAt g s).reload = []) →
    c ∈ [Instr.parcelManifestFrame frame pageBytes, .parcelChunkFrame frame] →
    exec c s = .next { s with sent := s.sent ++
      (if isLast s = true ∨ f.resent = true then [] else [.parcelFrame { f with hop := min (f.hop + 1) 65535 } (frame.drop 64)]) })
  ∧ (∀ (frame : List Byte) (pageBytes : Nat) (f : ParcelFrame) (l : Load) (s : State), f = parseFrame frame → s.wld.load = some l →
    l.kind = 1 → l.verified = false → isLast s = true → tget 0 l.resends 0xFFFFFFFF < maxResend s →
    (frameWhole frame = false ∨ signedOk (parseManifest (frame.drop 128) pageBytes) s = false) →
    ∃ t, exec (.parcelManifestFrame frame pageBytes) s = .next t ∧ rd WLD_PARCEL_STAT.hop t = min (f.hop + 1) 65535
      ∧ rd WLD_PARCEL_STAT.resends t = min (rd WLD_PARCEL_STAT.resends s + 1) (2 ^ WLD_PARCEL_STAT.resends.w - 1)
      ∧ t.wld.load = some { l with resends := tset 0 l.resends 0xFFFFFFFF (tget 0 l.resends 0xFFFFFFFF + 1) }
      ∧ t.sent = s.sent ++ [.parcelFrame ⟨2, 0, min (f.hop + 1) 65535, f.gen, 0, f.digest, 0xFFFFFFFF, 0, 0, 0⟩ []]
      ∧ s.SameRegs [WLD_PARCEL_STAT] t ∧ t = { s with regs := t.regs, sent := t.sent, wld := { s.wld with load := t.wld.load } })
  ∧ (∀ (frame : List Byte) (f : ParcelFrame) (l : Load) (m : Manifest) (s : State), f = parseFrame frame → s.wld.load = some l →
    l.kind = 1 → l.verified = true → isLast s = true → frameFits f l.slot s = true → (genAt l.slot s).manifest = some m →
    (∀ g, g < 4 → (genAt g s).reload = []) → tget 0 l.resends f.index < maxResend s →
    (frameWhole frame && hashOk m f.index (frame.drop 64)) = false →
    ∃ t, exec (.parcelChunkFrame frame) s = .next t
      ∧ t.wld.load = some { l with resends := tset 0 l.resends f.index (tget 0 l.resends f.index + 1) }
      ∧ t.sent = s.sent ++ [.parcelFrame ⟨2, 0, rd WLD_PARCEL_STAT.hop s, f.gen, 0, f.digest, f.index, 0, 0, 0⟩ []]
      ∧ s.SameRegs [WLD_PARCEL_STAT] t ∧ t = { s with regs := t.regs, sent := t.sent, wld := { s.wld with load := t.wld.load } })
  ∧ (∀ (frame : List Byte) (f : ParcelFrame) (s : State), f = parseFrame frame →
    (∀ g m, holdsFor f s = some g → (genAt g s).manifest = some m → exec (.parcelReRequest frame) s = .next { s with sent := s.sent ++
      [.parcelFrame ⟨if f.index = 0xFFFFFFFF then 0 else 1, 1, rd WLD_PARCEL_STAT.hop s, m.gen, 0, digest64 m, f.index,
        (frameContent g f.index s).length, 0, 0⟩ (frameContent g f.index s)] })
    ∧ (∀ l, holdsFor f s = none → s.wld.load = some l → l.kind ≤ 1 → (l.verified = false ∨ frameFits f l.slot s = true) →
      exec (.parcelReRequest frame) s = .next { s with wld := { s.wld with queued := s.wld.queued ++ [f] } })
    ∧ (holdsFor f s = none → s.wld.load = none →
      exec (.parcelReRequest frame) s = .next { s with sent := s.sent ++ [.parcelFrame { f with hop := rd WLD_PARCEL_STAT.hop s } []] }))
  ∧ ∀ (frame : List Byte) (f : ParcelFrame) (lastHop : Nat) (s : State), f = parseFrame frame →
    ∃ t, exec (.parcelCompletion frame lastHop) s = .next t
      ∧ (isHead f s = true → rd WLD_STAT.pcl_done t = 1 ∧ rd WLD_PARCEL_STAT.done t = 1 ∧ rd WLD_PARCEL_STAT.ok t = f.ok % 2
        ∧ rd WLD_PARCEL_STAT.chain_len t = (lastHop + 1) % 2 ^ WLD_PARCEL_STAT.chain_len.w
        ∧ s.SameRegs [WLD_STAT, WLD_PARCEL_STAT] t ∧ t = { s with regs := t.regs })
      ∧ (isHead f s = false → f.ok % 2 = 0 → s.wld.chain.isSome = true → s.wld.upSent = false →
        rd WLD_PARCEL_STAT.done t = 1 ∧ rd WLD_PARCEL_STAT.ok t = 0 ∧ t.wld = { s.wld with downDone := some f, upSent := true }
        ∧ t.sent = s.sent ++ [.parcelFrame { f with hop := rd WLD_PARCEL_STAT.hop s } []]
        ∧ s.SameRegs [WLD_STAT, WLD_PARCEL_STAT] t ∧ t = { s with regs := t.regs, wld := t.wld, sent := t.sent })

/-- Costumes: an install command starts with its context and descriptor, and fails with code 1 while one runs, the context and the
descriptor's place being written all the same; an install that ends makes its descriptor a version of the context, staged for the next
boundary, or fails with its code; a remove command stages none. Here a step runs and the part is awake; in Tin Soldier mode and under the
ROM runner an install stands still. -/
def Obligations.CostumesAreInstalled : Prop :=
  (∀ (c : Instr) (w : Write) (ctx cmd : Nat) (s : State), reaches w.who s → rd PWR_STATE.state s = 0 → s.srv.running.isSome = true →
    c ∈ [Instr.costumeInstall w, .costumeRemove w] → ctx = wbits WLD_COSTUME_CTL.context w s → cmd = fget WLD_COSTUME_CTL.cmd (wdata w) →
    (rd WLD_COSTUME_CTL.busy s = 1 → cmd = 1 ∨ cmd = 2 → ∃ t, exec c s = .next t ∧ rd WLD_COSTUME_CTL.err t = 1
      ∧ rd WLD_COSTUME_CTL.code t = 1 ∧ rd WLD_COSTUME_CTL.busy t = 1 ∧ rd WLD_COSTUME_CTL.context t = ctx
      ∧ rd WLD_COSTUME_CTL.hdm_off t = wbits WLD_COSTUME_CTL.hdm_off w s
      ∧ s.SameRegs [WLD_COSTUME_CTL] t ∧ t = { s with regs := t.regs })
    ∧ (rd WLD_COSTUME_CTL.busy s = 0 → cmd = 1 → ∃ t, exec c s = .next t ∧ rd WLD_COSTUME_CTL.busy t = 1
      ∧ rd WLD_COSTUME_CTL.code t = 0 ∧ rd WLD_COSTUME_CTL.context t = ctx
      ∧ t.wld = { s.wld with install := some (ctx, 64 * wbits WLD_COSTUME_CTL.hdm_off w s) }
      ∧ s.SameRegs [WLD_COSTUME_CTL] t ∧ t = { s with regs := t.regs, wld := t.wld })
    ∧ (rd WLD_COSTUME_CTL.busy s = 0 → cmd = 2 → ∃ t, exec c s = .next t ∧ (wardrobeAt ctx t).staged = some none
      ∧ (wardrobeAt ctx t).current = (wardrobeAt ctx s).current ∧ (∀ d, d ≠ ctx → wardrobeAt d t = wardrobeAt d s)
      ∧ s.SameRegs [WLD_COSTUME_CTL] t ∧ t = { s with regs := t.regs, wld := { s.wld with wardrobes := t.wld.wardrobes } }))
  ∧ ∀ s : State, (s.wld.install = none ∨ keepServed s = true → exec .costumeInstallComplete s = .next s)
    ∧ ∀ (ctx off len : Nat) (bytes : List Byte), s.wld.install = some (ctx, off) → keepServed s = false → s.srv.running.isSome = true →
      len = min (hdmNat (off + 4) 4 s) (min (2 ^ 30) (hdmSize - off)) → bytes = bytesAt s.hdm off len →
      (∀ code, installError ctx (spanBad off len s) bytes s = some code → ∃ t, exec .costumeInstallComplete s = .next t
        ∧ rd WLD_COSTUME_CTL.busy t = 0 ∧ rd WLD_COSTUME_CTL.err t = 1 ∧ rd WLD_COSTUME_CTL.code t = code
        ∧ s.SameRegs [WLD_COSTUME_CTL] t ∧ t = { s with regs := t.regs, wld := { s.wld with install := none } })
      ∧ (installError ctx (spanBad off len s) bytes s = none → (wardrobeAt ctx s).next < 4096 →
        ∃ t, exec .costumeInstallComplete s = .next t ∧ rd WLD_COSTUME_CTL.busy t = 0
          ∧ rd WLD_COSTUME_CTL.version t = (wardrobeAt ctx s).next ∧ rd WLD_STAT.cos_done t = 1
          ∧ (wardrobeAt ctx t).staged = some (some (wardrobeAt ctx s).next)
          ∧ (wardrobeAt ctx t).next = ((wardrobeAt ctx s).next + 1) % 4096
          ∧ ((wardrobeAt ctx t).live.any fun x => x.version == (wardrobeAt ctx s).next && x.bytes == bytes) = true
          ∧ (listNat bytes 14 1 = 9 → t.reports = s.reports)
          ∧ (∀ d, d ≠ ctx → wardrobeAt d t = wardrobeAt d s) ∧ s.SameRegs [WLD_COSTUME_CTL, WLD_STAT] t
          ∧ t = { s with regs := t.regs, reports := t.reports, wld := { s.wld with install := none, wardrobes := t.wld.wardrobes } })

/-! ## Tiles and MVMs -/

/-- Operations on a tile, as the scoreboard lets them: one of another context, or on an unbound tile, is a fault that is logged and
leaves every tile as it was; one that has to wait is kept. A clear binds the tile, every element at the kind's identity; a restore takes
descriptor and elements from an image, a save stores them in one; a read-out delivers the tile's bytes or is a format fault; a write
stores its element; a release unbinds. -/
def Obligations.TilesFollowTheScoreboard : Prop :=
  ∀ (region : Fin 52) (tile : Fin 64) (ctx : Fin 4096) (u : Tile) (s : State), u = tileAt region tile s →
    (∀ (c : Instr) (k : OpClass), (∃ sh bp kind layer gen, c = .tileClear region tile ctx sh bp kind layer gen ∧ k = .clear)
        ∨ (∃ image, c = .tileRestore region tile ctx image ∧ k = .restore) ∨ (∃ image, c = .tileSave region tile ctx image ∧ k = .read)
        ∨ (c = .tileRelease region tile ctx ∧ k = .release) ∨ (∃ f scales te g, c = .tileReadOut region tile ctx f scales te g ∧ k = .read)
        ∨ (∃ es, c = .elementWrite region tile ctx es ∧ k = .overwrite)
        ∨ (∃ r t, c = .tileAdd region tile ctx r t ∧ k = .accumulate) ∨ (∃ r t, c = .reduceOperation region tile ctx r t ∧ k = .accumulate)
        ∨ (∃ v te col r0 c0 n x, c = .costumeAddition region tile ctx v te col r0 c0 n x ∧ k = .costume)
        ∨ (∃ m : MvmCmd, c = .mvmCommand m ∧ m.owner = region ∧ m.tile = tile ∧ m.ctx = ctx ∧ k = .accumulate) →
      (decideOp u k ctx = .conflict → ∃ t, exec c s = .next t ∧ codesJoin s t [0x0013]
        ∧ t.srv.requests = s.srv.requests.map (fun r => if r.running = true ∧ r.context = ctx.val then { r with tileFault := true } else r)
        ∧ t = { s with reports := t.reports, srv := { s.srv with requests := t.srv.requests } })
      ∧ (decideOp u k ctx = .wait → ∃ t, exec c s = .next t ∧ tileAt region tile t = { u with waiting := u.waiting ++ [c] }
        ∧ (∀ r n, (r, n) ≠ (region.val, tile.val) → tileAt r n t = tileAt r n s) ∧ t = { s with regions := t.regions }))
    ∧ (∀ sh bp kind layer gen, decideOp u .clear ctx = .proceed → ∃ t, exec (.tileClear region tile ctx sh bp kind layer gen) s = .next t
      ∧ (tileAt region tile t).bound = true ∧ (tileAt region tile t).ctx = ctx ∧ (tileAt region tile t).shape = sh
      ∧ (tileAt region tile t).bp = bp ∧ (tileAt region tile t).kind = kindCode kind ∧ (tileAt region tile t).sat = false
      ∧ (tileAt region tile t).layer = layer.toNat ∧ (tileAt region tile t).gen = gen.toNat
      ∧ (tileAt region tile t).seq = (kindCode kind == 0 && inSequence region gen.toNat layer.toNat s)
      ∧ (∀ i, (tileAt region tile t).elem i = identity (kindCode kind))
      ∧ (∀ r n, (r, n) ≠ (region.val, tile.val) → tileAt r n t = tileAt r n s) ∧ t = { s with regions := t.regions })
    ∧ (∀ image words d, decideOp u .restore ctx = .proceed → words = savedImage image s → d = (words.getD 0 0).toNat →
      ∃ t, exec (.tileRestore region tile ctx image) s = .next t
        ∧ (tileAt region tile t).bound = true ∧ (tileAt region tile t).ctx = ctx ∧ (tileAt region tile t).shape = d % 4
        ∧ (tileAt region tile t).bp = d / 4 % 64 ∧ (tileAt region tile t).kind = d / 2 ^ 8 % 8
        ∧ (∀ i, i < shapeElems (d % 4) → (tileAt region tile t).elem i = (loadElem (d / 2 ^ 8 % 8) (words.getD (i + 1) 0)).1)
        ∧ (∀ r n, (r, n) ≠ (region.val, tile.val) → tileAt r n t = tileAt r n s)
        ∧ s.SameRegs [RGN_TILE_SAT region] t ∧ t = { s with regs := t.regs, regions := t.regions, reports := t.reports })
    ∧ (decideOp u .read ctx = .proceed →
      (∀ image,
        (∀ z, s.srv.running = some z → ∃ t, exec (.tileSave region tile ctx image) s = .next t ∧ savedImage image t = saveWords u
          ∧ (∀ j, j ≠ image → savedImage j t = savedImage j s)
          ∧ t = { s with srv := { s.srv with running := some { z with saves := tset [] z.saves image (saveWords u) } } })
        ∧ (s.srv.running = none →
          exec (.tileSave region tile ctx image) s = .next { s with saves := tset [] s.saves image (saveWords u) }))
      ∧ ∀ (f : Fin 16) scales te g x, x = targetOf u.gen te g s →
        (∀ bytes, readOut u f scales x = some bytes →
          ((f.val ≠ 4 ∧ f.val ≠ 5 ∨ logical u.kind = true) →
            exec (.tileReadOut region tile ctx f scales te g) s = .next { s with out := .bytes bytes })
          ∧ ∃ t, exec (.tileReadOut region tile ctx f scales te g) s = .next t ∧ t.out = .bytes bytes
            ∧ t = { s with out := t.out, reports := t.reports, srv := { s.srv with running := t.srv.running } })
        ∧ (readOut u f scales x = none → ∃ t, exec (.tileReadOut region tile ctx f scales te g) s = .next t ∧ codesJoin s t [0x0013]
          ∧ t = { s with reports := t.reports, srv := { s.srv with requests := t.srv.requests } }))
    ∧ (∀ (i : Nat) (v : Int), decideOp u .overwrite ctx = .proceed → i < shapeElems u.shape → u.kind < 3 → v.natAbs ≤ accMax.natAbs →
      ∃ t, exec (.elementWrite region tile ctx [(i, v)]) s = .next t ∧ tileAt region tile t = u.put i v
        ∧ (∀ r n, (r, n) ≠ (region.val, tile.val) → tileAt r n t = tileAt r n s) ∧ t = { s with regions := t.regions })
    ∧ (decideOp u .release ctx = .proceed → ∃ t, exec (.tileRelease region tile ctx) s = .next t
      ∧ tileAt region tile t = { u with bound := false }
      ∧ (∀ r n, (r, n) ≠ (region.val, tile.val) → tileAt r n t = tileAt r n s) ∧ t = { s with regions := t.regions })

/-- Accumulation into a tile: a tile-add or a reduce operation takes a place with the values of a drained source of the same shape,
binary point and kind, waits in its place for one that has not drained, and is a format fault with any other; a Costume addition of a
version that is not there adds nothing, and any other is an accumulate operation of its own; nothing drains before every contribution has
arrived; a drain without a hazard stores every element's sum once, one with a hazard voids the step and puts the layer into sequenced
mode, which ends once its steps are over. -/
def Obligations.TilesAccumulate : Prop :=
  ∀ (region : Fin 52) (tile : Fin 64) (ctx : Fin 4096) (u : Tile) (s : State), u = tileAt region tile s →
    (∀ (c : Instr) (r : Fin 52) (n : Fin 64) (v : Tile), v = tileAt r n s → decideOp u .accumulate ctx = .proceed →
      c ∈ [Instr.tileAdd region tile ctx r n, .reduceOperation region tile ctx r n] →
      (decideOp v .read ctx = .proceed → v.shape = u.shape → v.bp = u.bp → v.kind = u.kind →
        ∃ t, exec c s = .next t ∧ tileAt region tile t = { u with busy := true, adds := u.adds ++ [⟨r.val, n.val, some v.elems⟩] }
          ∧ (∀ q m, (q, m) ≠ (region.val, tile.val) → tileAt q m t = tileAt q m s) ∧ t = { s with regions := t.regions })
      ∧ (decideOp v .read ctx = .proceed → (v.shape ≠ u.shape ∨ v.bp ≠ u.bp ∨ v.kind ≠ u.kind) →
        ∃ t, exec c s = .next t ∧ codesJoin s t [0x0013]
          ∧ t = { s with reports := t.reports, srv := { s.srv with requests := t.srv.requests } })
      ∧ (decideOp v .read ctx = .wait → (r, n) ≠ (region, tile) →
        ∃ t, exec c s = .next t ∧ tileAt region tile t = { u with busy := true, adds := u.adds ++ [⟨r.val, n.val, none⟩] }
          ∧ tileAt r n t = { v with waiting := v.waiting ++ [c] } ∧ t = { s with regions := t.regions }))
    ∧ (∀ v te col r0 c0 n x, decideOp u .costume ctx = .proceed → costumeOf ctx v s = none →
      exec (.costumeAddition region tile ctx v te col r0 c0 n x) s = .next s)
    ∧ (∀ (v col r0 c0 : Nat) (x : List (BitVec 16)) (k : Costume) (p : Projection), decideOp u .costume ctx = .proceed →
      costumeOf ctx v s = some k → k.projs = [p] → r0 < 32 → 32 * col + r0 < shapeElems u.shape →
      ∃ t, exec (.costumeAddition region tile ctx v p.tensor col r0 c0 1 x) s = .next t
        ∧ (tileAt region tile t).adds = u.adds ++ [⟨region.val, tile.val,
            some [(32 * col + r0, (toAcc u.bp (f32 (costumeValue k p (tensorRows k.gen p.tensor s) x c0))).value)]⟩]
        ∧ (tileAt region tile t).busy = true ∧ (tileAt region tile t).costume = true
        ∧ (∀ i, (tileAt region tile t).elem i = u.elem i)
        ∧ (∀ q m, (q, m) ≠ (region.val, tile.val) → tileAt q m t = tileAt q m s) ∧ s.SameRegs [RGN_TILE_SAT region] t
        ∧ t = { s with regs := t.regs, regions := t.regions, reports := t.reports })
    ∧ (u.bound = false ∨ u.held ≠ [] ∨ (∃ a ∈ u.adds, a.values = none) ∨ openKeys region tile s ≠ [] →
      ∀ lane, exec (.accumulateDrained region tile lane) s = .next s)
    ∧ (u.bound = true → u.held = [] → (∀ a ∈ u.adds, a.values.isSome = true) → openKeys region tile s = [] →
      u.kind = 0 → u.seq = false → u.waiting = [] → rd (RGN_DEBUG_CTL.arm region) s = 0 →
      ((∀ e ∈ touched u, hazard u e = false) → ∃ t, exec (.accumulateDrained region tile []) s = .next t
        ∧ (∀ e, (tileAt region tile t).elem e = u.elem e + (orderedTerms u e).foldl (· + ·) 0)
        ∧ (tileAt region tile t).busy = false ∧ (tileAt region tile t).costume = false
        ∧ (tileAt region tile t).contribs = [] ∧ (tileAt region tile t).adds = []
        ∧ (tileAt region tile t).bound = true ∧ (tileAt region tile t).ctx = u.ctx ∧ (tileAt region tile t).shape = u.shape
        ∧ (∀ q m, (q, m) ≠ (region.val, tile.val) → tileAt q m t = tileAt q m s) ∧ t = { s with regions := t.regions })
      ∧ (∀ e, e ∈ touched u → hazard u e = true → ∃ t, exec (.accumulateDrained region tile []) s = .next t
        ∧ (tileAt region tile t).elem e = u.elem e ∧ (tileAt region tile t).contribs = []
        ∧ (regionAt region t).seqModes.contains (u.gen, u.layer, stepNow s + 4096) = true ∧ codesJoin s t [0x0012]
        ∧ (∀ z, s.srv.running = some z → ∃ z', t.srv.running = some z' ∧ z'.num = z.num ∧ z'.void = true)
        ∧ t = { s with regions := t.regions, srv := t.srv, reports := t.reports }))
    ∧ ∀ gen layer : BitVec 16, ∃ t, exec (.sequencedModeEnd region gen layer) s = .next t
      ∧ regionAt region t = { regionAt region s with seqModes := (regionAt region s).seqModes.filter fun m =>
          m.1 != gen.toNat || m.2.1 != layer.toNat || decide (stepNow s ≤ m.2.2) }
      ∧ otherRegionsSame region s t ∧ t = { s with regions := t.regions }

/-- MVM commands and the messages of their blocks: a command that its placement does not give, or to a block without a known array,
changes nothing; all-zero inputs are never issued; one that the engines compute reads no array; any other joins its block's reads, of
which two at most are under way, and its tile is busy; one behind a held one is held. A message of a read that is to be ignored is
dropped; one with a parity error is logged and read once more, and the second time the block's results are lost and its step void; one
that is usable, of a command with one read, completes it. The debug capture of a region: outside debug mode its control is ignored and
its data read zero; an arm with a valid selection clears the last capture, a cancel ends an armed one; a read of a completed capture
answers the word at the read pointer and moves it on. -/
def Obligations.MvmCommandsMessagesAndCaptures : Prop :=
  ((∀ (c : MvmCmd) (region block : Nat) (b : Block) (s : State), decideOp (tileAt c.owner c.tile s) .accumulate c.ctx = .proceed →
     region = physRegion c.region s → block = physBlock region c.block s → b = blockAt region block s →
     (blockServes c s = false ∨ tileOf c s = none → exec (.mvmCommand c) s = .next s)
     ∧ ∀ x m, blockServes c s = true → tileOf c s = some x → m = mvmOf c x s → c.scale ≠ 0xFF →
       (m.inputs.all (· == 0) = true → ∃ t, exec (.mvmCommand c) s = .next t
         ∧ tileAt c.owner c.tile t = { tileAt c.owner c.tile s with busy := true }
         ∧ (∀ r n, (r, n) ≠ (c.owner.val, c.tile.val) → tileAt r n t = tileAt r n s) ∧ t = { s with regions := t.regions })
       ∧ (m.inputs.all (· == 0) = false → (tileAt c.owner c.tile s).held ≠ [] → ∃ t, exec (.mvmCommand c) s = .next t
         ∧ tileAt c.owner c.tile t = { tileAt c.owner c.tile s with busy := true, held := (tileAt c.owner c.tile s).held ++ [c] }
         ∧ (∀ r n, (r, n) ≠ (c.owner.val, c.tile.val) → tileAt r n t = tileAt r n s) ∧ t = { s with regions := t.regions })
       ∧ (m.inputs.all (· == 0) = false → (tileAt c.owner c.tile s).held = [] → (tileAt c.owner c.tile s).seq = false →
         (standsIn m s = true → tileAwaits c x s = false → ∃ t, exec (.mvmCommand c) s = .next t
           ∧ (tileAt c.owner c.tile t).busy = true ∧ t.blocks = s.blocks ∧ t.draws = s.draws ∧ t.cells = s.cells
           ∧ (∀ r n, (r, n) ≠ (c.owner.val, c.tile.val) → tileAt r n t = tileAt r n s)
           ∧ t = { s with shadowGens := t.shadowGens, regions := t.regions, regs := t.regs, reports := t.reports
                          srv := { s.srv with running := t.srv.running } })
         ∧ (standsIn m s = false → mirrored s = false → b.lost = false → b.window = none → b.retired = false →
           ∃ t selected reads, exec (.mvmCommand c) s = .next t
           ∧ reads = b.ahead ++ List.replicate m.reads ⟨m, b.next, false, selected, false, false⟩
           ∧ blockAt region block t = { b with
               queue := b.queue ++ reads.take (2 - b.queue.length), ahead := reads.drop (2 - b.queue.length), next := b.next + 1 }
           ∧ tileAt c.owner c.tile t = { tileAt c.owner c.tile s with busy := true }
           ∧ (∀ r n, (r, n) ≠ (c.owner.val, c.tile.val) → tileAt r n t = tileAt r n s)
           ∧ t.srv.running = s.srv.running.map (fun u => { u with
               reads := u.reads + 1, shadows := u.shadows + if selected = true then 1 else 0 })
           ∧ otherBlocksSame region block s t
           ∧ t = { s with shadowGens := t.shadowGens, regions := t.regions, blocks := t.blocks
                          srv := { s.srv with running := t.srv.running } })))
   ∧ ∀ (region : Fin 52) (block : Fin 1312) (parity : Bool) (b : Block) (s : State), b = blockAt region block s →
     (b.queue = [] → exec (.blockMessage region block parity) s = .next s)
     ∧ ∀ r rest, b.queue = r :: rest → rd (RGN_DEBUG_CTL.arm region) s = 0 → mirrored s = false → b.ahead = [] → rest.length ≤ 1 →
       (∀ p ∈ (regionAt r.cmd.cmd.owner s).tiles, p.2.held = []) →
       (r.ignore = true → ∃ t, exec (.blockMessage region block parity) s = .next t
         ∧ blockAt region block t = { b with queue := rest, mvms := b.mvms + 1 } ∧ otherBlocksSame region block s t
         ∧ t = { s with draws := s.draws + 128, blocks := t.blocks })
       ∧ (r.ignore = false → r.retry = false → parity = true → (recent second b.discards s).length < 15 →
         ∃ t, exec (.blockMessage region block parity) s = .next t
           ∧ blockAt region block t = { b with
               queue := rest ++ [{ r with retry := true }], mvms := b.mvms + 1, discards := recent second b.discards s ++ [s.now] }
           ∧ codesJoin s t [0x0010] ∧ otherBlocksSame region block s t
           ∧ t = { s with draws := s.draws + 128, blocks := t.blocks, reports := t.reports })
       ∧ (r.ignore = false → r.retry = true → parity = true → (recent second b.discards s).length < 15 → b.retired = false →
         ∃ t, exec (.blockMessage region block parity) s = .next t ∧ (blockAt region block t).lost = true
           ∧ (blockAt region block t).queue = rest.map (fun q => { q with ignore := true })
           ∧ (blockAt region block t).want.contains .replay = true ∧ (blockAt region block t).window.isSome = true
           ∧ (∀ z, s.srv.running = some z → ∃ z', t.srv.running = some z' ∧ z'.num = z.num ∧ z'.void = true)
           ∧ codesJoin s t [0x0010] ∧ otherBlocksSame region block s t ∧ s.SameRegs [CHK_SUSPECT] t ∧ s.SameMemory t)
       ∧ (r.ignore = false → r.window = false → r.selected = false → r.cmd.reads ≤ 1 → (b.partials.all fun p => p.id != r.id) = true →
         ∃ t, exec (.blockMessage region block parity) s = .next t
           ∧ (unusable r.cmd region block (analogueRead r.cmd region block s.draws s) parity s = none →
             blockAt region block t = { b with queue := rest, mvms := b.mvms + 1 } ∧ otherBlocksSame region block s t
             ∧ t.srv.running = s.srv.running.map (fun u => { u with reads := u.reads - 1 })
             ∧ otherRegionsSame r.cmd.cmd.owner s t ∧ s.SameMemory t ∧ t.nv = s.nv ∧ t.draws = s.draws + 128)))
  ∧ (∀ (region : Fin 52) (s : State),
       (∀ (c : Instr) (w : Write), reaches w.who s → c ∈ [Instr.debugArm region w, .debugCancel region w] →
         (debugMode s = false → ∃ t, exec c s = .next t ∧ codesJoin s t [0x0002] ∧ t = { s with reports := t.reports })
         ∧ (debugMode s = true → w.half ≠ .upper →
           (wbits (RGN_DEBUG_CTL.arm region) w s = 1 →
             wbits (RGN_DEBUG_CTL.sel region) w s = 2
               ∨ wbits (RGN_DEBUG_CTL.sel region) w s < 2 ∧ wbits (RGN_DEBUG_CTL.block region) w s < 1312 →
             ∃ t, exec c s = .next t ∧ rd (RGN_DEBUG_CTL.arm region) t = 1 ∧ rd (RGN_DEBUG_CTL.done region) t = 0
               ∧ rd (RGN_DEBUG_CTL.sel region) t = wbits (RGN_DEBUG_CTL.sel region) w s
               ∧ rd (RGN_DEBUG_CTL.block region) t = wbits (RGN_DEBUG_CTL.block region) w s
               ∧ regionAt region t = { regionAt region s with capture := [] } ∧ s.SameRegs [RGN_DEBUG_CTL region] t
               ∧ otherRegionsSame region s t ∧ t = { s with regs := t.regs, regions := t.regions })
           ∧ (wbits (RGN_DEBUG_CTL.arm region) w s = 0 → rd (RGN_DEBUG_CTL.arm region) s = 1 →
             ∃ t, exec c s = .next t ∧ rd (RGN_DEBUG_CTL.arm region) t = 0 ∧ rd (RGN_DEBUG_CTL.done region) t = 0
               ∧ regionAt region t = { regionAt region s with capture := [] } ∧ s.SameRegs [RGN_DEBUG_CTL region] t
               ∧ otherRegionsSame region s t ∧ t = { s with regs := t.regs, regions := t.regions })))
       ∧ (∀ who half, barClosed who s = false → debugMode s = false ∨ rd (RGN_DEBUG_CTL.done region) s = 0
           ∨ rd (RGN_DEBUG_CTL.count region) s ≤ rd (RGN_DEBUG_CTL.rdptr region) s →
         exec (.debugDataRead who region half) s = .next { s with out := .word 0 })
       ∧ ∀ who half, barClosed who s = false → debugMode s = true → rd (RGN_DEBUG_CTL.done region) s = 1 →
         rd (RGN_DEBUG_CTL.rdptr region) s < rd (RGN_DEBUG_CTL.count region) s →
         ∃ t, exec (.debugDataRead who region half) s = .next t
           ∧ t.out = .word (halfOf half ((regionAt region s).capture.getD (rd (RGN_DEBUG_CTL.rdptr region) s) 0))
           ∧ rd (RGN_DEBUG_CTL.rdptr region) t = rd (RGN_DEBUG_CTL.rdptr region) s + 1
           ∧ s.SameRegs [RGN_DEBUG_CTL region] t ∧ t = { s with regs := t.regs, out := t.out })

/-! ## The links and the pair -/

/-- Links: a Parcel port of the same kind on another part of this type that trains at a width comes up; the pair port that trains meets a
partner of its own role and refuses it with code 1; a lane failure retrains a link at half width, or takes it down; a bad flit is asked
for again. A paired part whose link goes down or times out, or whose partner leaves, serves alone from then on. Leaving and rejoining: a
paired part that leaves says so and serves alone; one that serves alone and is asked to rejoin waits for its link, and says so once it is
up; both copies complete, the pair reads paired again. -/
def Obligations.LinksTrainFailAndRejoin : Prop :=
  ((∀ (port : Port) (lanes : Nat) (p : Partner) (s : State),
     (s.pins.porN = false ∨ s.boot.held = true ∨ p.samePort = false ∨ p.isA1 = false → exec (.linkTrained port lanes p) s = .next s)
     ∧ (s.pins.porN = true → s.boot.held = false → p.samePort = true → p.isA1 = true →
       (port ≠ .pair → lanes = 8 ∨ lanes = 4 → ∃ t, exec (.linkTrained port lanes p) s = .next t
         ∧ rd WLD_PARCEL_STAT.in_up t = (if port = .parcelIn then 1 else rd WLD_PARCEL_STAT.in_up s)
         ∧ rd WLD_PARCEL_STAT.out_up t = (if port = .parcelOut then 1 else rd WLD_PARCEL_STAT.out_up s)
         ∧ s.SameRegs [WLD_PARCEL_STAT] t ∧ t = { s with regs := t.regs })
       ∧ (port = .pair → lanes = 8 ∨ lanes = 16 → rd PAIR_CTL.en s = 1 → rd PAIR_LINK_STAT.up s = 0 → rd PWR_STATE.state s < 3 →
         rd PAIR_STAT.state s < 3 → mayPair s = true → p.role = rdb PAIR_ROLE.role s → ∃ t, exec (.linkTrained port lanes p) s = .next t
         ∧ rd PAIR_LINK_STAT.up t = 1 ∧ rd PAIR_LINK_STAT.lanes t = lanes ∧ rd PAIR_STAT.state t = 5 ∧ rd PAIR_STAT.refuse t = 1
         ∧ rd PAIR_ROLE.partner_id t = p.serial.toNat ∧ rd PAIR_ROLE.partner_glb t = p.state.val ∧ t.sent = s.sent ++ [.handshake]
         ∧ t.pair = { Pair.init with partner := some p, active := p.activeGen } ∧ s.SameRegs [PAIR_LINK_STAT, PAIR_STAT, PAIR_ROLE] t
         ∧ t = { s with regs := t.regs, sent := t.sent, pair := t.pair })))
   ∧ (∀ s : State, rd PAIR_LINK_STAT.up s = 1 → ∃ t, exec (.laneRetrain .pair true) s = .next t ∧ rd PAIR_LINK_STAT.lanes t = 8
     ∧ rd PAIR_LINK_STAT.retrains t = min (rd PAIR_LINK_STAT.retrains s + 1) (2 ^ PAIR_LINK_STAT.retrains.w - 1)
     ∧ rd PAIR_LINK_STAT.up t = 1 ∧ s.SameRegs [PAIR_LINK_STAT] t ∧ t = { s with regs := t.regs })
   ∧ (∀ (port : Port) (s : State), port ≠ .pair → exec (.laneRetrain port true) s = .next s ∧ ∃ t, exec (.laneRetrain port false) s = .next t
     ∧ rd WLD_PARCEL_STAT.in_up t = (if port = .parcelIn then 0 else rd WLD_PARCEL_STAT.in_up s)
     ∧ rd WLD_PARCEL_STAT.out_up t = (if port = .parcelOut then 0 else rd WLD_PARCEL_STAT.out_up s)
     ∧ s.SameRegs [WLD_PARCEL_STAT] t ∧ t = { s with regs := t.regs })
   ∧ (∀ (port : Port) (bad : Bool) (s : State), (portUp port s = false → exec (.flitRetry port bad) s = .next s)
     ∧ (portUp port s = true → ∃ t, exec (.flitRetry port bad) s = .next t ∧ t.sent = s.sent ++ [.flitRequest port]
       ∧ rd PAIR_LINK_STAT.retries t = (if port = .pair then min (rd PAIR_LINK_STAT.retries s + 1) (2 ^ PAIR_LINK_STAT.retries.w - 1)
           else rd PAIR_LINK_STAT.retries s)
       ∧ rd PAIR_LINK_STAT.uncorr t = (if port = .pair ∧ bad = true
           then min (rd PAIR_LINK_STAT.uncorr s + 1) (2 ^ PAIR_LINK_STAT.uncorr.w - 1) else rd PAIR_LINK_STAT.uncorr s)
       ∧ s.SameRegs [PAIR_LINK_STAT] t ∧ t = { s with regs := t.regs, sent := t.sent }))
   ∧ ∀ (c : Instr) (reason : Nat) (s : State), rd PAIR_STAT.state s = 3 → rd PAIR_CTL.mode s = 0 → s.pair.settling = none →
     (c = .laneRetrain .pair false ∧ rd PAIR_LINK_STAT.up s = 1 ∧ reason = 1
       ∨ c = .pairLinkTimeout ∧ rd PAIR_LINK_STAT.up s = 1 ∧ reason = 2 ∨ c = .leavingNotice ∧ reason = 3) →
     ∃ t, exec c s = .next t ∧ rd PAIR_STAT.state t = 4 ∧ rd PAIR_STAT.lost t = 1 ∧ rd PAIR_STAT.link t = reason
       ∧ rd PAIR_ROLE.partner_glb t = 3 ∧ (reason < 3 → rd PAIR_LINK_STAT.up t = 0 ∧ rd PAIR_LINK_STAT.lanes t = 0)
       ∧ t.pair = { Pair.init with partner := s.pair.partner } ∧ codesJoin s t [0x00A0]
       ∧ s.SameRegs [PAIR_STAT, PAIR_ROLE, PAIR_LINK_STAT] t ∧ t = { s with regs := t.regs, pair := t.pair, reports := t.reports })
  ∧ ((∀ (c : Instr) (w : Write) (s : State), reaches w.who s → rd BOOT_STAT.lock s = 0 →
       c ∈ [Instr.pairLeave w, .pairRejoin w none] →
       (wone PAIR_CTL.leave w = true → wone PAIR_CTL.rejoin w = false → rd PAIR_STAT.state s = 3 → ∃ t, exec c s = .next t
         ∧ rd PAIR_STAT.state t = 4 ∧ rd PAIR_CTL.en t = wbits PAIR_CTL.en w s ∧ t.sent = s.sent ++ [.leavingNotice]
         ∧ t.pair = { Pair.init with partner := s.pair.partner } ∧ s.SameRegs [PAIR_CTL, PAIR_STAT] t
         ∧ t = { s with regs := t.regs, sent := t.sent, pair := t.pair })
       ∧ (wone PAIR_CTL.leave w = false → wone PAIR_CTL.rejoin w = true → wbits PAIR_CTL.en w s = 1 →
         rd PAIR_STAT.state s = 4 ∨ rd PAIR_STAT.state s = 5 → ∃ t, exec c s = .next t ∧ rd PAIR_STAT.state t = 6
           ∧ t.sent = s.sent ++ (if rd PAIR_LINK_STAT.up s = 1 ∧ mayPair s = true then [.handshake] else [])
           ∧ s.SameRegs [PAIR_CTL, PAIR_STAT] t ∧ t = { s with regs := t.regs, sent := t.sent }))
     ∧ ∀ s : State, (s.pair.copying = false → ∀ l, exec (.rejoinCopyComplete l) s = .next s)
       ∧ (s.pair.copying = true → ∃ t, exec (.rejoinCopyComplete []) s = .next t ∧ rd PAIR_STAT.state t = 3
         ∧ t.pair = { s.pair with copying := false, since := s.srv.highest } ∧ s.SameRegs [PAIR_STAT] t
         ∧ t = { s with regs := t.regs, pair := t.pair }))

/-- Messages of the partner: a secondary keeps the plan of the next step and stages its recipe changes; a mirrored part keeps a commit
hash that comes early, with the partner's flags and its ACTIVE generation; a record list chooses the stage of a settlement; a split part
holds provisional results apart, makes those of a step final in its mirror when the step's notice comes, and drops them from a retracted
step on. Messages that the pair's mode has no place for change nothing. -/
def Obligations.PartnerMessagesAreKept : Prop :=
  ∀ s : State,
    (∀ plan : Plan, (secondary s = false → exec (.stepPlan plan) s = .next s)
      ∧ (secondary s = true → plan.named = [] → exec (.stepPlan plan) s = .next { s with
          pair := { s.pair with plan := some plan, active := plan.activeGen }
          srv := { s.srv with stagedRecipes := s.srv.stagedRecipes ++ plan.recipes.map fun e => (plan.step, e.1, e.2.1, e.2.2) } }))
    ∧ (∀ step hash (report : PartnerReport), (mirrored s = false → exec (.commitHash step hash report) s = .next s)
      ∧ (mirrored s = true → (∀ u ∈ s.srv.done, u.num ≠ step ∨ u.hashSent = false ∨ u.hash.isSome = true) → report.differ = [] →
        (report.flags = [] → exec (.commitHash step hash report) s = .next { s with pair := { s.pair with
          active := report.activeGen, early := (s.pair.early.filter fun e => e.1 != step) ++ [(step, hash)] } })
        ∧ ∀ n slot layer, report.flags = [(n, slot, layer)] → ∃ t, exec (.commitHash step hash report) s = .next t
          ∧ t.srv = { s.srv with stagedRecipes := s.srv.stagedRecipes ++
                (if hostManages s = false ∧ canWiden slot layer ((genAt slot s).wide.contains layer) s = true
                  then [(n, slot.val, layer, true)] else []) }
          ∧ t = { s with srv := t.srv, pair := t.pair, wld := { s.wld with gens := t.wld.gens } }))
    ∧ (∀ step records evidence, (s.pair.settling = none → exec (.recordList step records evidence) s = .next s)
      ∧ (∀ z own, s.pair.settling = some z → z.step = step → z.waits = true → s.srv.running.isSome = true →
        own = evidenceOf step (differing z.own records) s →
        nextStage z.stage evidence (!own.isEmpty) ≠ 1 ∨ own = [] → ∃ t, exec (.recordList step records evidence) s = .next t
          ∧ rd PAIR_STAT.stage t = nextStage z.stage evidence (!own.isEmpty)
          ∧ t.pair = { s.pair with settling := some { z with
              stage := nextStage z.stage evidence (!own.isEmpty), keys := differing z.own records, waits := false } }
          ∧ codesJoin s t [0x00A1] ∧ s.SameRegs [PAIR_STAT] t ∧ t = { s with regs := t.regs, pair := t.pair, reports := t.reports }))
    ∧ (takesMirror s = false → (∀ p, exec (.provisionalResult p) s = .next s)
      ∧ ∀ step, exec (.commitNotice step) s = .next s ∧ exec (.retractionToken step) s = .next s)
    ∧ (takesMirror s = true →
      (∀ p : Provisional, (∀ q ∈ s.pair.provisional, p.step < q.step + 2) →
        (∀ q ∈ s.srv.seqs, q.id ≠ p.seq ∨ q.keep = true ∨ isLive q = false) →
        exec (.provisionalResult p) s = .next { s with pair := { s.pair with provisional := s.pair.provisional ++ [p] } })
      ∧ ∀ step, (∀ q ∈ s.pair.provisional, step < q.step + 2) →
        exec (.retractionToken step) s = .next { s with pair := { s.pair with
          provisional := s.pair.provisional.filter fun p => decide (p.step < step) } }
        ∧ ((∀ q ∈ s.pair.provisional, q.step ≠ step) → exec (.commitNotice step) s = .next s)
        ∧ ∀ p, s.pair.provisional.filter (fun q => q.step == step) = [p] → (∀ q ∈ s.pair.mirrors, q.id ≠ p.seq) →
          ∃ t m, exec (.commitNotice step) s = .next t ∧ t.pair.mirrors = s.pair.mirrors ++ [m] ∧ m.id = p.seq
            ∧ m.context = p.ctx ∧ m.history = p.tokens
            ∧ t.pair.provisional = s.pair.provisional.filter (fun q => q.step != step)
            ∧ (∀ k, k.seq = p.seq → k.step = p.step → ⟨k.pos, k.index, k.elems, k.scale⟩ ∈ p.rows → k ∈ t.pair.mirrorKv)
            ∧ (∀ k ∈ s.pair.mirrorKv, k.seq ≠ p.seq → k ∈ t.pair.mirrorKv)
            ∧ t = { s with pair := { s.pair with mirrors := t.pair.mirrors, mirrorKv := t.pair.mirrorKv, provisional := t.pair.provisional } })
end

