-- ==== Sys2Proof/Laws/Sparse.lean ====
section
/-! SUPPORT. Laws of sparse data: what a key reads after another was set, and that setting, erasing and filtering keep the
canonical form. -/

namespace Sys2Proof.Machine

variable {α : Type}

@[simp] theorem sget_nil (d : Nat → α) (k : Nat) : sget d [] k = d k := rfl

theorem sget_serase (d : Nat → α) (m : List (Nat × α)) (k j : Nat) :
    sget d (serase k m) j = if j = k then d j else sget d m j := by
  induction m with
  | nil => simp [serase]
  | cons p t ih =>
    obtain ⟨i, v⟩ := p
    by_cases hk : k = i
    · subst hk; simp only [serase, if_true, ih, sget]; split <;> simp_all
    · simp only [serase, hk, if_false, sget, ih]; split <;> split <;> simp_all

theorem sget_sinsert (d : Nat → α) (m : List (Nat × α)) (k j : Nat) (v : α) (h : ∀ p ∈ m, p.1 ≠ k) :
    sget d (sinsert k v m) j = if j = k then v else sget d m j := by
  induction m with
  | nil => rfl
  | cons p t ih =>
    obtain ⟨i, w⟩ := p
    have hi : i ≠ k := h (i, w) (by simp)
    have ht := ih (fun p hp => h p (by simp [hp]))
    unfold sinsert
    split
    · rfl
    · simp only [sget, ht]; split <;> split <;> simp_all

theorem serase_fst_ne (m : List (Nat × α)) (k : Nat) : ∀ p ∈ serase k m, p.1 ≠ k := by
  induction m with
  | nil => simp [serase]
  | cons p t ih =>
    obtain ⟨i, w⟩ := p
    unfold serase
    split
    · exact ih
    · intro q hq
      rcases List.mem_cons.1 hq with rfl | hq
      · exact fun e => ‹¬ k = i› e.symm
      · exact ih q hq

/-- Setting a key: that key reads the value, every other key reads as before. -/
theorem sget_sset [DecidableEq α] (d : Nat → α) (m : List (Nat × α)) (k j : Nat) (v : α) :
    sget d (sset d m k v) j = if j = k then v else sget d m j := by
  unfold sset
  split
  · rw [sget_serase]; split <;> simp_all
  · rw [sget_sinsert _ _ _ _ _ (serase_fst_ne m k), sget_serase]; split <;> rfl

@[simp] theorem sget_sset_self [DecidableEq α] (d : Nat → α) (m : List (Nat × α)) (k : Nat) (v : α) :
    sget d (sset d m k v) k = v := by simp [sget_sset]

theorem sget_sset_ne [DecidableEq α] (d : Nat → α) (m : List (Nat × α)) {k j : Nat} (v : α) (h : j ≠ k) :
    sget d (sset d m k v) j = sget d m j := by simp [sget_sset, h]

/-! ## The canonical form -/

theorem mem_serase {m : List (Nat × α)} {k : Nat} {p : Nat × α} (h : p ∈ serase k m) : p ∈ m := by
  induction m with
  | nil => simp [serase] at h
  | cons q t ih =>
    obtain ⟨i, w⟩ := q
    unfold serase at h
    split at h
    · exact List.mem_cons_of_mem _ (ih h)
    · rcases List.mem_cons.1 h with rfl | h
      · simp
      · exact List.mem_cons_of_mem _ (ih h)

theorem mem_sinsert {m : List (Nat × α)} {k : Nat} {v : α} {p : Nat × α} (h : p ∈ sinsert k v m) : p = (k, v) ∨ p ∈ m := by
  induction m with
  | nil => simpa [sinsert] using h
  | cons q t ih =>
    obtain ⟨i, w⟩ := q
    unfold sinsert at h
    split at h
    · rcases List.mem_cons.1 h with rfl | h
      · exact .inl rfl
      · exact .inr h
    · rcases List.mem_cons.1 h with rfl | h
      · exact .inr (by simp)
      · rcases ih h with h | h
        · exact .inl h
        · exact .inr (List.mem_cons_of_mem _ h)

theorem serase_rising {m : List (Nat × α)} (k : Nat) (h : m.Pairwise (fun a b => a.1 < b.1)) :
    (serase k m).Pairwise (fun a b => a.1 < b.1) := by
  induction m with
  | nil => simp [serase]
  | cons q t ih =>
    obtain ⟨i, w⟩ := q
    rw [List.pairwise_cons] at h
    unfold serase
    split
    · exact ih h.2
    · exact List.pairwise_cons.2 ⟨fun p hp => h.1 p (mem_serase hp), ih h.2⟩

theorem sinsert_rising {m : List (Nat × α)} (k : Nat) (v : α) (h : m.Pairwise (fun a b => a.1 < b.1))
    (hk : ∀ p ∈ m, p.1 ≠ k) : (sinsert k v m).Pairwise (fun a b => a.1 < b.1) := by
  induction m with
  | nil => simp [sinsert]
  | cons q t ih =>
    obtain ⟨i, w⟩ := q
    have h' := List.pairwise_cons.1 h
    unfold sinsert
    split
    · refine List.pairwise_cons.2 ⟨fun p hp => ?_, h⟩
      rcases List.mem_cons.1 hp with rfl | hp
      · assumption
      · exact Nat.lt_trans ‹k < i› (h'.1 p hp)
    · have hi : i ≠ k := hk (i, w) (by simp)
      refine List.pairwise_cons.2 ⟨fun p hp => ?_, ih h'.2 fun p hp => hk p (by simp [hp])⟩
      rcases mem_sinsert hp with rfl | hp
      · show i < k; omega
      · exact h'.1 p hp

/-- Setting a key keeps the canonical form. -/
theorem SparseWf.sset [DecidableEq α] {d : Nat → α} {m : List (Nat × α)} (h : SparseWf d m) (k : Nat) (v : α) :
    SparseWf d (sset d m k v) := by
  unfold Machine.sset
  split
  · exact ⟨serase_rising k h.1, fun p hp => h.2 p (mem_serase hp)⟩
  · refine ⟨sinsert_rising k v (serase_rising k h.1) (serase_fst_ne m k), fun p hp => ?_⟩
    rcases mem_sinsert hp with rfl | hp
    · assumption
    · exact h.2 p (mem_serase hp)

/-- Filtering keeps the canonical form. -/
theorem SparseWf.filter [DecidableEq α] {d : Nat → α} {m : List (Nat × α)} (h : SparseWf d m) (f : Nat × α → Bool) :
    SparseWf d (m.filter f) :=
  ⟨h.1.sublist List.filter_sublist, fun p hp => h.2 p (List.mem_filter.1 hp).1⟩

/-- The empty list is canonical. -/
theorem SparseWf.nil [DecidableEq α] (d : Nat → α) : SparseWf d [] := ⟨List.Pairwise.nil, by simp⟩

/-- Equal contents in canonical form are equal lists. -/
theorem SparseWf.ext [DecidableEq α] {d : Nat → α} {m n : List (Nat × α)} (hm : SparseWf d m) (hn : SparseWf d n)
    (h : ∀ k, sget d m k = sget d n k) : m = n := by
  have low : ∀ {l : List (Nat × α)} {k : Nat}, (∀ p ∈ l, k < p.1) → sget d l k = d k := by
    intro l
    induction l with
    | nil => intros; rfl
    | cons p t ih =>
      intro k hl
      have := hl p (by simp)
      rw [sget, if_neg (by omega)]
      exact ih fun q hq => hl q (by simp [hq])
  induction m generalizing n with
  | nil =>
    cases n with
    | nil => rfl
    | cons p t => have := h p.1; simp [sget] at this; exact absurd this.symm (hn.2 p (by simp))
  | cons p t ih =>
    cases n with
    | nil => have := h p.1; simp [sget] at this; exact absurd this (hm.2 p (by simp))
    | cons q u =>
      have hp := List.pairwise_cons.1 hm.1
      have hq := List.pairwise_cons.1 hn.1
      have heads : p.1 = q.1 := by
        rcases Nat.lt_trichotomy p.1 q.1 with hlt | heq | hgt
        · have e := h p.1
          rw [sget, if_pos rfl, sget, if_neg (by omega), low fun r hr => Nat.lt_trans hlt (hq.1 r hr)] at e
          exact absurd e (hm.2 p (by simp))
        · exact heq
        · have e := h q.1
          rw [sget, if_neg (by omega), low fun r hr => Nat.lt_trans hgt (hp.1 r hr), sget, if_pos rfl] at e
          exact absurd e.symm (hn.2 q (by simp))
      have vals : p.2 = q.2 := by have e := h p.1; rw [sget, if_pos rfl, sget, if_pos heads] at e; exact e
      have tails : t = u := by
        refine ih ⟨hp.2, fun r hr => hm.2 r (by simp [hr])⟩ ⟨hq.2, fun r hr => hn.2 r (by simp [hr])⟩ fun k => ?_
        by_cases hk : k = p.1
        · subst hk
          rw [low hp.1, low (fun r hr => heads ▸ hq.1 r hr)]
        · have e := h k
          rwa [sget, if_neg hk, sget, if_neg (heads ▸ hk)] at e
      rw [show p = q from Prod.ext heads vals, tails]

end Sys2Proof.Machine
end

