-- ==== Sys2Proof/Laws/Ops.lean ====
section
/-! SUPPORT. Laws of the named operations of Ops.lean: registers and fields read after a write, bytes read after a write,
little-endian numbers, and the canonical form of memories. -/

namespace Sys2Proof.Machine

/-! ## Registers -/

theorem reg_setReg (off j : Nat) (v : Word) (s : State) : (setReg off v s).reg j = if j = off then v else s.reg j := by
  simp [State.reg, setReg, sget_sset]

@[simp] theorem reg_setReg_self (off : Nat) (v : Word) (s : State) : (setReg off v s).reg off = v := by simp [reg_setReg]

theorem reg_setReg_ne {off j : Nat} (v : Word) (s : State) (h : j ≠ off) : (setReg off v s).reg j = s.reg j := by
  simp [reg_setReg, h]

/-- A register another one's field was written in reads as before. -/
theorem reg_wr_ne {f : Fld} {j : Nat} (n : Nat) (s : State) (h : j ≠ f.off) : (wr f n s).reg j = s.reg j := reg_setReg_ne _ s h

theorem reg_wr_self (f : Fld) (n : Nat) (s : State) : (wr f n s).reg f.off = fput f n (s.reg f.off) := reg_setReg_self _ _ s

/-! ## Fields -/

theorem fget_lt (f : Fld) (v : Word) : fget f v < 2 ^ f.w := Nat.mod_lt _ (Nat.two_pow_pos _)

theorem rd_lt (f : Fld) (s : State) : rd f s < 2 ^ f.w := fget_lt f _

theorem testBit_fget (f : Fld) (v : Word) (i : Nat) : (fget f v).testBit i = (decide (i < f.w) && v.getLsbD (f.lo + i)) := by
  unfold fget
  rw [Nat.testBit_mod_two_pow, Nat.testBit_shiftRight, BitVec.getLsbD]

theorem getLsbD_fput (f : Fld) (n : Nat) (v : Word) (i : Nat) (hi : i < 64) :
    (fput f n v).getLsbD i = if f.lo ≤ i ∧ i < f.lo + f.w then n.testBit (i - f.lo) else v.getLsbD i := by
  unfold fput fmask
  simp only [BitVec.getLsbD_or, BitVec.getLsbD_and, BitVec.getLsbD_not, BitVec.getLsbD_ofNat, Nat.testBit_shiftLeft,
    Nat.testBit_two_pow_sub_one, Nat.testBit_mod_two_pow, hi, decide_true, Bool.true_and]
  by_cases h1 : f.lo ≤ i
  · by_cases h2 : i < f.lo + f.w
    · have : i - f.lo < f.w := by omega
      simp [h1, h2, this]
    · have : ¬ i - f.lo < f.w := by omega
      simp [h1, h2, this]
  · have : ¬ i ≥ f.lo := h1
    simp [h1]

/-- A field reads what was put into it, modulo its width. -/
theorem fget_fput_self (f : Fld) (n : Nat) (v : Word) (h : f.lo + f.w ≤ 64) : fget f (fput f n v) = n % 2 ^ f.w := by
  apply Nat.eq_of_testBit_eq
  intro i
  rw [testBit_fget, Nat.testBit_mod_two_pow]
  by_cases hi : i < f.w
  · rw [getLsbD_fput _ _ _ _ (by omega), if_pos ⟨by omega, by omega⟩, show f.lo + i - f.lo = i by omega]
  · simp [hi]

/-- A field apart from the one written reads as before. -/
theorem fget_fput_ne (f g : Fld) (n : Nat) (v : Word) (h : g.lo + g.w ≤ f.lo ∨ f.lo + f.w ≤ g.lo) :
    fget g (fput f n v) = fget g v := by
  apply Nat.eq_of_testBit_eq
  intro i
  rw [testBit_fget, testBit_fget]
  by_cases hi : i < g.w
  · by_cases h64 : g.lo + i < 64
    · rw [getLsbD_fput _ _ _ _ h64, if_neg (by omega)]
    · rw [BitVec.getLsbD_of_ge _ _ (by omega), BitVec.getLsbD_of_ge _ _ (by omega)]
  · simp [hi]

theorem rd_wr_self (f : Fld) (n : Nat) (s : State) (h : f.lo + f.w ≤ 64) : rd f (wr f n s) = n % 2 ^ f.w := by
  rw [rd, reg_wr_self, fget_fput_self _ _ _ h]

theorem rd_wr_off {f g : Fld} (n : Nat) (s : State) (h : g.off ≠ f.off) : rd g (wr f n s) = rd g s := by
  rw [rd, rd, reg_wr_ne n s h]

/-- Another field of any register reads as before. -/
theorem rd_wr_ne {f g : Fld} (n : Nat) (s : State) (h : g.off ≠ f.off ∨ g.lo + g.w ≤ f.lo ∨ f.lo + f.w ≤ g.lo) :
    rd g (wr f n s) = rd g s := by
  by_cases ho : g.off = f.off
  · rw [rd, ho, reg_wr_self, fget_fput_ne f g n _ (by omega), rd, ho]
  · exact rd_wr_off n s ho

/-! ## Memories -/

theorem byteAt_putByte (m : List Host.Cell) (a k : Nat) (b : Byte) :
    byteAt (putByte a b m) k = if k = a then b else byteAt m k := sget_sset _ m a k b

theorem byteAt_putBytes (l : List Byte) (m : List Host.Cell) (a k : Nat) :
    byteAt (putBytes a l m) k = if a ≤ k ∧ k < a + l.length then l.getD (k - a) 0 else byteAt m k := by
  induction l generalizing a m with
  | nil => simp only [putBytes, List.length_nil, Nat.add_zero]; rw [if_neg (by omega)]
  | cons b t ih =>
    rw [putBytes, ih, byteAt_putByte, List.length_cons]
    by_cases h1 : k = a
    · subst h1; rw [if_neg (by omega), if_pos rfl, if_pos (by omega)]; simp
    · by_cases h2 : a + 1 ≤ k ∧ k < a + 1 + t.length
      · rw [if_pos h2, if_pos (by omega), show k - a = (k - (a + 1)) + 1 by omega]; simp
      · rw [if_neg h2, if_neg h1, if_neg (by omega)]

theorem byteAt_putSome (l : List (Option Byte)) (m : List Host.Cell) (a k : Nat) :
    byteAt (putSome a l m) k = if a ≤ k ∧ k < a + l.length then (l.getD (k - a) none).getD (byteAt m k) else byteAt m k := by
  induction l generalizing a m with
  | nil => simp only [putSome, List.length_nil, Nat.add_zero]; rw [if_neg (by omega)]
  | cons o t ih =>
    cases o with
    | none =>
      rw [putSome, ih, List.length_cons]
      by_cases h1 : k = a
      · subst h1; rw [if_neg (by omega), if_pos (by omega)]; simp
      · by_cases h2 : a + 1 ≤ k ∧ k < a + 1 + t.length
        · rw [if_pos h2, if_pos (by omega), show k - a = (k - (a + 1)) + 1 by omega]; simp
        · rw [if_neg h2, if_neg (by omega)]
    | some b =>
      rw [putSome, ih, byteAt_putByte, List.length_cons]
      by_cases h1 : k = a
      · subst h1; rw [if_neg (by omega), if_pos rfl, if_pos (by omega)]; simp
      · by_cases h2 : a + 1 ≤ k ∧ k < a + 1 + t.length
        · rw [if_pos h2, if_neg h1, if_pos (by omega), show k - a = (k - (a + 1)) + 1 by omega]; simp
        · rw [if_neg h2, if_neg h1, if_neg (by omega)]

@[simp] theorem leBytes_length (n v : Nat) : (leBytes n v).length = n := by
  induction n generalizing v with
  | zero => rfl
  | succ n ih => simp [leBytes, ih]

/-- A number reads back from its little-endian bytes. -/
theorem leNat_leBytes (n v : Nat) : leNat (leBytes n v) = v % 256 ^ n := by
  induction n generalizing v with
  | zero => simp [leBytes, leNat, Nat.mod_one]
  | succ n ih =>
    have h : (256 : Nat) ^ (n + 1) = 256 * 256 ^ n := by rw [Nat.pow_succ, Nat.mul_comm]
    rw [leBytes, leNat, ih, BitVec.toNat_ofNat, h, Nat.mod_mul]

theorem bytesAt_length (m : List Host.Cell) (a n : Nat) : (bytesAt m a n).length = n := by
  induction n generalizing a with
  | zero => rfl
  | succ n ih => simp [bytesAt, ih]

theorem bytesAt_congr {m m' : List Host.Cell} (a n : Nat) (h : ∀ k, a ≤ k → k < a + n → byteAt m k = byteAt m' k) :
    bytesAt m a n = bytesAt m' a n := by
  induction n generalizing a with
  | zero => rfl
  | succ n ih => rw [bytesAt, bytesAt, h a (Nat.le_refl a) (by omega), ih (a + 1) fun k h1 h2 => h k (by omega) (by omega)]

/-- Bytes read back where they were written. -/
theorem bytesAt_putBytes (l : List Byte) (m : List Host.Cell) (a : Nat) : bytesAt (putBytes a l m) a l.length = l := by
  induction l generalizing a m with
  | nil => rfl
  | cons b t ih =>
    rw [putBytes, List.length_cons, bytesAt, ih, byteAt_putBytes, if_neg (by omega), byteAt_putByte, if_pos rfl]

/-- A number of the HDM range reads back where it was written. -/
theorem hdmNat_putHdm (a n v : Nat) (s : State) : hdmNat a n (putHdm a n v s) = v % 256 ^ n := by
  have h := bytesAt_putBytes (leBytes n v) s.hdm a
  rw [leBytes_length] at h
  rw [hdmNat, putHdm, h, leNat_leBytes]

/-- A number of the HDM range away from what was written reads as before. -/
theorem hdmNat_putHdm_ne (a n v b k : Nat) (s : State) (h : b + k ≤ a ∨ a + n ≤ b) :
    hdmNat b k (putHdm a n v s) = hdmNat b k s := by
  unfold hdmNat putHdm
  refine congrArg leNat (bytesAt_congr _ _ fun j h1 h2 => ?_)
  rw [byteAt_putBytes, leBytes_length, if_neg (by omega)]

/-! ## The canonical form of memories -/

theorem putByte_wf {m : List Host.Cell} (a : Nat) (b : Byte) (h : Memory.wf m) : Memory.wf (putByte a b m) := SparseWf.sset h a b

theorem putBytes_wf {m : List Host.Cell} (a : Nat) (l : List Byte) (h : Memory.wf m) : Memory.wf (putBytes a l m) := by
  induction l generalizing a m with
  | nil => exact h
  | cons b t ih => exact ih _ (putByte_wf a b h)

theorem putSome_wf {m : List Host.Cell} (a : Nat) (l : List (Option Byte)) (h : Memory.wf m) : Memory.wf (putSome a l m) := by
  induction l generalizing a m with
  | nil => exact h
  | cons o t ih =>
    cases o with
    | none => exact ih _ h
    | some b => exact ih _ (putByte_wf a b h)

theorem putView_wf {m : List Host.Cell} (v : View) (a : Nat) (l : List (Option Byte)) (h : Memory.wf m) :
    Memory.wf (putView v a l m) := by
  induction l generalizing a m with
  | nil => exact h
  | cons o t ih =>
    cases o with
    | none => exact ih _ h
    | some b => exact ih _ (putByte_wf a _ h)

theorem foldl_putByte_wf (l : List Host.Cell) (f : Host.Cell → Byte) {m : List Host.Cell} (h : Memory.wf m) :
    Memory.wf (l.foldl (fun m c => putByte c.1 (f c) m) m) := by
  induction l generalizing m with
  | nil => exact h
  | cons c t ih => exact ih (putByte_wf _ _ h)

end Sys2Proof.Machine
end

