-- ==== Sys2Proof/Laws/State.lean ====
section
/-! SUPPORT. What each named update of the state leaves alone: one lemma per field, true by definition. -/

namespace Sys2Proof.Machine

variable (s : State)

/-! ### setReg changes `regs` alone -/

@[simp] theorem setReg_scr (off : Nat) (v : Word) : (setReg off v s).scr = s.scr := rfl
@[simp] theorem setReg_scrPoison (off : Nat) (v : Word) : (setReg off v s).scrPoison = s.scrPoison := rfl
@[simp] theorem setReg_hdm (off : Nat) (v : Word) : (setReg off v s).hdm = s.hdm := rfl
@[simp] theorem setReg_hdmPoison (off : Nat) (v : Word) : (setReg off v s).hdmPoison = s.hdmPoison := rfl
@[simp] theorem setReg_host (off : Nat) (v : Word) : (setReg off v s).host = s.host := rfl
@[simp] theorem setReg_pins (off : Nat) (v : Word) : (setReg off v s).pins = s.pins := rfl
@[simp] theorem setReg_icu (off : Nat) (v : Word) : (setReg off v s).icu = s.icu := rfl
@[simp] theorem setReg_evt (off : Nat) (v : Word) : (setReg off v s).evt = s.evt := rfl
@[simp] theorem setReg_thm (off : Nat) (v : Word) : (setReg off v s).thm = s.thm := rfl
@[simp] theorem setReg_pwr (off : Nat) (v : Word) : (setReg off v s).pwr = s.pwr := rfl
@[simp] theorem setReg_boot (off : Nat) (v : Word) : (setReg off v s).boot = s.boot := rfl
@[simp] theorem setReg_sec (off : Nat) (v : Word) : (setReg off v s).sec = s.sec := rfl
@[simp] theorem setReg_nv (off : Nat) (v : Word) : (setReg off v s).nv = s.nv := rfl
@[simp] theorem setReg_cxl (off : Nat) (v : Word) : (setReg off v s).cxl = s.cxl := rfl
@[simp] theorem setReg_regions (off : Nat) (v : Word) : (setReg off v s).regions = s.regions := rfl
@[simp] theorem setReg_blocks (off : Nat) (v : Word) : (setReg off v s).blocks = s.blocks := rfl
@[simp] theorem setReg_cells (off : Nat) (v : Word) : (setReg off v s).cells = s.cells := rfl
@[simp] theorem setReg_erased (off : Nat) (v : Word) : (setReg off v s).erased = s.erased := rfl
@[simp] theorem setReg_shadowGens (off : Nat) (v : Word) : (setReg off v s).shadowGens = s.shadowGens := rfl
@[simp] theorem setReg_wsums (off : Nat) (v : Word) : (setReg off v s).wsums = s.wsums := rfl
@[simp] theorem setReg_saves (off : Nat) (v : Word) : (setReg off v s).saves = s.saves := rfl
@[simp] theorem setReg_hbm (off : Nat) (v : Word) : (setReg off v s).hbm = s.hbm := rfl
@[simp] theorem setReg_wld (off : Nat) (v : Word) : (setReg off v s).wld = s.wld := rfl
@[simp] theorem setReg_srv (off : Nat) (v : Word) : (setReg off v s).srv = s.srv := rfl
@[simp] theorem setReg_mcv (off : Nat) (v : Word) : (setReg off v s).mcv = s.mcv := rfl
@[simp] theorem setReg_pair (off : Nat) (v : Word) : (setReg off v s).pair = s.pair := rfl
@[simp] theorem setReg_tin (off : Nat) (v : Word) : (setReg off v s).tin = s.tin := rfl
@[simp] theorem setReg_now (off : Nat) (v : Word) : (setReg off v s).now = s.now := rfl
@[simp] theorem setReg_draws (off : Nat) (v : Word) : (setReg off v s).draws = s.draws := rfl
@[simp] theorem setReg_out (off : Nat) (v : Word) : (setReg off v s).out = s.out := rfl
@[simp] theorem setReg_reports (off : Nat) (v : Word) : (setReg off v s).reports = s.reports := rfl
@[simp] theorem setReg_sent (off : Nat) (v : Word) : (setReg off v s).sent = s.sent := rfl
@[simp] theorem setReg_pending (off : Nat) (v : Word) : (setReg off v s).pending = s.pending := rfl

/-! ### wr changes `regs` alone -/

@[simp] theorem wr_scr (f : Fld) (n : Nat) : (wr f n s).scr = s.scr := rfl
@[simp] theorem wr_scrPoison (f : Fld) (n : Nat) : (wr f n s).scrPoison = s.scrPoison := rfl
@[simp] theorem wr_hdm (f : Fld) (n : Nat) : (wr f n s).hdm = s.hdm := rfl
@[simp] theorem wr_hdmPoison (f : Fld) (n : Nat) : (wr f n s).hdmPoison = s.hdmPoison := rfl
@[simp] theorem wr_host (f : Fld) (n : Nat) : (wr f n s).host = s.host := rfl
@[simp] theorem wr_pins (f : Fld) (n : Nat) : (wr f n s).pins = s.pins := rfl
@[simp] theorem wr_icu (f : Fld) (n : Nat) : (wr f n s).icu = s.icu := rfl
@[simp] theorem wr_evt (f : Fld) (n : Nat) : (wr f n s).evt = s.evt := rfl
@[simp] theorem wr_thm (f : Fld) (n : Nat) : (wr f n s).thm = s.thm := rfl
@[simp] theorem wr_pwr (f : Fld) (n : Nat) : (wr f n s).pwr = s.pwr := rfl
@[simp] theorem wr_boot (f : Fld) (n : Nat) : (wr f n s).boot = s.boot := rfl
@[simp] theorem wr_sec (f : Fld) (n : Nat) : (wr f n s).sec = s.sec := rfl
@[simp] theorem wr_nv (f : Fld) (n : Nat) : (wr f n s).nv = s.nv := rfl
@[simp] theorem wr_cxl (f : Fld) (n : Nat) : (wr f n s).cxl = s.cxl := rfl
@[simp] theorem wr_regions (f : Fld) (n : Nat) : (wr f n s).regions = s.regions := rfl
@[simp] theorem wr_blocks (f : Fld) (n : Nat) : (wr f n s).blocks = s.blocks := rfl
@[simp] theorem wr_cells (f : Fld) (n : Nat) : (wr f n s).cells = s.cells := rfl
@[simp] theorem wr_erased (f : Fld) (n : Nat) : (wr f n s).erased = s.erased := rfl
@[simp] theorem wr_shadowGens (f : Fld) (n : Nat) : (wr f n s).shadowGens = s.shadowGens := rfl
@[simp] theorem wr_wsums (f : Fld) (n : Nat) : (wr f n s).wsums = s.wsums := rfl
@[simp] theorem wr_saves (f : Fld) (n : Nat) : (wr f n s).saves = s.saves := rfl
@[simp] theorem wr_hbm (f : Fld) (n : Nat) : (wr f n s).hbm = s.hbm := rfl
@[simp] theorem wr_wld (f : Fld) (n : Nat) : (wr f n s).wld = s.wld := rfl
@[simp] theorem wr_srv (f : Fld) (n : Nat) : (wr f n s).srv = s.srv := rfl
@[simp] theorem wr_mcv (f : Fld) (n : Nat) : (wr f n s).mcv = s.mcv := rfl
@[simp] theorem wr_pair (f : Fld) (n : Nat) : (wr f n s).pair = s.pair := rfl
@[simp] theorem wr_tin (f : Fld) (n : Nat) : (wr f n s).tin = s.tin := rfl
@[simp] theorem wr_now (f : Fld) (n : Nat) : (wr f n s).now = s.now := rfl
@[simp] theorem wr_draws (f : Fld) (n : Nat) : (wr f n s).draws = s.draws := rfl
@[simp] theorem wr_out (f : Fld) (n : Nat) : (wr f n s).out = s.out := rfl
@[simp] theorem wr_reports (f : Fld) (n : Nat) : (wr f n s).reports = s.reports := rfl
@[simp] theorem wr_sent (f : Fld) (n : Nat) : (wr f n s).sent = s.sent := rfl
@[simp] theorem wr_pending (f : Fld) (n : Nat) : (wr f n s).pending = s.pending := rfl

/-! ### wrb changes `regs` alone -/

@[simp] theorem wrb_scr (f : Fld) (b : Bool) : (wrb f b s).scr = s.scr := rfl
@[simp] theorem wrb_scrPoison (f : Fld) (b : Bool) : (wrb f b s).scrPoison = s.scrPoison := rfl
@[simp] theorem wrb_hdm (f : Fld) (b : Bool) : (wrb f b s).hdm = s.hdm := rfl
@[simp] theorem wrb_hdmPoison (f : Fld) (b : Bool) : (wrb f b s).hdmPoison = s.hdmPoison := rfl
@[simp] theorem wrb_host (f : Fld) (b : Bool) : (wrb f b s).host = s.host := rfl
@[simp] theorem wrb_pins (f : Fld) (b : Bool) : (wrb f b s).pins = s.pins := rfl
@[simp] theorem wrb_icu (f : Fld) (b : Bool) : (wrb f b s).icu = s.icu := rfl
@[simp] theorem wrb_evt (f : Fld) (b : Bool) : (wrb f b s).evt = s.evt := rfl
@[simp] theorem wrb_thm (f : Fld) (b : Bool) : (wrb f b s).thm = s.thm := rfl
@[simp] theorem wrb_pwr (f : Fld) (b : Bool) : (wrb f b s).pwr = s.pwr := rfl
@[simp] theorem wrb_boot (f : Fld) (b : Bool) : (wrb f b s).boot = s.boot := rfl
@[simp] theorem wrb_sec (f : Fld) (b : Bool) : (wrb f b s).sec = s.sec := rfl
@[simp] theorem wrb_nv (f : Fld) (b : Bool) : (wrb f b s).nv = s.nv := rfl
@[simp] theorem wrb_cxl (f : Fld) (b : Bool) : (wrb f b s).cxl = s.cxl := rfl
@[simp] theorem wrb_regions (f : Fld) (b : Bool) : (wrb f b s).regions = s.regions := rfl
@[simp] theorem wrb_blocks (f : Fld) (b : Bool) : (wrb f b s).blocks = s.blocks := rfl
@[simp] theorem wrb_cells (f : Fld) (b : Bool) : (wrb f b s).cells = s.cells := rfl
@[simp] theorem wrb_erased (f : Fld) (b : Bool) : (wrb f b s).erased = s.erased := rfl
@[simp] theorem wrb_shadowGens (f : Fld) (b : Bool) : (wrb f b s).shadowGens = s.shadowGens := rfl
@[simp] theorem wrb_wsums (f : Fld) (b : Bool) : (wrb f b s).wsums = s.wsums := rfl
@[simp] theorem wrb_saves (f : Fld) (b : Bool) : (wrb f b s).saves = s.saves := rfl
@[simp] theorem wrb_hbm (f : Fld) (b : Bool) : (wrb f b s).hbm = s.hbm := rfl
@[simp] theorem wrb_wld (f : Fld) (b : Bool) : (wrb f b s).wld = s.wld := rfl
@[simp] theorem wrb_srv (f : Fld) (b : Bool) : (wrb f b s).srv = s.srv := rfl
@[simp] theorem wrb_mcv (f : Fld) (b : Bool) : (wrb f b s).mcv = s.mcv := rfl
@[simp] theorem wrb_pair (f : Fld) (b : Bool) : (wrb f b s).pair = s.pair := rfl
@[simp] theorem wrb_tin (f : Fld) (b : Bool) : (wrb f b s).tin = s.tin := rfl
@[simp] theorem wrb_now (f : Fld) (b : Bool) : (wrb f b s).now = s.now := rfl
@[simp] theorem wrb_draws (f : Fld) (b : Bool) : (wrb f b s).draws = s.draws := rfl
@[simp] theorem wrb_out (f : Fld) (b : Bool) : (wrb f b s).out = s.out := rfl
@[simp] theorem wrb_reports (f : Fld) (b : Bool) : (wrb f b s).reports = s.reports := rfl
@[simp] theorem wrb_sent (f : Fld) (b : Bool) : (wrb f b s).sent = s.sent := rfl
@[simp] theorem wrb_pending (f : Fld) (b : Bool) : (wrb f b s).pending = s.pending := rfl

/-! ### setRegion changes `regions` alone -/

@[simp] theorem setRegion_regs (r : Nat) (f : Region → Region) : (setRegion r f s).regs = s.regs := rfl
@[simp] theorem setRegion_scr (r : Nat) (f : Region → Region) : (setRegion r f s).scr = s.scr := rfl
@[simp] theorem setRegion_scrPoison (r : Nat) (f : Region → Region) : (setRegion r f s).scrPoison = s.scrPoison := rfl
@[simp] theorem setRegion_hdm (r : Nat) (f : Region → Region) : (setRegion r f s).hdm = s.hdm := rfl
@[simp] theorem setRegion_hdmPoison (r : Nat) (f : Region → Region) : (setRegion r f s).hdmPoison = s.hdmPoison := rfl
@[simp] theorem setRegion_host (r : Nat) (f : Region → Region) : (setRegion r f s).host = s.host := rfl
@[simp] theorem setRegion_pins (r : Nat) (f : Region → Region) : (setRegion r f s).pins = s.pins := rfl
@[simp] theorem setRegion_icu (r : Nat) (f : Region → Region) : (setRegion r f s).icu = s.icu := rfl
@[simp] theorem setRegion_evt (r : Nat) (f : Region → Region) : (setRegion r f s).evt = s.evt := rfl
@[simp] theorem setRegion_thm (r : Nat) (f : Region → Region) : (setRegion r f s).thm = s.thm := rfl
@[simp] theorem setRegion_pwr (r : Nat) (f : Region → Region) : (setRegion r f s).pwr = s.pwr := rfl
@[simp] theorem setRegion_boot (r : Nat) (f : Region → Region) : (setRegion r f s).boot = s.boot := rfl
@[simp] theorem setRegion_sec (r : Nat) (f : Region → Region) : (setRegion r f s).sec = s.sec := rfl
@[simp] theorem setRegion_nv (r : Nat) (f : Region → Region) : (setRegion r f s).nv = s.nv := rfl
@[simp] theorem setRegion_cxl (r : Nat) (f : Region → Region) : (setRegion r f s).cxl = s.cxl := rfl
@[simp] theorem setRegion_blocks (r : Nat) (f : Region → Region) : (setRegion r f s).blocks = s.blocks := rfl
@[simp] theorem setRegion_cells (r : Nat) (f : Region → Region) : (setRegion r f s).cells = s.cells := rfl
@[simp] theorem setRegion_erased (r : Nat) (f : Region → Region) : (setRegion r f s).erased = s.erased := rfl
@[simp] theorem setRegion_shadowGens (r : Nat) (f : Region → Region) : (setRegion r f s).shadowGens = s.shadowGens := rfl
@[simp] theorem setRegion_wsums (r : Nat) (f : Region → Region) : (setRegion r f s).wsums = s.wsums := rfl
@[simp] theorem setRegion_saves (r : Nat) (f : Region → Region) : (setRegion r f s).saves = s.saves := rfl
@[simp] theorem setRegion_hbm (r : Nat) (f : Region → Region) : (setRegion r f s).hbm = s.hbm := rfl
@[simp] theorem setRegion_wld (r : Nat) (f : Region → Region) : (setRegion r f s).wld = s.wld := rfl
@[simp] theorem setRegion_srv (r : Nat) (f : Region → Region) : (setRegion r f s).srv = s.srv := rfl
@[simp] theorem setRegion_mcv (r : Nat) (f : Region → Region) : (setRegion r f s).mcv = s.mcv := rfl
@[simp] theorem setRegion_pair (r : Nat) (f : Region → Region) : (setRegion r f s).pair = s.pair := rfl
@[simp] theorem setRegion_tin (r : Nat) (f : Region → Region) : (setRegion r f s).tin = s.tin := rfl
@[simp] theorem setRegion_now (r : Nat) (f : Region → Region) : (setRegion r f s).now = s.now := rfl
@[simp] theorem setRegion_draws (r : Nat) (f : Region → Region) : (setRegion r f s).draws = s.draws := rfl
@[simp] theorem setRegion_out (r : Nat) (f : Region → Region) : (setRegion r f s).out = s.out := rfl
@[simp] theorem setRegion_reports (r : Nat) (f : Region → Region) : (setRegion r f s).reports = s.reports := rfl
@[simp] theorem setRegion_sent (r : Nat) (f : Region → Region) : (setRegion r f s).sent = s.sent := rfl
@[simp] theorem setRegion_pending (r : Nat) (f : Region → Region) : (setRegion r f s).pending = s.pending := rfl

/-! ### setBlock changes `blocks` alone -/

@[simp] theorem setBlock_regs (r b : Nat) (f : Block → Block) : (setBlock r b f s).regs = s.regs := rfl
@[simp] theorem setBlock_scr (r b : Nat) (f : Block → Block) : (setBlock r b f s).scr = s.scr := rfl
@[simp] theorem setBlock_scrPoison (r b : Nat) (f : Block → Block) : (setBlock r b f s).scrPoison = s.scrPoison := rfl
@[simp] theorem setBlock_hdm (r b : Nat) (f : Block → Block) : (setBlock r b f s).hdm = s.hdm := rfl
@[simp] theorem setBlock_hdmPoison (r b : Nat) (f : Block → Block) : (setBlock r b f s).hdmPoison = s.hdmPoison := rfl
@[simp] theorem setBlock_host (r b : Nat) (f : Block → Block) : (setBlock r b f s).host = s.host := rfl
@[simp] theorem setBlock_pins (r b : Nat) (f : Block → Block) : (setBlock r b f s).pins = s.pins := rfl
@[simp] theorem setBlock_icu (r b : Nat) (f : Block → Block) : (setBlock r b f s).icu = s.icu := rfl
@[simp] theorem setBlock_evt (r b : Nat) (f : Block → Block) : (setBlock r b f s).evt = s.evt := rfl
@[simp] theorem setBlock_thm (r b : Nat) (f : Block → Block) : (setBlock r b f s).thm = s.thm := rfl
@[simp] theorem setBlock_pwr (r b : Nat) (f : Block → Block) : (setBlock r b f s).pwr = s.pwr := rfl
@[simp] theorem setBlock_boot (r b : Nat) (f : Block → Block) : (setBlock r b f s).boot = s.boot := rfl
@[simp] theorem setBlock_sec (r b : Nat) (f : Block → Block) : (setBlock r b f s).sec = s.sec := rfl
@[simp] theorem setBlock_nv (r b : Nat) (f : Block → Block) : (setBlock r b f s).nv = s.nv := rfl
@[simp] theorem setBlock_cxl (r b : Nat) (f : Block → Block) : (setBlock r b f s).cxl = s.cxl := rfl
@[simp] theorem setBlock_regions (r b : Nat) (f : Block → Block) : (setBlock r b f s).regions = s.regions := rfl
@[simp] theorem setBlock_cells (r b : Nat) (f : Block → Block) : (setBlock r b f s).cells = s.cells := rfl
@[simp] theorem setBlock_erased (r b : Nat) (f : Block → Block) : (setBlock r b f s).erased = s.erased := rfl
@[simp] theorem setBlock_shadowGens (r b : Nat) (f : Block → Block) : (setBlock r b f s).shadowGens = s.shadowGens := rfl
@[simp] theorem setBlock_wsums (r b : Nat) (f : Block → Block) : (setBlock r b f s).wsums = s.wsums := rfl
@[simp] theorem setBlock_saves (r b : Nat) (f : Block → Block) : (setBlock r b f s).saves = s.saves := rfl
@[simp] theorem setBlock_hbm (r b : Nat) (f : Block → Block) : (setBlock r b f s).hbm = s.hbm := rfl
@[simp] theorem setBlock_wld (r b : Nat) (f : Block → Block) : (setBlock r b f s).wld = s.wld := rfl
@[simp] theorem setBlock_srv (r b : Nat) (f : Block → Block) : (setBlock r b f s).srv = s.srv := rfl
@[simp] theorem setBlock_mcv (r b : Nat) (f : Block → Block) : (setBlock r b f s).mcv = s.mcv := rfl
@[simp] theorem setBlock_pair (r b : Nat) (f : Block → Block) : (setBlock r b f s).pair = s.pair := rfl
@[simp] theorem setBlock_tin (r b : Nat) (f : Block → Block) : (setBlock r b f s).tin = s.tin := rfl
@[simp] theorem setBlock_now (r b : Nat) (f : Block → Block) : (setBlock r b f s).now = s.now := rfl
@[simp] theorem setBlock_draws (r b : Nat) (f : Block → Block) : (setBlock r b f s).draws = s.draws := rfl
@[simp] theorem setBlock_out (r b : Nat) (f : Block → Block) : (setBlock r b f s).out = s.out := rfl
@[simp] theorem setBlock_reports (r b : Nat) (f : Block → Block) : (setBlock r b f s).reports = s.reports := rfl
@[simp] theorem setBlock_sent (r b : Nat) (f : Block → Block) : (setBlock r b f s).sent = s.sent := rfl
@[simp] theorem setBlock_pending (r b : Nat) (f : Block → Block) : (setBlock r b f s).pending = s.pending := rfl

/-! ### setGen changes `wld` alone -/

@[simp] theorem setGen_regs (g : Nat) (f : Gen → Gen) : (setGen g f s).regs = s.regs := rfl
@[simp] theorem setGen_scr (g : Nat) (f : Gen → Gen) : (setGen g f s).scr = s.scr := rfl
@[simp] theorem setGen_scrPoison (g : Nat) (f : Gen → Gen) : (setGen g f s).scrPoison = s.scrPoison := rfl
@[simp] theorem setGen_hdm (g : Nat) (f : Gen → Gen) : (setGen g f s).hdm = s.hdm := rfl
@[simp] theorem setGen_hdmPoison (g : Nat) (f : Gen → Gen) : (setGen g f s).hdmPoison = s.hdmPoison := rfl
@[simp] theorem setGen_host (g : Nat) (f : Gen → Gen) : (setGen g f s).host = s.host := rfl
@[simp] theorem setGen_pins (g : Nat) (f : Gen → Gen) : (setGen g f s).pins = s.pins := rfl
@[simp] theorem setGen_icu (g : Nat) (f : Gen → Gen) : (setGen g f s).icu = s.icu := rfl
@[simp] theorem setGen_evt (g : Nat) (f : Gen → Gen) : (setGen g f s).evt = s.evt := rfl
@[simp] theorem setGen_thm (g : Nat) (f : Gen → Gen) : (setGen g f s).thm = s.thm := rfl
@[simp] theorem setGen_pwr (g : Nat) (f : Gen → Gen) : (setGen g f s).pwr = s.pwr := rfl
@[simp] theorem setGen_boot (g : Nat) (f : Gen → Gen) : (setGen g f s).boot = s.boot := rfl
@[simp] theorem setGen_sec (g : Nat) (f : Gen → Gen) : (setGen g f s).sec = s.sec := rfl
@[simp] theorem setGen_nv (g : Nat) (f : Gen → Gen) : (setGen g f s).nv = s.nv := rfl
@[simp] theorem setGen_cxl (g : Nat) (f : Gen → Gen) : (setGen g f s).cxl = s.cxl := rfl
@[simp] theorem setGen_regions (g : Nat) (f : Gen → Gen) : (setGen g f s).regions = s.regions := rfl
@[simp] theorem setGen_blocks (g : Nat) (f : Gen → Gen) : (setGen g f s).blocks = s.blocks := rfl
@[simp] theorem setGen_cells (g : Nat) (f : Gen → Gen) : (setGen g f s).cells = s.cells := rfl
@[simp] theorem setGen_erased (g : Nat) (f : Gen → Gen) : (setGen g f s).erased = s.erased := rfl
@[simp] theorem setGen_shadowGens (g : Nat) (f : Gen → Gen) : (setGen g f s).shadowGens = s.shadowGens := rfl
@[simp] theorem setGen_wsums (g : Nat) (f : Gen → Gen) : (setGen g f s).wsums = s.wsums := rfl
@[simp] theorem setGen_saves (g : Nat) (f : Gen → Gen) : (setGen g f s).saves = s.saves := rfl
@[simp] theorem setGen_hbm (g : Nat) (f : Gen → Gen) : (setGen g f s).hbm = s.hbm := rfl
@[simp] theorem setGen_srv (g : Nat) (f : Gen → Gen) : (setGen g f s).srv = s.srv := rfl
@[simp] theorem setGen_mcv (g : Nat) (f : Gen → Gen) : (setGen g f s).mcv = s.mcv := rfl
@[simp] theorem setGen_pair (g : Nat) (f : Gen → Gen) : (setGen g f s).pair = s.pair := rfl
@[simp] theorem setGen_tin (g : Nat) (f : Gen → Gen) : (setGen g f s).tin = s.tin := rfl
@[simp] theorem setGen_now (g : Nat) (f : Gen → Gen) : (setGen g f s).now = s.now := rfl
@[simp] theorem setGen_draws (g : Nat) (f : Gen → Gen) : (setGen g f s).draws = s.draws := rfl
@[simp] theorem setGen_out (g : Nat) (f : Gen → Gen) : (setGen g f s).out = s.out := rfl
@[simp] theorem setGen_reports (g : Nat) (f : Gen → Gen) : (setGen g f s).reports = s.reports := rfl
@[simp] theorem setGen_sent (g : Nat) (f : Gen → Gen) : (setGen g f s).sent = s.sent := rfl
@[simp] theorem setGen_pending (g : Nat) (f : Gen → Gen) : (setGen g f s).pending = s.pending := rfl

/-! ### putHdm changes `hdm` alone -/

@[simp] theorem putHdm_regs (a n v : Nat) : (putHdm a n v s).regs = s.regs := rfl
@[simp] theorem putHdm_scr (a n v : Nat) : (putHdm a n v s).scr = s.scr := rfl
@[simp] theorem putHdm_scrPoison (a n v : Nat) : (putHdm a n v s).scrPoison = s.scrPoison := rfl
@[simp] theorem putHdm_hdmPoison (a n v : Nat) : (putHdm a n v s).hdmPoison = s.hdmPoison := rfl
@[simp] theorem putHdm_host (a n v : Nat) : (putHdm a n v s).host = s.host := rfl
@[simp] theorem putHdm_pins (a n v : Nat) : (putHdm a n v s).pins = s.pins := rfl
@[simp] theorem putHdm_icu (a n v : Nat) : (putHdm a n v s).icu = s.icu := rfl
@[simp] theorem putHdm_evt (a n v : Nat) : (putHdm a n v s).evt = s.evt := rfl
@[simp] theorem putHdm_thm (a n v : Nat) : (putHdm a n v s).thm = s.thm := rfl
@[simp] theorem putHdm_pwr (a n v : Nat) : (putHdm a n v s).pwr = s.pwr := rfl
@[simp] theorem putHdm_boot (a n v : Nat) : (putHdm a n v s).boot = s.boot := rfl
@[simp] theorem putHdm_sec (a n v : Nat) : (putHdm a n v s).sec = s.sec := rfl
@[simp] theorem putHdm_nv (a n v : Nat) : (putHdm a n v s).nv = s.nv := rfl
@[simp] theorem putHdm_cxl (a n v : Nat) : (putHdm a n v s).cxl = s.cxl := rfl
@[simp] theorem putHdm_regions (a n v : Nat) : (putHdm a n v s).regions = s.regions := rfl
@[simp] theorem putHdm_blocks (a n v : Nat) : (putHdm a n v s).blocks = s.blocks := rfl
@[simp] theorem putHdm_cells (a n v : Nat) : (putHdm a n v s).cells = s.cells := rfl
@[simp] theorem putHdm_erased (a n v : Nat) : (putHdm a n v s).erased = s.erased := rfl
@[simp] theorem putHdm_shadowGens (a n v : Nat) : (putHdm a n v s).shadowGens = s.shadowGens := rfl
@[simp] theorem putHdm_wsums (a n v : Nat) : (putHdm a n v s).wsums = s.wsums := rfl
@[simp] theorem putHdm_saves (a n v : Nat) : (putHdm a n v s).saves = s.saves := rfl
@[simp] theorem putHdm_hbm (a n v : Nat) : (putHdm a n v s).hbm = s.hbm := rfl
@[simp] theorem putHdm_wld (a n v : Nat) : (putHdm a n v s).wld = s.wld := rfl
@[simp] theorem putHdm_srv (a n v : Nat) : (putHdm a n v s).srv = s.srv := rfl
@[simp] theorem putHdm_mcv (a n v : Nat) : (putHdm a n v s).mcv = s.mcv := rfl
@[simp] theorem putHdm_pair (a n v : Nat) : (putHdm a n v s).pair = s.pair := rfl
@[simp] theorem putHdm_tin (a n v : Nat) : (putHdm a n v s).tin = s.tin := rfl
@[simp] theorem putHdm_now (a n v : Nat) : (putHdm a n v s).now = s.now := rfl
@[simp] theorem putHdm_draws (a n v : Nat) : (putHdm a n v s).draws = s.draws := rfl
@[simp] theorem putHdm_out (a n v : Nat) : (putHdm a n v s).out = s.out := rfl
@[simp] theorem putHdm_reports (a n v : Nat) : (putHdm a n v s).reports = s.reports := rfl
@[simp] theorem putHdm_sent (a n v : Nat) : (putHdm a n v s).sent = s.sent := rfl
@[simp] theorem putHdm_pending (a n v : Nat) : (putHdm a n v s).pending = s.pending := rfl

/-! ### putScr changes `scr` alone -/

@[simp] theorem putScr_regs (a n v : Nat) : (putScr a n v s).regs = s.regs := rfl
@[simp] theorem putScr_scrPoison (a n v : Nat) : (putScr a n v s).scrPoison = s.scrPoison := rfl
@[simp] theorem putScr_hdm (a n v : Nat) : (putScr a n v s).hdm = s.hdm := rfl
@[simp] theorem putScr_hdmPoison (a n v : Nat) : (putScr a n v s).hdmPoison = s.hdmPoison := rfl
@[simp] theorem putScr_host (a n v : Nat) : (putScr a n v s).host = s.host := rfl
@[simp] theorem putScr_pins (a n v : Nat) : (putScr a n v s).pins = s.pins := rfl
@[simp] theorem putScr_icu (a n v : Nat) : (putScr a n v s).icu = s.icu := rfl
@[simp] theorem putScr_evt (a n v : Nat) : (putScr a n v s).evt = s.evt := rfl
@[simp] theorem putScr_thm (a n v : Nat) : (putScr a n v s).thm = s.thm := rfl
@[simp] theorem putScr_pwr (a n v : Nat) : (putScr a n v s).pwr = s.pwr := rfl
@[simp] theorem putScr_boot (a n v : Nat) : (putScr a n v s).boot = s.boot := rfl
@[simp] theorem putScr_sec (a n v : Nat) : (putScr a n v s).sec = s.sec := rfl
@[simp] theorem putScr_nv (a n v : Nat) : (putScr a n v s).nv = s.nv := rfl
@[simp] theorem putScr_cxl (a n v : Nat) : (putScr a n v s).cxl = s.cxl := rfl
@[simp] theorem putScr_regions (a n v : Nat) : (putScr a n v s).regions = s.regions := rfl
@[simp] theorem putScr_blocks (a n v : Nat) : (putScr a n v s).blocks = s.blocks := rfl
@[simp] theorem putScr_cells (a n v : Nat) : (putScr a n v s).cells = s.cells := rfl
@[simp] theorem putScr_erased (a n v : Nat) : (putScr a n v s).erased = s.erased := rfl
@[simp] theorem putScr_shadowGens (a n v : Nat) : (putScr a n v s).shadowGens = s.shadowGens := rfl
@[simp] theorem putScr_wsums (a n v : Nat) : (putScr a n v s).wsums = s.wsums := rfl
@[simp] theorem putScr_saves (a n v : Nat) : (putScr a n v s).saves = s.saves := rfl
@[simp] theorem putScr_hbm (a n v : Nat) : (putScr a n v s).hbm = s.hbm := rfl
@[simp] theorem putScr_wld (a n v : Nat) : (putScr a n v s).wld = s.wld := rfl
@[simp] theorem putScr_srv (a n v : Nat) : (putScr a n v s).srv = s.srv := rfl
@[simp] theorem putScr_mcv (a n v : Nat) : (putScr a n v s).mcv = s.mcv := rfl
@[simp] theorem putScr_pair (a n v : Nat) : (putScr a n v s).pair = s.pair := rfl
@[simp] theorem putScr_tin (a n v : Nat) : (putScr a n v s).tin = s.tin := rfl
@[simp] theorem putScr_now (a n v : Nat) : (putScr a n v s).now = s.now := rfl
@[simp] theorem putScr_draws (a n v : Nat) : (putScr a n v s).draws = s.draws := rfl
@[simp] theorem putScr_out (a n v : Nat) : (putScr a n v s).out = s.out := rfl
@[simp] theorem putScr_reports (a n v : Nat) : (putScr a n v s).reports = s.reports := rfl
@[simp] theorem putScr_sent (a n v : Nat) : (putScr a n v s).sent = s.sent := rfl
@[simp] theorem putScr_pending (a n v : Nat) : (putScr a n v s).pending = s.pending := rfl

/-! ### log changes `reports` alone -/

@[simp] theorem log_regs (c : Fin 16) (sev : Fin 5) (code unit : Nat) (d : List Byte) : (log c sev code unit d s).regs = s.regs := rfl
@[simp] theorem log_scr (c : Fin 16) (sev : Fin 5) (code unit : Nat) (d : List Byte) : (log c sev code unit d s).scr = s.scr := rfl
@[simp] theorem log_scrPoison (c : Fin 16) (sev : Fin 5) (code unit : Nat) (d : List Byte) : (log c sev code unit d s).scrPoison = s.scrPoison := rfl
@[simp] theorem log_hdm (c : Fin 16) (sev : Fin 5) (code unit : Nat) (d : List Byte) : (log c sev code unit d s).hdm = s.hdm := rfl
@[simp] theorem log_hdmPoison (c : Fin 16) (sev : Fin 5) (code unit : Nat) (d : List Byte) : (log c sev code unit d s).hdmPoison = s.hdmPoison := rfl
@[simp] theorem log_host (c : Fin 16) (sev : Fin 5) (code unit : Nat) (d : List Byte) : (log c sev code unit d s).host = s.host := rfl
@[simp] theorem log_pins (c : Fin 16) (sev : Fin 5) (code unit : Nat) (d : List Byte) : (log c sev code unit d s).pins = s.pins := rfl
@[simp] theorem log_icu (c : Fin 16) (sev : Fin 5) (code unit : Nat) (d : List Byte) : (log c sev code unit d s).icu = s.icu := rfl
@[simp] theorem log_evt (c : Fin 16) (sev : Fin 5) (code unit : Nat) (d : List Byte) : (log c sev code unit d s).evt = s.evt := rfl
@[simp] theorem log_thm (c : Fin 16) (sev : Fin 5) (code unit : Nat) (d : List Byte) : (log c sev code unit d s).thm = s.thm := rfl
@[simp] theorem log_pwr (c : Fin 16) (sev : Fin 5) (code unit : Nat) (d : List Byte) : (log c sev code unit d s).pwr = s.pwr := rfl
@[simp] theorem log_boot (c : Fin 16) (sev : Fin 5) (code unit : Nat) (d : List Byte) : (log c sev code unit d s).boot = s.boot := rfl
@[simp] theorem log_sec (c : Fin 16) (sev : Fin 5) (code unit : Nat) (d : List Byte) : (log c sev code unit d s).sec = s.sec := rfl
@[simp] theorem log_nv (c : Fin 16) (sev : Fin 5) (code unit : Nat) (d : List Byte) : (log c sev code unit d s).nv = s.nv := rfl
@[simp] theorem log_cxl (c : Fin 16) (sev : Fin 5) (code unit : Nat) (d : List Byte) : (log c sev code unit d s).cxl = s.cxl := rfl
@[simp] theorem log_regions (c : Fin 16) (sev : Fin 5) (code unit : Nat) (d : List Byte) : (log c sev code unit d s).regions = s.regions := rfl
@[simp] theorem log_blocks (c : Fin 16) (sev : Fin 5) (code unit : Nat) (d : List Byte) : (log c sev code unit d s).blocks = s.blocks := rfl
@[simp] theorem log_cells (c : Fin 16) (sev : Fin 5) (code unit : Nat) (d : List Byte) : (log c sev code unit d s).cells = s.cells := rfl
@[simp] theorem log_erased (c : Fin 16) (sev : Fin 5) (code unit : Nat) (d : List Byte) : (log c sev code unit d s).erased = s.erased := rfl
@[simp] theorem log_shadowGens (c : Fin 16) (sev : Fin 5) (code unit : Nat) (d : List Byte) : (log c sev code unit d s).shadowGens = s.shadowGens := rfl
@[simp] theorem log_wsums (c : Fin 16) (sev : Fin 5) (code unit : Nat) (d : List Byte) : (log c sev code unit d s).wsums = s.wsums := rfl
@[simp] theorem log_saves (c : Fin 16) (sev : Fin 5) (code unit : Nat) (d : List Byte) : (log c sev code unit d s).saves = s.saves := rfl
@[simp] theorem log_hbm (c : Fin 16) (sev : Fin 5) (code unit : Nat) (d : List Byte) : (log c sev code unit d s).hbm = s.hbm := rfl
@[simp] theorem log_wld (c : Fin 16) (sev : Fin 5) (code unit : Nat) (d : List Byte) : (log c sev code unit d s).wld = s.wld := rfl
@[simp] theorem log_srv (c : Fin 16) (sev : Fin 5) (code unit : Nat) (d : List Byte) : (log c sev code unit d s).srv = s.srv := rfl
@[simp] theorem log_mcv (c : Fin 16) (sev : Fin 5) (code unit : Nat) (d : List Byte) : (log c sev code unit d s).mcv = s.mcv := rfl
@[simp] theorem log_pair (c : Fin 16) (sev : Fin 5) (code unit : Nat) (d : List Byte) : (log c sev code unit d s).pair = s.pair := rfl
@[simp] theorem log_tin (c : Fin 16) (sev : Fin 5) (code unit : Nat) (d : List Byte) : (log c sev code unit d s).tin = s.tin := rfl
@[simp] theorem log_now (c : Fin 16) (sev : Fin 5) (code unit : Nat) (d : List Byte) : (log c sev code unit d s).now = s.now := rfl
@[simp] theorem log_draws (c : Fin 16) (sev : Fin 5) (code unit : Nat) (d : List Byte) : (log c sev code unit d s).draws = s.draws := rfl
@[simp] theorem log_out (c : Fin 16) (sev : Fin 5) (code unit : Nat) (d : List Byte) : (log c sev code unit d s).out = s.out := rfl
@[simp] theorem log_sent (c : Fin 16) (sev : Fin 5) (code unit : Nat) (d : List Byte) : (log c sev code unit d s).sent = s.sent := rfl
@[simp] theorem log_pending (c : Fin 16) (sev : Fin 5) (code unit : Nat) (d : List Byte) : (log c sev code unit d s).pending = s.pending := rfl

/-! ### send changes `sent` alone -/

@[simp] theorem send_regs (m : Sent) : (send m s).regs = s.regs := rfl
@[simp] theorem send_scr (m : Sent) : (send m s).scr = s.scr := rfl
@[simp] theorem send_scrPoison (m : Sent) : (send m s).scrPoison = s.scrPoison := rfl
@[simp] theorem send_hdm (m : Sent) : (send m s).hdm = s.hdm := rfl
@[simp] theorem send_hdmPoison (m : Sent) : (send m s).hdmPoison = s.hdmPoison := rfl
@[simp] theorem send_host (m : Sent) : (send m s).host = s.host := rfl
@[simp] theorem send_pins (m : Sent) : (send m s).pins = s.pins := rfl
@[simp] theorem send_icu (m : Sent) : (send m s).icu = s.icu := rfl
@[simp] theorem send_evt (m : Sent) : (send m s).evt = s.evt := rfl
@[simp] theorem send_thm (m : Sent) : (send m s).thm = s.thm := rfl
@[simp] theorem send_pwr (m : Sent) : (send m s).pwr = s.pwr := rfl
@[simp] theorem send_boot (m : Sent) : (send m s).boot = s.boot := rfl
@[simp] theorem send_sec (m : Sent) : (send m s).sec = s.sec := rfl
@[simp] theorem send_nv (m : Sent) : (send m s).nv = s.nv := rfl
@[simp] theorem send_cxl (m : Sent) : (send m s).cxl = s.cxl := rfl
@[simp] theorem send_regions (m : Sent) : (send m s).regions = s.regions := rfl
@[simp] theorem send_blocks (m : Sent) : (send m s).blocks = s.blocks := rfl
@[simp] theorem send_cells (m : Sent) : (send m s).cells = s.cells := rfl
@[simp] theorem send_erased (m : Sent) : (send m s).erased = s.erased := rfl
@[simp] theorem send_shadowGens (m : Sent) : (send m s).shadowGens = s.shadowGens := rfl
@[simp] theorem send_wsums (m : Sent) : (send m s).wsums = s.wsums := rfl
@[simp] theorem send_saves (m : Sent) : (send m s).saves = s.saves := rfl
@[simp] theorem send_hbm (m : Sent) : (send m s).hbm = s.hbm := rfl
@[simp] theorem send_wld (m : Sent) : (send m s).wld = s.wld := rfl
@[simp] theorem send_srv (m : Sent) : (send m s).srv = s.srv := rfl
@[simp] theorem send_mcv (m : Sent) : (send m s).mcv = s.mcv := rfl
@[simp] theorem send_pair (m : Sent) : (send m s).pair = s.pair := rfl
@[simp] theorem send_tin (m : Sent) : (send m s).tin = s.tin := rfl
@[simp] theorem send_now (m : Sent) : (send m s).now = s.now := rfl
@[simp] theorem send_draws (m : Sent) : (send m s).draws = s.draws := rfl
@[simp] theorem send_out (m : Sent) : (send m s).out = s.out := rfl
@[simp] theorem send_reports (m : Sent) : (send m s).reports = s.reports := rfl
@[simp] theorem send_pending (m : Sent) : (send m s).pending = s.pending := rfl

/-! ### answer changes `out` alone -/

@[simp] theorem answer_regs (a : Answer) : (answer a s).regs = s.regs := rfl
@[simp] theorem answer_scr (a : Answer) : (answer a s).scr = s.scr := rfl
@[simp] theorem answer_scrPoison (a : Answer) : (answer a s).scrPoison = s.scrPoison := rfl
@[simp] theorem answer_hdm (a : Answer) : (answer a s).hdm = s.hdm := rfl
@[simp] theorem answer_hdmPoison (a : Answer) : (answer a s).hdmPoison = s.hdmPoison := rfl
@[simp] theorem answer_host (a : Answer) : (answer a s).host = s.host := rfl
@[simp] theorem answer_pins (a : Answer) : (answer a s).pins = s.pins := rfl
@[simp] theorem answer_icu (a : Answer) : (answer a s).icu = s.icu := rfl
@[simp] theorem answer_evt (a : Answer) : (answer a s).evt = s.evt := rfl
@[simp] theorem answer_thm (a : Answer) : (answer a s).thm = s.thm := rfl
@[simp] theorem answer_pwr (a : Answer) : (answer a s).pwr = s.pwr := rfl
@[simp] theorem answer_boot (a : Answer) : (answer a s).boot = s.boot := rfl
@[simp] theorem answer_sec (a : Answer) : (answer a s).sec = s.sec := rfl
@[simp] theorem answer_nv (a : Answer) : (answer a s).nv = s.nv := rfl
@[simp] theorem answer_cxl (a : Answer) : (answer a s).cxl = s.cxl := rfl
@[simp] theorem answer_regions (a : Answer) : (answer a s).regions = s.regions := rfl
@[simp] theorem answer_blocks (a : Answer) : (answer a s).blocks = s.blocks := rfl
@[simp] theorem answer_cells (a : Answer) : (answer a s).cells = s.cells := rfl
@[simp] theorem answer_erased (a : Answer) : (answer a s).erased = s.erased := rfl
@[simp] theorem answer_shadowGens (a : Answer) : (answer a s).shadowGens = s.shadowGens := rfl
@[simp] theorem answer_wsums (a : Answer) : (answer a s).wsums = s.wsums := rfl
@[simp] theorem answer_saves (a : Answer) : (answer a s).saves = s.saves := rfl
@[simp] theorem answer_hbm (a : Answer) : (answer a s).hbm = s.hbm := rfl
@[simp] theorem answer_wld (a : Answer) : (answer a s).wld = s.wld := rfl
@[simp] theorem answer_srv (a : Answer) : (answer a s).srv = s.srv := rfl
@[simp] theorem answer_mcv (a : Answer) : (answer a s).mcv = s.mcv := rfl
@[simp] theorem answer_pair (a : Answer) : (answer a s).pair = s.pair := rfl
@[simp] theorem answer_tin (a : Answer) : (answer a s).tin = s.tin := rfl
@[simp] theorem answer_now (a : Answer) : (answer a s).now = s.now := rfl
@[simp] theorem answer_draws (a : Answer) : (answer a s).draws = s.draws := rfl
@[simp] theorem answer_reports (a : Answer) : (answer a s).reports = s.reports := rfl
@[simp] theorem answer_sent (a : Answer) : (answer a s).sent = s.sent := rfl
@[simp] theorem answer_pending (a : Answer) : (answer a s).pending = s.pending := rfl

/-! ### draw changes `draws` alone -/

@[simp] theorem draw_regs : (draw s |>.2).regs = s.regs := rfl
@[simp] theorem draw_scr : (draw s |>.2).scr = s.scr := rfl
@[simp] theorem draw_scrPoison : (draw s |>.2).scrPoison = s.scrPoison := rfl
@[simp] theorem draw_hdm : (draw s |>.2).hdm = s.hdm := rfl
@[simp] theorem draw_hdmPoison : (draw s |>.2).hdmPoison = s.hdmPoison := rfl
@[simp] theorem draw_host : (draw s |>.2).host = s.host := rfl
@[simp] theorem draw_pins : (draw s |>.2).pins = s.pins := rfl
@[simp] theorem draw_icu : (draw s |>.2).icu = s.icu := rfl
@[simp] theorem draw_evt : (draw s |>.2).evt = s.evt := rfl
@[simp] theorem draw_thm : (draw s |>.2).thm = s.thm := rfl
@[simp] theorem draw_pwr : (draw s |>.2).pwr = s.pwr := rfl
@[simp] theorem draw_boot : (draw s |>.2).boot = s.boot := rfl
@[simp] theorem draw_sec : (draw s |>.2).sec = s.sec := rfl
@[simp] theorem draw_nv : (draw s |>.2).nv = s.nv := rfl
@[simp] theorem draw_cxl : (draw s |>.2).cxl = s.cxl := rfl
@[simp] theorem draw_regions : (draw s |>.2).regions = s.regions := rfl
@[simp] theorem draw_blocks : (draw s |>.2).blocks = s.blocks := rfl
@[simp] theorem draw_cells : (draw s |>.2).cells = s.cells := rfl
@[simp] theorem draw_erased : (draw s |>.2).erased = s.erased := rfl
@[simp] theorem draw_shadowGens : (draw s |>.2).shadowGens = s.shadowGens := rfl
@[simp] theorem draw_wsums : (draw s |>.2).wsums = s.wsums := rfl
@[simp] theorem draw_saves : (draw s |>.2).saves = s.saves := rfl
@[simp] theorem draw_hbm : (draw s |>.2).hbm = s.hbm := rfl
@[simp] theorem draw_wld : (draw s |>.2).wld = s.wld := rfl
@[simp] theorem draw_srv : (draw s |>.2).srv = s.srv := rfl
@[simp] theorem draw_mcv : (draw s |>.2).mcv = s.mcv := rfl
@[simp] theorem draw_pair : (draw s |>.2).pair = s.pair := rfl
@[simp] theorem draw_tin : (draw s |>.2).tin = s.tin := rfl
@[simp] theorem draw_now : (draw s |>.2).now = s.now := rfl
@[simp] theorem draw_out : (draw s |>.2).out = s.out := rfl
@[simp] theorem draw_reports : (draw s |>.2).reports = s.reports := rfl
@[simp] theorem draw_sent : (draw s |>.2).sent = s.sent := rfl
@[simp] theorem draw_pending : (draw s |>.2).pending = s.pending := rfl

/-! ### withPending changes `pending` alone -/

@[simp] theorem withPending_regs (l : List Instr) : (s.withPending l).regs = s.regs := rfl
@[simp] theorem withPending_scr (l : List Instr) : (s.withPending l).scr = s.scr := rfl
@[simp] theorem withPending_scrPoison (l : List Instr) : (s.withPending l).scrPoison = s.scrPoison := rfl
@[simp] theorem withPending_hdm (l : List Instr) : (s.withPending l).hdm = s.hdm := rfl
@[simp] theorem withPending_hdmPoison (l : List Instr) : (s.withPending l).hdmPoison = s.hdmPoison := rfl
@[simp] theorem withPending_host (l : List Instr) : (s.withPending l).host = s.host := rfl
@[simp] theorem withPending_pins (l : List Instr) : (s.withPending l).pins = s.pins := rfl
@[simp] theorem withPending_icu (l : List Instr) : (s.withPending l).icu = s.icu := rfl
@[simp] theorem withPending_evt (l : List Instr) : (s.withPending l).evt = s.evt := rfl
@[simp] theorem withPending_thm (l : List Instr) : (s.withPending l).thm = s.thm := rfl
@[simp] theorem withPending_pwr (l : List Instr) : (s.withPending l).pwr = s.pwr := rfl
@[simp] theorem withPending_boot (l : List Instr) : (s.withPending l).boot = s.boot := rfl
@[simp] theorem withPending_sec (l : List Instr) : (s.withPending l).sec = s.sec := rfl
@[simp] theorem withPending_nv (l : List Instr) : (s.withPending l).nv = s.nv := rfl
@[simp] theorem withPending_cxl (l : List Instr) : (s.withPending l).cxl = s.cxl := rfl
@[simp] theorem withPending_regions (l : List Instr) : (s.withPending l).regions = s.regions := rfl
@[simp] theorem withPending_blocks (l : List Instr) : (s.withPending l).blocks = s.blocks := rfl
@[simp] theorem withPending_cells (l : List Instr) : (s.withPending l).cells = s.cells := rfl
@[simp] theorem withPending_erased (l : List Instr) : (s.withPending l).erased = s.erased := rfl
@[simp] theorem withPending_shadowGens (l : List Instr) : (s.withPending l).shadowGens = s.shadowGens := rfl
@[simp] theorem withPending_wsums (l : List Instr) : (s.withPending l).wsums = s.wsums := rfl
@[simp] theorem withPending_saves (l : List Instr) : (s.withPending l).saves = s.saves := rfl
@[simp] theorem withPending_hbm (l : List Instr) : (s.withPending l).hbm = s.hbm := rfl
@[simp] theorem withPending_wld (l : List Instr) : (s.withPending l).wld = s.wld := rfl
@[simp] theorem withPending_srv (l : List Instr) : (s.withPending l).srv = s.srv := rfl
@[simp] theorem withPending_mcv (l : List Instr) : (s.withPending l).mcv = s.mcv := rfl
@[simp] theorem withPending_pair (l : List Instr) : (s.withPending l).pair = s.pair := rfl
@[simp] theorem withPending_tin (l : List Instr) : (s.withPending l).tin = s.tin := rfl
@[simp] theorem withPending_now (l : List Instr) : (s.withPending l).now = s.now := rfl
@[simp] theorem withPending_draws (l : List Instr) : (s.withPending l).draws = s.draws := rfl
@[simp] theorem withPending_out (l : List Instr) : (s.withPending l).out = s.out := rfl
@[simp] theorem withPending_reports (l : List Instr) : (s.withPending l).reports = s.reports := rfl
@[simp] theorem withPending_sent (l : List Instr) : (s.withPending l).sent = s.sent := rfl

@[simp] theorem withPending_pending (l : List Instr) : (s.withPending l).pending = l := rfl
@[simp] theorem withPending_reg (l : List Instr) (off : Nat) : (s.withPending l).reg off = s.reg off := rfl
@[simp] theorem withPending_rd (l : List Instr) (f : Fld) : rd f (s.withPending l) = rd f s := rfl

end Sys2Proof.Machine
end

