-- ==== Sys2Proof/Laws/Steady.lean ====
section
/-! SUPPORT. What almost every operation of the part has in common (`Steady`): it leaves the queue of commands alone, keeps the
canonical form of registers and memories, takes no time, and changes neither the fuses nor the life-cycle state. One
lemma per operation says so, in the files beside this one; the form `Steady s₀ s → Steady s₀ (op s)` chains them. -/

namespace Sys2Proof.Machine

/-- `t` comes from `s` without a command taken or added, in canonical form if `s` is, at the same instant, with the same fuses and the same
life-cycle state; a life-cycle transition in progress is the same or gone. -/
structure Steady (s t : State) : Prop where
  queue : t.pending = s.pending
  canonical : s.Canonical → t.Canonical
  clock : t.now = s.now
  serial : t.nv.serial = s.nv.serial
  fwKeyHash : t.nv.fwKeyHash = s.nv.fwKeyHash
  lcs : t.nv.lcs = s.nv.lcs
  transition : t.sec.transition = s.sec.transition ∨ t.sec.transition = none

variable {s₀ s t : State}

theorem Steady.refl (s : State) : Steady s s := ⟨rfl, id, rfl, rfl, rfl, rfl, .inl rfl⟩

theorem Steady.trans (h : Steady s₀ s) (g : Steady s t) : Steady s₀ t :=
  ⟨g.queue.trans h.queue, fun c => g.canonical (h.canonical c), g.clock.trans h.clock, g.serial.trans h.serial,
    g.fwKeyHash.trans h.fwKeyHash, g.lcs.trans h.lcs,
    g.transition.elim (fun e => h.transition.elim (fun e' => .inl (e.trans e')) fun e' => .inr (e.trans e')) .inr⟩

/-- The state `n` cycles later and otherwise the same: what a step boundary, the one command that takes time, is compared with. -/
def State.later (n : Nat) (s : State) : State := { s with now := s.now + n }

/-- An update of fields that none of these properties speaks about. -/
theorem Steady.same (h1 : t.pending = s.pending) (h2 : t.regs = s.regs) (h3 : t.scr = s.scr) (h4 : t.hdm = s.hdm)
    (h5 : t.host = s.host) (h6 : t.scrPoison = s.scrPoison) (h7 : t.hdmPoison = s.hdmPoison) (h8 : t.now = s.now)
    (h9 : t.nv.serial = s.nv.serial) (h10 : t.nv.fwKeyHash = s.nv.fwKeyHash) (h11 : t.nv.lcs = s.nv.lcs)
    (h12 : t.sec.transition = s.sec.transition) : Steady s t :=
  ⟨h1, fun c => ⟨h2 ▸ c.regs, h3 ▸ c.scr, h4 ▸ c.hdm, h5 ▸ c.host, h6 ▸ c.scrPoison, h7 ▸ c.hdmPoison⟩, h8, h9, h10, h11,
    .inl h12⟩

/-- An update of fields that none of these properties speaks about, in the form in which record updates elaborate. -/
theorem Steady.upd {pins icu evt thm pwr boot sec nv cxl regions blocks cells erased shadowGens wsums saves hbm wld srv mcv pair tin
      draws out reports sent} (h : Steady s₀ s) (hs : nv.serial = s.nv.serial) (hf : nv.fwKeyHash = s.nv.fwKeyHash)
    (hl : nv.lcs = s.nv.lcs) (ht : sec.transition = s.sec.transition) :
    Steady s₀ (State.mk s.regs s.scr s.scrPoison s.hdm s.hdmPoison s.host pins icu evt thm pwr boot sec nv cxl regions blocks
      cells erased shadowGens wsums saves hbm wld srv mcv pair tin s.now draws out reports sent s.pending) :=
  h.trans (.same rfl rfl rfl rfl rfl rfl rfl rfl hs hf hl ht)

/-- An update of memories and registers that keeps their canonical form. -/
theorem Steady.memory (h1 : t.pending = s.pending) (h8 : t.now = s.now)
    (h9 : t.nv = s.nv) (h12 : t.sec = s.sec) (hc : s.Canonical → t.Canonical) : Steady s t :=
  ⟨h1, hc, h8, by rw [h9], by rw [h9], by rw [h9], .inl (by rw [h12])⟩

/-- Memories written in canonical form, and any update of fields that none of these properties speaks about. -/
theorem Steady.updMem {regs scr scrPoison hdm hdmPoison host pins icu evt thm pwr boot sec nv cxl regions blocks cells erased
      shadowGens wsums saves hbm wld srv mcv pair tin draws out reports sent} (h : Steady s₀ s) (hs : nv.serial = s.nv.serial) (hf :
      nv.fwKeyHash = s.nv.fwKeyHash)
    (hl : nv.lcs = s.nv.lcs) (ht : sec.transition = s.sec.transition) (m1 : SparseWf regPor s.regs → SparseWf regPor regs)
    (m2 : SparseWf (fun _ => (0 : Byte)) s.scr → SparseWf (fun _ => (0 : Byte)) scr) (m3 : SparseWf (fun _ => (0 : Byte)) s.hdm →
      SparseWf (fun _ => (0 : Byte)) hdm)
    (m4 : SparseWf (fun _ => (0 : Byte)) s.host → SparseWf (fun _ => (0 : Byte)) host) (m5 : SparseWf (fun _ => false) s.scrPoison
      → SparseWf (fun _ => false) scrPoison)
    (m6 : SparseWf (fun _ => false) s.hdmPoison → SparseWf (fun _ => false) hdmPoison) :
    Steady s₀ (State.mk regs scr scrPoison hdm hdmPoison host pins icu evt thm pwr boot sec nv cxl regions blocks cells erased
      shadowGens wsums saves hbm wld srv mcv pair tin s.now draws out reports sent s.pending) :=
  h.trans ⟨rfl, fun c => ⟨m1 c.regs, m2 c.scr, m3 c.hdm, m4 c.host, m5 c.scrPoison, m6 c.hdmPoison⟩, rfl, hs, hf, hl,
      .inl ht⟩

theorem Steady.next {u t : State} (h : Steady s₀ u) (e : (.next u : Host.Outcome State Fault Refusal) = .next t) : Steady s₀ t := by
  cases e
  exact h

theorem Steady.ite {c : Prop} [Decidable c] {a b : State} (ha : Steady s₀ a) (hb : Steady s₀ b) :
    Steady s₀ (if c then a else b) := by split <;> assumption

theorem Steady.foldl {α : Type} {f : State → α → State} {l : List α} (h : Steady s₀ s)
    (hf : ∀ x, Steady s₀ x → ∀ a, Steady s₀ (f x a)) : Steady s₀ (l.foldl f s) := by
  induction l generalizing s with
  | nil => exact h
  | cons a l ih => exact ih (hf s h a)

/-! ## The operations of Ops.lean -/

theorem setReg_steady (off : Nat) (v : Word) (h : Steady s₀ s) : Steady s₀ (setReg off v s) :=
  h.trans (.memory rfl rfl rfl rfl fun c => { c with regs := SparseWf.sset c.regs off v })

theorem putHdm_steady (a n v : Nat) (h : Steady s₀ s) : Steady s₀ (putHdm a n v s) :=
  h.trans (.memory rfl rfl rfl rfl fun c => { c with hdm := putBytes_wf a _ c.hdm })

theorem putScr_steady (a n v : Nat) (h : Steady s₀ s) : Steady s₀ (putScr a n v s) :=
  h.trans (.memory rfl rfl rfl rfl fun c => { c with scr := putBytes_wf a _ c.scr })

theorem draw_steady (h : Steady s₀ s) : Steady s₀ (draw s).2 :=
  h.trans (.same rfl rfl rfl rfl rfl rfl rfl rfl rfl rfl rfl rfl)

end Sys2Proof.Machine
end

