-- ==== Sys2Proof/Laws/SteadyOps.lean ====
section
/-! SUPPORT. The operations of Ops.lean are steady (Steady.lean). -/

namespace Sys2Proof.Machine

variable {s₀ s : State}

theorem wr_steady (x0) (x1) (h : Steady s₀ s) : Steady s₀ (wr x0 x1 s) := by
  unfold wr
  repeat' first
    | with_reducible assumption
    | with_reducible apply setReg_steady

theorem wrb_steady (x0) (x1) (h : Steady s₀ s) : Steady s₀ (wrb x0 x1 s) := by
  unfold wrb
  repeat' first
    | with_reducible assumption
    | with_reducible apply wr_steady

theorem incWrap_steady (x0) (x1) (h : Steady s₀ s) : Steady s₀ (incWrap x0 x1 s) := by
  unfold incWrap
  repeat' first
    | with_reducible assumption
    | with_reducible apply wr_steady

theorem incHold_steady (x0) (x1) (h : Steady s₀ s) : Steady s₀ (incHold x0 x1 s) := by
  unfold incHold
  repeat' first
    | with_reducible assumption
    | with_reducible apply wr_steady

theorem wrs_steady (x0) (x1) (h : Steady s₀ s) : Steady s₀ (wrs x0 x1 s) := by
  unfold wrs
  repeat' first
    | with_reducible assumption
    | with_reducible apply wr_steady
    | ((try lift_lets); intro x; refine (?_ : Steady s₀ x → _) ?_; focus (intro hx; clear_value x))
    | ((try lift_lets); intro x; try clear_value x)

theorem setRegion_steady (x0) (x1) (h : Steady s₀ s) : Steady s₀ (setRegion x0 x1 s) := by
  unfold setRegion
  repeat' first
    | with_reducible assumption
    | with_reducible refine Steady.upd ?_ rfl rfl rfl rfl

theorem log_steady (x0) (x1) (x2) (x3) (x4) (h : Steady s₀ s) : Steady s₀ (log x0 x1 x2 x3 x4 s) := by
  unfold log
  repeat' first
    | with_reducible assumption
    | with_reducible refine Steady.upd ?_ rfl rfl rfl rfl

theorem logIgnored_steady (x0) (x1) (x2) (h : Steady s₀ s) : Steady s₀ (logIgnored x0 x1 x2 s) := by
  unfold logIgnored
  repeat' first
    | with_reducible assumption
    | with_reducible apply log_steady

theorem send_steady (x0) (h : Steady s₀ s) : Steady s₀ (send x0 s) := by
  unfold send
  repeat' first
    | with_reducible assumption
    | with_reducible refine Steady.upd ?_ rfl rfl rfl rfl

theorem answer_steady (x0) (h : Steady s₀ s) : Steady s₀ (answer x0 s) := by
  unfold answer
  repeat' first
    | with_reducible assumption
    | with_reducible refine Steady.upd ?_ rfl rfl rfl rfl

theorem wtake_steady (x0) (x1) (h : Steady s₀ s) : Steady s₀ (wtake x0 x1 s) := by
  unfold wtake
  repeat' first
    | with_reducible assumption
    | with_reducible apply wr_steady

theorem wclear_steady (x0) (x1) (h : Steady s₀ s) : Steady s₀ (wclear x0 x1 s) := by
  unfold wclear
  repeat' first
    | with_reducible assumption
    | with_reducible apply wr_steady
    | with_reducible apply Steady.ite
    | split

theorem wtakeLocked_steady (x0) (x1) (h : Steady s₀ s) : Steady s₀ (wtakeLocked x0 x1 s) := by
  unfold wtakeLocked
  repeat' first
    | with_reducible assumption
    | with_reducible apply logIgnored_steady
    | with_reducible apply wtake_steady
    | refine fun x (hx : Steady s₀ x) a => ?_
    | refine fun x (hx : Steady s₀ x) => ?_
    | with_reducible apply Steady.ite
    | with_reducible apply Steady.foldl
    | split

theorem viaBar_steady (x0) (k : State → State) (hk : ∀ x, Steady s₀ x → Steady s₀ (k x)) (h : Steady s₀ s) : Steady s₀ (viaBar x0 s k) := by
  unfold viaBar
  repeat' first
    | with_reducible assumption
    | with_reducible apply answer_steady
    | with_reducible apply hk
    | with_reducible apply Steady.ite
    | split

theorem byWriter_steady (x0) (x1) (x2) (k : State → State) (hk : ∀ x, Steady s₀ x → Steady s₀ (k x)) (h : Steady s₀ s) : Steady s₀ (byWriter x0 x1 x2 s k) := by
  unfold byWriter
  repeat' first
    | with_reducible assumption
    | with_reducible apply viaBar_steady
    | with_reducible apply logIgnored_steady
    | with_reducible apply hk
    | refine fun x (hx : Steady s₀ x) a => ?_
    | refine fun x (hx : Steady s₀ x) => ?_
    | with_reducible apply Steady.ite
    | split

theorem guarded_steady (x0) (x1) (k : State → State) (hk : ∀ x, Steady s₀ x → Steady s₀ (k x)) (h : Steady s₀ s) : Steady s₀ (guarded x0 x1 s k) := by
  unfold guarded
  repeat' first
    | with_reducible assumption
    | with_reducible apply byWriter_steady
    | with_reducible apply hk
    | refine fun x (hx : Steady s₀ x) a => ?_
    | refine fun x (hx : Steady s₀ x) => ?_

end Sys2Proof.Machine
end

