-- ==== Sys2Proof/Laws/SteadyInterrupts.lean ====
section
/-! SUPPORT. The operations of Interrupts.lean are steady (Steady.lean). -/

namespace Sys2Proof.Machine

variable {s₀ s : State}

theorem wakeCores_steady (h : Steady s₀ s) : Steady s₀ (wakeCores s) := by
  unfold wakeCores
  repeat' first
    | with_reducible assumption
    | with_reducible apply wr_steady
    | refine fun x (hx : Steady s₀ x) a => ?_
    | refine fun x (hx : Steady s₀ x) => ?_
    | with_reducible apply Steady.ite
    | with_reducible apply Steady.foldl
    | split

theorem setLatch_steady (x0) (x1) (h : Steady s₀ s) : Steady s₀ (setLatch x0 x1 s) := by
  unfold setLatch
  repeat' first
    | with_reducible assumption
    | with_reducible refine Steady.upd ?_ rfl rfl rfl rfl

theorem setActive_steady (x0) (x1) (h : Steady s₀ s) : Steady s₀ (setActive x0 x1 s) := by
  unfold setActive
  repeat' first
    | with_reducible assumption
    | with_reducible refine Steady.upd ?_ rfl rfl rfl rfl

theorem claimSource_steady (x0) (x1) (h : Steady s₀ s) : Steady s₀ (claimSource x0 x1 s) := by
  unfold claimSource
  repeat' first
    | with_reducible assumption
    | with_reducible apply answer_steady
    | with_reducible apply setLatch_steady
    | with_reducible apply wr_steady
    | with_reducible apply setActive_steady

theorem completeSource_steady (x0) (x1) (x2) (x3) (h : Steady s₀ s) : Steady s₀ (completeSource x0 x1 x2 x3 s) := by
  unfold completeSource
  repeat' first
    | with_reducible assumption
    | with_reducible apply setActive_steady
    | with_reducible apply logIgnored_steady
    | with_reducible apply Steady.ite
    | split

theorem completeWrite_steady (x0) (x1) (h : Steady s₀ s) : Steady s₀ (completeWrite x0 x1 s) := by
  unfold completeWrite
  repeat' first
    | with_reducible assumption
    | with_reducible apply viaBar_steady
    | with_reducible apply completeSource_steady
    | with_reducible apply logIgnored_steady
    | refine fun x (hx : Steady s₀ x) a => ?_
    | refine fun x (hx : Steady s₀ x) => ?_
    | with_reducible apply Steady.ite
    | split

theorem latchWord_steady (x0) (x1) (x2) (x3) (h : Steady s₀ s) : Steady s₀ (latchWord x0 x1 x2 x3 s) := by
  unfold latchWord
  repeat' first
    | with_reducible assumption
    | with_reducible apply setLatch_steady
    | refine fun x (hx : Steady s₀ x) a => ?_
    | refine fun x (hx : Steady s₀ x) => ?_
    | with_reducible apply Steady.ite
    | with_reducible apply Steady.foldl
    | split

theorem pendSetWrite_steady (x0) (x1) (h : Steady s₀ s) : Steady s₀ (pendSetWrite x0 x1 s) := by
  unfold pendSetWrite
  repeat' first
    | with_reducible assumption
    | with_reducible apply guarded_steady
    | with_reducible apply wakeCores_steady
    | with_reducible apply latchWord_steady
    | refine fun x (hx : Steady s₀ x) a => ?_
    | refine fun x (hx : Steady s₀ x) => ?_

theorem clearPendWrite_steady (x0) (x1) (h : Steady s₀ s) : Steady s₀ (clearPendWrite x0 x1 s) := by
  unfold clearPendWrite
  repeat' first
    | with_reducible assumption
    | with_reducible apply guarded_steady
    | with_reducible apply latchWord_steady
    | with_reducible apply logIgnored_steady
    | refine fun x (hx : Steady s₀ x) a => ?_
    | refine fun x (hx : Steady s₀ x) => ?_
    | with_reducible apply Steady.ite
    | ((try lift_lets); intro x; refine (?_ : Steady s₀ x → _) ?_; focus (intro hx; clear_value x))
    | ((try lift_lets); intro x; try clear_value x)
    | split

theorem writeSense_steady (x0) (x1) (h : Steady s₀ s) : Steady s₀ (writeSense x0 x1 s) := by
  unfold writeSense
  repeat' first
    | with_reducible assumption
    | with_reducible apply logIgnored_steady
    | with_reducible apply wr_steady
    | with_reducible apply setLatch_steady
    | with_reducible apply Steady.ite
    | ((try lift_lets); intro x; refine (?_ : Steady s₀ x → _) ?_; focus (intro hx; clear_value x))
    | ((try lift_lets); intro x; try clear_value x)
    | split

theorem writeBasics_steady (x0) (x1) (h : Steady s₀ s) : Steady s₀ (writeBasics x0 x1 s) := by
  unfold writeBasics
  repeat' first
    | with_reducible assumption
    | with_reducible apply wtake_steady
    | with_reducible apply writeSense_steady

theorem hostSrcCfg_steady (x0) (x1) (h : Steady s₀ s) : Steady s₀ (hostSrcCfg x0 x1 s) := by
  unfold hostSrcCfg
  repeat' first
    | with_reducible assumption
    | with_reducible apply wtake_steady
    | with_reducible apply writeBasics_steady
    | with_reducible apply logIgnored_steady
    | with_reducible apply Steady.ite
    | ((try lift_lets); intro x; refine (?_ : Steady s₀ x → _) ?_; focus (intro hx; clear_value x))
    | ((try lift_lets); intro x; try clear_value x)
    | split

theorem coreSrcCfg_steady (x0) (x1) (h : Steady s₀ s) : Steady s₀ (coreSrcCfg x0 x1 s) := by
  unfold coreSrcCfg
  repeat' first
    | with_reducible assumption
    | with_reducible apply writeBasics_steady
    | with_reducible apply wtake_steady
    | with_reducible apply Steady.ite
    | ((try lift_lets); intro x; refine (?_ : Steady s₀ x → _) ?_; focus (intro hx; clear_value x))
    | ((try lift_lets); intro x; try clear_value x)
    | split

theorem srcCfgWrite_steady (x0) (x1) (h : Steady s₀ s) : Steady s₀ (srcCfgWrite x0 x1 s) := by
  unfold srcCfgWrite
  repeat' first
    | with_reducible assumption
    | with_reducible apply guarded_steady
    | with_reducible apply wakeCores_steady
    | with_reducible apply hostSrcCfg_steady
    | with_reducible apply coreSrcCfg_steady
    | refine fun x (hx : Steady s₀ x) a => ?_
    | refine fun x (hx : Steady s₀ x) => ?_
    | with_reducible apply Steady.ite
    | split

theorem tgtCfgWrite_steady (x0) (x1) (h : Steady s₀ s) : Steady s₀ (tgtCfgWrite x0 x1 s) := by
  unfold tgtCfgWrite
  repeat' first
    | with_reducible assumption
    | with_reducible apply guarded_steady
    | with_reducible apply wtake_steady
    | with_reducible apply logIgnored_steady
    | refine fun x (hx : Steady s₀ x) a => ?_
    | refine fun x (hx : Steady s₀ x) => ?_
    | with_reducible apply Steady.ite
    | split

end Sys2Proof.Machine
end

