-- ==== Sys2Proof/Laws/SteadyServing.lean ====
section
/-! SUPPORT. The operations of Serving.lean are steady (Steady.lean). -/

namespace Sys2Proof.Machine

variable {s₀ s : State}

theorem setGen_steady (x0) (x1) (h : Steady s₀ s) : Steady s₀ (setGen x0 x1 s) := by
  unfold setGen
  repeat' first
    | with_reducible assumption
    | with_reducible refine Steady.upd ?_ rfl rfl rfl rfl

theorem putState_steady (x0) (x1) (x2) (h : Steady s₀ s) : Steady s₀ (putState x0 x1 x2 s) := by
  unfold putState
  repeat' first
    | with_reducible assumption
    | with_reducible apply putHdm_steady

theorem setReq_steady (x0) (x1) (h : Steady s₀ s) : Steady s₀ (setReq x0 x1 s) := by
  unfold setReq
  repeat' first
    | with_reducible assumption
    | refine fun x (hx : Steady s₀ x) a => ?_
    | refine fun x (hx : Steady s₀ x) => ?_
    | with_reducible apply Steady.ite
    | split
    | with_reducible refine Steady.upd ?_ rfl rfl rfl rfl

theorem dropReq_steady (x0) (h : Steady s₀ s) : Steady s₀ (dropReq x0 s) := by
  unfold dropReq
  repeat' first
    | with_reducible assumption
    | refine fun x (hx : Steady s₀ x) a => ?_
    | refine fun x (hx : Steady s₀ x) => ?_
    | with_reducible refine Steady.upd ?_ rfl rfl rfl rfl

theorem setSeq_steady (x0) (x1) (x2) (h : Steady s₀ s) : Steady s₀ (setSeq x0 x1 x2 s) := by
  unfold setSeq
  repeat' first
    | with_reducible assumption
    | refine fun x (hx : Steady s₀ x) a => ?_
    | refine fun x (hx : Steady s₀ x) => ?_
    | with_reducible apply Steady.ite
    | split
    | with_reducible refine Steady.upd ?_ rfl rfl rfl rfl
    | (simp only [id_eq]; with_reducible assumption)

theorem endSeq_steady (x0) (x1) (h : Steady s₀ s) : Steady s₀ (endSeq x0 x1 s) := by
  unfold endSeq
  repeat' first
    | with_reducible assumption
    | with_reducible apply wr_steady
    | refine fun x (hx : Steady s₀ x) a => ?_
    | refine fun x (hx : Steady s₀ x) => ?_
    | ((try lift_lets); intro x; refine (?_ : Steady s₀ x → _) ?_; focus (intro hx; clear_value x))
    | ((try lift_lets); intro x; try clear_value x)
    | split
    | with_reducible refine Steady.upd ?_ rfl rfl rfl rfl
    | (simp only [id_eq]; with_reducible assumption)

theorem updateKvStat_steady (h : Steady s₀ s) : Steady s₀ (updateKvStat s) := by
  unfold updateKvStat
  repeat' first
    | with_reducible assumption
    | with_reducible apply wr_steady
    | with_reducible apply Steady.ite
    | ((try lift_lets); intro x; refine (?_ : Steady s₀ x → _) ?_; focus (intro hx; clear_value x))
    | ((try lift_lets); intro x; try clear_value x)
    | split

theorem putResults_steady (x0) (h : Steady s₀ s) : Steady s₀ (putResults x0 s) := by
  unfold putResults
  repeat' first
    | with_reducible assumption
    | with_reducible apply putHdm_steady
    | ((try lift_lets); intro x; refine (?_ : Steady s₀ x → _) ?_; focus (intro hx; clear_value x))
    | ((try lift_lets); intro x; try clear_value x)

theorem writeEntry_steady (x0) (x1) (h : Steady s₀ s) : Steady s₀ (writeEntry x0 x1 s) := by
  unfold writeEntry
  repeat' first
    | with_reducible assumption
    | with_reducible refine Steady.upd ?_ rfl rfl rfl rfl
    | (with_reducible refine Steady.updMem ?_ rfl rfl rfl rfl ?_ ?_ ?_ ?_ ?_ ?_ <;> try first | exact id | (refine fun hw => ?_; first | exact putBytes_wf _ _ hw | exact putSome_wf _ _ hw | exact putView_wf _ _ _ hw | exact foldl_putByte_wf _ _ (SparseWf.nil _) | exact SparseWf.sset hw _ _ | exact SparseWf.filter hw _ | exact SparseWf.nil _))

theorem putEntry_steady (x0) (x1) (h : Steady s₀ s) : Steady s₀ (putEntry x0 x1 s) := by
  unfold putEntry
  repeat' first
    | with_reducible assumption
    | with_reducible apply setReq_steady
    | with_reducible apply writeEntry_steady
    | refine fun x (hx : Steady s₀ x) a => ?_
    | refine fun x (hx : Steady s₀ x) => ?_
    | with_reducible apply Steady.ite
    | split
    | with_reducible refine Steady.upd ?_ rfl rfl rfl rfl

theorem flushHeld_steady (n key) (h : Steady s₀ s) : Steady s₀ (flushHeld n key s) := by
  induction n generalizing s with
  | zero => exact h
  | succ n ih =>
    unfold flushHeld
    repeat' first
      | with_reducible assumption
      | with_reducible apply ih
      | with_reducible apply setReq_steady
      | with_reducible apply writeEntry_steady
      | split

theorem startCopy_steady (x0) (x1) (x2) (h : Steady s₀ s) : Steady s₀ (startCopy x0 x1 x2 s) := by
  unfold startCopy
  repeat' first
    | with_reducible assumption
    | with_reducible apply wr_steady
    | with_reducible apply setSeq_steady
    | refine fun x (hx : Steady s₀ x) a => ?_
    | refine fun x (hx : Steady s₀ x) => ?_
    | with_reducible refine Steady.upd ?_ rfl rfl rfl rfl
    | (simp only [id_eq]; with_reducible assumption)

theorem afterEnd_steady (x0) (h : Steady s₀ s) : Steady s₀ (afterEnd x0 s) := by
  unfold afterEnd
  repeat' first
    | with_reducible assumption
    | with_reducible apply endSeq_steady
    | with_reducible apply startCopy_steady
    | with_reducible apply wr_steady
    | with_reducible apply Steady.ite
    | split
    | with_reducible refine Steady.upd ?_ rfl rfl rfl rfl

theorem noteDue_steady (x0) (h : Steady s₀ s) : Steady s₀ (noteDue x0 s) := by
  unfold noteDue
  repeat' first
    | with_reducible assumption
    | refine fun x (hx : Steady s₀ x) a => ?_
    | refine fun x (hx : Steady s₀ x) => ?_
    | with_reducible apply Steady.ite
    | ((try lift_lets); intro x; refine (?_ : Steady s₀ x → _) ?_; focus (intro hx; clear_value x))
    | ((try lift_lets); intro x; try clear_value x)
    | split
    | with_reducible refine Steady.upd ?_ rfl rfl rfl rfl

theorem trimSeq_steady (x0) (h : Steady s₀ s) : Steady s₀ (trimSeq x0 s) := by
  unfold trimSeq
  repeat' first
    | with_reducible assumption
    | with_reducible apply setSeq_steady
    | refine fun x (hx : Steady s₀ x) a => ?_
    | refine fun x (hx : Steady s₀ x) => ?_
    | with_reducible refine Steady.upd ?_ rfl rfl rfl rfl

theorem finish_steady (x0) (x1) (h : Steady s₀ s) : Steady s₀ (finish x0 x1 s) := by
  unfold finish
  repeat' first
    | with_reducible assumption
    | with_reducible apply putState_steady
    | with_reducible apply putResults_steady
    | with_reducible apply trimSeq_steady
    | with_reducible apply dropReq_steady
    | with_reducible apply wr_steady
    | with_reducible apply noteDue_steady
    | with_reducible apply afterEnd_steady
    | with_reducible apply Steady.ite
    | ((try lift_lets); intro x; refine (?_ : Steady s₀ x → _) ?_; focus (intro hx; clear_value x))
    | ((try lift_lets); intro x; try clear_value x)
    | split
    | with_reducible refine Steady.upd ?_ rfl rfl rfl rfl

theorem endRequest_steady (x0) (x1) (h : Steady s₀ s) : Steady s₀ (endRequest x0 x1 s) := by
  unfold endRequest
  repeat' first
    | with_reducible assumption
    | with_reducible apply finish_steady
    | with_reducible apply setReq_steady
    | refine fun x (hx : Steady s₀ x) a => ?_
    | refine fun x (hx : Steady s₀ x) => ?_
    | with_reducible apply Steady.ite
    | split
    | with_reducible refine Steady.upd ?_ rfl rfl rfl rfl

theorem failSlot_steady (x0) (x1) (h : Steady s₀ s) : Steady s₀ (failSlot x0 x1 s) := by
  unfold failSlot
  repeat' first
    | with_reducible assumption
    | with_reducible apply putState_steady
    | with_reducible apply wr_steady
    | with_reducible apply Steady.ite
    | ((try lift_lets); intro x; refine (?_ : Steady s₀ x → _) ?_; focus (intro hx; clear_value x))
    | ((try lift_lets); intro x; try clear_value x)
    | split

theorem zeroResults_steady (x0) (h : Steady s₀ s) : Steady s₀ (zeroResults x0 s) := by
  unfold zeroResults
  repeat' first
    | with_reducible assumption
    | with_reducible refine Steady.upd ?_ rfl rfl rfl rfl
    | (with_reducible refine Steady.updMem ?_ rfl rfl rfl rfl ?_ ?_ ?_ ?_ ?_ ?_ <;> try first | exact id | (refine fun hw => ?_; first | exact putBytes_wf _ _ hw | exact putSome_wf _ _ hw | exact putView_wf _ _ _ hw | exact foldl_putByte_wf _ _ (SparseWf.nil _) | exact SparseWf.sset hw _ _ | exact SparseWf.filter hw _ | exact SparseWf.nil _))

theorem expireSeq_steady (x0) (h : Steady s₀ s) : Steady s₀ (expireSeq x0 s) := by
  unfold expireSeq
  repeat' first
    | with_reducible assumption
    | with_reducible apply endSeq_steady
    | with_reducible apply log_steady
    | with_reducible apply wr_steady
    | ((try lift_lets); intro x; refine (?_ : Steady s₀ x → _) ?_; focus (intro hx; clear_value x))
    | ((try lift_lets); intro x; try clear_value x)
    | with_reducible refine Steady.upd ?_ rfl rfl rfl rfl
    | (simp only [id_eq]; with_reducible assumption)

theorem expireDue_steady (h : Steady s₀ s) : Steady s₀ (expireDue s) := by
  unfold expireDue
  repeat' first
    | with_reducible assumption
    | with_reducible apply expireSeq_steady
    | refine fun x (hx : Steady s₀ x) a => ?_
    | refine fun x (hx : Steady s₀ x) => ?_
    | with_reducible apply Steady.foldl
    | (simp only [id_eq]; with_reducible assumption)

theorem resumeAtTake_steady (x0) (h : Steady s₀ s) : Steady s₀ (resumeAtTake x0 s) := by
  unfold resumeAtTake
  repeat' first
    | with_reducible assumption
    | with_reducible apply putHdm_steady
    | with_reducible apply setReq_steady
    | with_reducible apply setSeq_steady
    | refine fun x (hx : Steady s₀ x) a => ?_
    | refine fun x (hx : Steady s₀ x) => ?_
    | with_reducible apply Steady.ite
    | ((try lift_lets); intro x; refine (?_ : Steady s₀ x → _) ?_; focus (intro hx; clear_value x))
    | ((try lift_lets); intro x; try clear_value x)
    | split
    | with_reducible refine Steady.upd ?_ rfl rfl rfl rfl

theorem takeSlot_steady (x0) (x1) (h : Steady s₀ s) : Steady s₀ (takeSlot x0 x1 s) := by
  unfold takeSlot
  repeat' first
    | with_reducible assumption
    | with_reducible apply putState_steady
    | with_reducible apply zeroResults_steady
    | with_reducible apply finish_steady
    | with_reducible apply resumeAtTake_steady
    | refine fun x (hx : Steady s₀ x) a => ?_
    | refine fun x (hx : Steady s₀ x) => ?_
    | with_reducible apply Steady.ite
    | ((try lift_lets); intro x; refine (?_ : Steady s₀ x → _) ?_; focus (intro hx; clear_value x))
    | ((try lift_lets); intro x; try clear_value x)
    | split
    | with_reducible refine Steady.upd ?_ rfl rfl rfl rfl

theorem unwait_steady (x0) (h : Steady s₀ s) : Steady s₀ (unwait x0 s) := by
  unfold unwait
  repeat' first
    | with_reducible assumption
    | with_reducible apply setSeq_steady
    | refine fun x (hx : Steady s₀ x) a => ?_
    | refine fun x (hx : Steady s₀ x) => ?_
    | split
    | with_reducible refine Steady.upd ?_ rfl rfl rfl rfl

theorem scanSlot_steady (x0) (h : Steady s₀ s) : Steady s₀ (scanSlot x0 s) := by
  unfold scanSlot
  repeat' first
    | with_reducible assumption
    | with_reducible apply failSlot_steady
    | with_reducible apply takeSlot_steady
    | with_reducible apply wr_steady
    | with_reducible apply finish_steady
    | with_reducible apply unwait_steady
    | with_reducible apply setReq_steady
    | refine fun x (hx : Steady s₀ x) a => ?_
    | refine fun x (hx : Steady s₀ x) => ?_
    | with_reducible apply Steady.ite
    | ((try lift_lets); intro x; refine (?_ : Steady s₀ x → _) ?_; focus (intro hx; clear_value x))
    | ((try lift_lets); intro x; try clear_value x)
    | split
    | with_reducible refine Steady.upd ?_ rfl rfl rfl rfl

theorem scanTable_steady (x0) (h : Steady s₀ s) : Steady s₀ (scanTable x0 s) := by
  unfold scanTable
  repeat' first
    | with_reducible assumption
    | with_reducible apply wr_steady
    | with_reducible apply scanSlot_steady
    | refine fun x (hx : Steady s₀ x) a => ?_
    | refine fun x (hx : Steady s₀ x) => ?_
    | with_reducible apply Steady.ite
    | with_reducible apply Steady.foldl
    | ((try lift_lets); intro x; refine (?_ : Steady s₀ x → _) ?_; focus (intro hx; clear_value x))
    | ((try lift_lets); intro x; try clear_value x)
    | split

theorem scanAll_steady (h : Steady s₀ s) : Steady s₀ (scanAll s) := by
  unfold scanAll
  repeat' first
    | with_reducible assumption
    | with_reducible apply incWrap_steady
    | with_reducible apply scanTable_steady
    | with_reducible apply expireDue_steady
    | refine fun x (hx : Steady s₀ x) a => ?_
    | refine fun x (hx : Steady s₀ x) => ?_
    | with_reducible apply Steady.ite
    | with_reducible apply Steady.foldl
    | split

end Sys2Proof.Machine
end

