-- ==== Sys2Proof/Laws/SteadyAdmission.lean ====
section
/-! SUPPORT. The operations of Admission.lean are steady (Steady.lean). -/

namespace Sys2Proof.Machine

variable {s₀ s : State}

theorem setWardrobe_steady (x0) (x1) (h : Steady s₀ s) : Steady s₀ (setWardrobe x0 x1 s) := by
  unfold setWardrobe
  repeat' first
    | with_reducible assumption
    | with_reducible refine Steady.upd ?_ rfl rfl rfl rfl

theorem freeVersions_steady (x0) (h : Steady s₀ s) : Steady s₀ (freeVersions x0 s) := by
  unfold freeVersions
  repeat' first
    | with_reducible assumption
    | with_reducible apply setWardrobe_steady
    | refine fun x (hx : Steady s₀ x) a => ?_
    | refine fun x (hx : Steady s₀ x) => ?_
    | ((try lift_lets); intro x; refine (?_ : Steady s₀ x → _) ?_; focus (intro hx; clear_value x))
    | ((try lift_lets); intro x; try clear_value x)
    | with_reducible refine Steady.upd ?_ rfl rfl rfl rfl

theorem enterRunning_steady (x0) (x1) (x2) (x3) (x4) (x5) (h : Steady s₀ s) : Steady s₀ (enterRunning x0 x1 x2 x3 x4 x5 s) := by
  unfold enterRunning
  repeat' first
    | with_reducible assumption
    | with_reducible apply wr_steady
    | with_reducible apply setReq_steady
    | with_reducible apply putHdm_steady
    | with_reducible apply putState_steady
    | refine fun x (hx : Steady s₀ x) a => ?_
    | refine fun x (hx : Steady s₀ x) => ?_
    | with_reducible apply Steady.ite
    | ((try lift_lets); intro x; refine (?_ : Steady s₀ x → _) ?_; focus (intro hx; clear_value x))
    | ((try lift_lets); intro x; try clear_value x)
    | split
    | with_reducible refine Steady.upd ?_ rfl rfl rfl rfl
    | (simp only [id_eq]; with_reducible assumption)

theorem admitWith_steady (r g id) {t : State} (h : Steady s₀ s) (e : admitWith r g id s = some t) : Steady s₀ t := by
  revert e
  unfold admitWith
  repeat' first
    | (refine fun e => ?_; cases e)
    | with_reducible assumption
    | with_reducible apply finish_steady
    | with_reducible apply enterRunning_steady
    | with_reducible apply putHdm_steady
    | (split; rotate_left)
    | ((try lift_lets); intro d; clear_value d)

theorem admitOne_steady (r) {t : State} (h : Steady s₀ s) (e : admitOne r s = some t) : Steady s₀ t := by
  revert e
  unfold admitOne
  repeat' first
    | (refine fun e => admitWith_steady _ _ _ h e)
    | (refine fun e => ?_; cases e)
    | with_reducible assumption
    | with_reducible apply finish_steady
    | split

theorem admitList_steady (l) (h : Steady s₀ s) : Steady s₀ (admitList l s) := by
  induction l generalizing s with
  | nil => exact h
  | cons r l ih =>
    unfold admitList
    split
    · exact ih (admitOne_steady _ h ‹_›)
    · exact h

theorem startFetches_steady (h : Steady s₀ s) : Steady s₀ (startFetches s) := by
  unfold startFetches
  repeat' first
    | with_reducible assumption
    | with_reducible apply setSeq_steady
    | refine fun x (hx : Steady s₀ x) a => ?_
    | refine fun x (hx : Steady s₀ x) => ?_
    | with_reducible apply Steady.ite
    | with_reducible apply Steady.foldl
    | split
    | with_reducible refine Steady.upd ?_ rfl rfl rfl rfl
    | (simp only [id_eq]; with_reducible assumption)

theorem admitAll_steady (h : Steady s₀ s) : Steady s₀ (admitAll s) := by
  unfold admitAll
  repeat' first
    | with_reducible assumption
    | with_reducible apply updateKvStat_steady
    | with_reducible apply admitList_steady
    | with_reducible apply startFetches_steady

end Sys2Proof.Machine
end

