-- ==== Sys2Proof/Laws/SteadyBlocks.lean ====
section
/-! SUPPORT. The operations of Blocks.lean are steady (Steady.lean). -/

namespace Sys2Proof.Machine

variable {s₀ s : State}

theorem setBlock_steady (x0) (x1) (x2) (h : Steady s₀ s) : Steady s₀ (setBlock x0 x1 x2 s) := by
  unfold setBlock
  repeat' first
    | with_reducible assumption
    | with_reducible refine Steady.upd ?_ rfl rfl rfl rfl

theorem mapBlocks_steady (x0) (h : Steady s₀ s) : Steady s₀ (mapBlocks x0 s) := by
  unfold mapBlocks
  repeat' first
    | with_reducible assumption
    | with_reducible apply setBlock_steady
    | refine fun x (hx : Steady s₀ x) a => ?_
    | refine fun x (hx : Steady s₀ x) => ?_
    | with_reducible apply Steady.foldl

theorem setRow_steady (x0) (x1) (h : Steady s₀ s) : Steady s₀ (setRow x0 x1 s) := by
  unfold setRow
  repeat' first
    | with_reducible assumption
    | with_reducible refine Steady.upd ?_ rfl rfl rfl rfl

theorem voidFrom_steady (x0) (h : Steady s₀ s) : Steady s₀ (voidFrom x0 s) := by
  unfold voidFrom
  repeat' first
    | with_reducible assumption
    | refine fun x (hx : Steady s₀ x) a => ?_
    | refine fun x (hx : Steady s₀ x) => ?_
    | with_reducible apply Steady.ite
    | ((try lift_lets); intro x; refine (?_ : Steady s₀ x → _) ?_; focus (intro hx; clear_value x))
    | ((try lift_lets); intro x; try clear_value x)
    | split
    | with_reducible refine Steady.upd ?_ rfl rfl rfl rfl

theorem voidRunning_steady (h : Steady s₀ s) : Steady s₀ (voidRunning s) := by
  unfold voidRunning
  repeat' first
    | with_reducible assumption
    | with_reducible apply voidFrom_steady
    | split
    | with_reducible refine Steady.upd ?_ rfl rfl rfl rfl

theorem voidFlight_steady (h : Steady s₀ s) : Steady s₀ (voidFlight s) := by
  unfold voidFlight
  repeat' first
    | with_reducible assumption
    | with_reducible apply voidFrom_steady
    | split
    | with_reducible refine Steady.upd ?_ rfl rfl rfl rfl

theorem wantBlock_steady (x0) (x1) (x2) (h : Steady s₀ s) : Steady s₀ (wantBlock x0 x1 x2 s) := by
  unfold wantBlock
  repeat' first
    | with_reducible assumption
    | with_reducible apply setBlock_steady
    | refine fun x (hx : Steady s₀ x) a => ?_
    | refine fun x (hx : Steady s₀ x) => ?_
    | with_reducible apply Steady.ite
    | split
    | with_reducible refine Steady.upd ?_ rfl rfl rfl rfl

theorem unwantBlock_steady (x0) (x1) (x2) (h : Steady s₀ s) : Steady s₀ (unwantBlock x0 x1 x2 s) := by
  unfold unwantBlock
  repeat' first
    | with_reducible assumption
    | with_reducible apply setBlock_steady
    | refine fun x (hx : Steady s₀ x) a => ?_
    | refine fun x (hx : Steady s₀ x) => ?_
    | with_reducible refine Steady.upd ?_ rfl rfl rfl rfl

theorem wantRegion_steady (x0) (x1) (h : Steady s₀ s) : Steady s₀ (wantRegion x0 x1 s) := by
  unfold wantRegion
  repeat' first
    | with_reducible assumption
    | with_reducible apply setRegion_steady
    | refine fun x (hx : Steady s₀ x) a => ?_
    | refine fun x (hx : Steady s₀ x) => ?_
    | with_reducible apply Steady.ite
    | split
    | with_reducible refine Steady.upd ?_ rfl rfl rfl rfl

theorem unwantRegion_steady (x0) (x1) (h : Steady s₀ s) : Steady s₀ (unwantRegion x0 x1 s) := by
  unfold unwantRegion
  repeat' first
    | with_reducible assumption
    | with_reducible apply setRegion_steady
    | refine fun x (hx : Steady s₀ x) a => ?_
    | refine fun x (hx : Steady s₀ x) => ?_
    | with_reducible refine Steady.upd ?_ rfl rfl rfl rfl

theorem updateSuspect_steady (h : Steady s₀ s) : Steady s₀ (updateSuspect s) := by
  unfold updateSuspect
  repeat' first
    | with_reducible assumption
    | with_reducible apply wr_steady
    | with_reducible apply Steady.ite
    | ((try lift_lets); intro x; refine (?_ : Steady s₀ x → _) ?_; focus (intro hx; clear_value x))
    | ((try lift_lets); intro x; try clear_value x)
    | split
    | with_reducible refine Steady.upd ?_ rfl rfl rfl rfl

theorem noteSuspect_steady (x0) (x1) (h : Steady s₀ s) : Steady s₀ (noteSuspect x0 x1 s) := by
  unfold noteSuspect
  repeat' first
    | with_reducible assumption
    | with_reducible apply updateSuspect_steady
    | with_reducible apply incHold_steady
    | with_reducible apply wr_steady

theorem suspectBlock_steady (x0) (x1) (x2) (h : Steady s₀ s) : Steady s₀ (suspectBlock x0 x1 x2 s) := by
  unfold suspectBlock
  repeat' first
    | with_reducible assumption
    | with_reducible apply setBlock_steady
    | with_reducible apply noteSuspect_steady
    | with_reducible apply setRegion_steady
    | with_reducible apply wantRegion_steady
    | refine fun x (hx : Steady s₀ x) a => ?_
    | refine fun x (hx : Steady s₀ x) => ?_
    | with_reducible apply Steady.ite
    | ((try lift_lets); intro x; refine (?_ : Steady s₀ x → _) ?_; focus (intro hx; clear_value x))
    | ((try lift_lets); intro x; try clear_value x)
    | split
    | with_reducible refine Steady.upd ?_ rfl rfl rfl rfl

theorem suspectEngine_steady (x0) (h : Steady s₀ s) : Steady s₀ (suspectEngine x0 s) := by
  unfold suspectEngine
  repeat' first
    | with_reducible assumption
    | with_reducible apply noteSuspect_steady
    | with_reducible apply setRegion_steady
    | refine fun x (hx : Steady s₀ x) a => ?_
    | refine fun x (hx : Steady s₀ x) => ?_
    | with_reducible apply Steady.ite
    | split
    | with_reducible refine Steady.upd ?_ rfl rfl rfl rfl

end Sys2Proof.Machine
end

