-- ==== Sys2Proof/Laws/SteadyTiles.lean ====
section
/-! SUPPORT. The operations of Tiles.lean are steady (Steady.lean). -/

namespace Sys2Proof.Machine

variable {s₀ s : State}

theorem setTile_steady (x0) (x1) (x2) (h : Steady s₀ s) : Steady s₀ (setTile x0 x1 x2 s) := by
  unfold setTile
  repeat' first
    | with_reducible assumption
    | with_reducible apply setRegion_steady
    | refine fun x (hx : Steady s₀ x) a => ?_
    | refine fun x (hx : Steady s₀ x) => ?_
    | with_reducible refine Steady.upd ?_ rfl rfl rfl rfl

theorem waitOp_steady (x0) (x1) (x2) (h : Steady s₀ s) : Steady s₀ (waitOp x0 x1 x2 s) := by
  unfold waitOp
  repeat' first
    | with_reducible assumption
    | with_reducible apply setTile_steady
    | refine fun x (hx : Steady s₀ x) a => ?_
    | refine fun x (hx : Steady s₀ x) => ?_
    | with_reducible refine Steady.upd ?_ rfl rfl rfl rfl

theorem tileFault_steady (x0) (x1) (x2) (x3) (h : Steady s₀ s) : Steady s₀ (tileFault x0 x1 x2 x3 s) := by
  unfold tileFault
  repeat' first
    | with_reducible assumption
    | with_reducible apply log_steady
    | refine fun x (hx : Steady s₀ x) a => ?_
    | refine fun x (hx : Steady s₀ x) => ?_
    | with_reducible apply Steady.ite
    | ((try lift_lets); intro x; refine (?_ : Steady s₀ x → _) ?_; focus (intro hx; clear_value x))
    | ((try lift_lets); intro x; try clear_value x)
    | split
    | with_reducible refine Steady.upd ?_ rfl rfl rfl rfl

theorem scoreboard_steady (x0) (x1) (x2) (x3) (x4) (k : State → State) (hk : ∀ x, Steady s₀ x → Steady s₀ (k x)) (h : Steady s₀ s) : Steady s₀ (scoreboard x0 x1 x2 x3 x4 k s) := by
  unfold scoreboard
  repeat' first
    | with_reducible assumption
    | with_reducible apply waitOp_steady
    | with_reducible apply tileFault_steady
    | with_reducible apply hk
    | split
    | with_reducible refine Steady.upd ?_ rfl rfl rfl rfl

theorem setSat_steady (x0) (x1) (h : Steady s₀ s) : Steady s₀ (setSat x0 x1 s) := by
  unfold setSat
  repeat' first
    | with_reducible assumption
    | with_reducible apply setTile_steady
    | with_reducible apply setReg_steady
    | with_reducible apply log_steady
    | refine fun x (hx : Steady s₀ x) a => ?_
    | refine fun x (hx : Steady s₀ x) => ?_
    | ((try lift_lets); intro x; refine (?_ : Steady s₀ x → _) ?_; focus (intro hx; clear_value x))
    | ((try lift_lets); intro x; try clear_value x)
    | with_reducible refine Steady.upd ?_ rfl rfl rfl rfl

theorem satIf_steady (x0) (x1) (x2) (h : Steady s₀ s) : Steady s₀ (satIf x0 x1 x2 s) := by
  unfold satIf
  repeat' first
    | with_reducible assumption
    | with_reducible apply setSat_steady
    | with_reducible apply Steady.ite
    | split

theorem formatEvent_steady (x0) (x1) (x2) (x3) (x4) (h : Steady s₀ s) : Steady s₀ (formatEvent x0 x1 x2 x3 x4 s) := by
  unfold formatEvent
  repeat' first
    | with_reducible assumption
    | with_reducible apply log_steady

theorem logNanAddend_steady (x0) (x1) (x2) (h : Steady s₀ s) : Steady s₀ (logNanAddend x0 x1 x2 s) := by
  unfold logNanAddend
  repeat' first
    | with_reducible assumption
    | with_reducible apply formatEvent_steady
    | ((try lift_lets); intro x; refine (?_ : Steady s₀ x → _) ?_; focus (intro hx; clear_value x))
    | ((try lift_lets); intro x; try clear_value x)

theorem convertInto_steady (x0) (x1) (x2) (x3) (h : Steady s₀ s) : Steady s₀ (convertInto x0 x1 x2 x3 s).2 := by
  unfold convertInto
  repeat' first
    | with_reducible assumption
    | with_reducible apply satIf_steady
    | with_reducible apply logNanAddend_steady
    | with_reducible apply Steady.ite
    | ((try lift_lets); intro x; refine (?_ : Steady s₀ x → _) ?_; focus (intro hx; clear_value x))
    | ((try lift_lets); intro x; try clear_value x)
    | split

theorem clearTile_steady (x0) (x1) (x2) (x3) (x4) (x5) (x6) (x7) (h : Steady s₀ s) : Steady s₀ (clearTile x0 x1 x2 x3 x4 x5 x6 x7 s) := by
  unfold clearTile
  repeat' first
    | with_reducible assumption
    | with_reducible apply setTile_steady
    | refine fun x (hx : Steady s₀ x) a => ?_
    | refine fun x (hx : Steady s₀ x) => ?_
    | with_reducible refine Steady.upd ?_ rfl rfl rfl rfl

theorem restoreTile_steady (x0) (x1) (x2) (x3) (h : Steady s₀ s) : Steady s₀ (restoreTile x0 x1 x2 x3 s) := by
  unfold restoreTile
  repeat' first
    | with_reducible assumption
    | with_reducible apply satIf_steady
    | with_reducible apply setTile_steady
    | refine fun x (hx : Steady s₀ x) a => ?_
    | refine fun x (hx : Steady s₀ x) => ?_
    | ((try lift_lets); intro x; refine (?_ : Steady s₀ x → _) ?_; focus (intro hx; clear_value x))
    | ((try lift_lets); intro x; try clear_value x)
    | with_reducible refine Steady.upd ?_ rfl rfl rfl rfl

theorem saveTile_steady (x0) (x1) (x2) (h : Steady s₀ s) : Steady s₀ (saveTile x0 x1 x2 s) := by
  unfold saveTile
  repeat' first
    | with_reducible assumption
    | ((try lift_lets); intro x; refine (?_ : Steady s₀ x → _) ?_; focus (intro hx; clear_value x))
    | ((try lift_lets); intro x; try clear_value x)
    | split
    | with_reducible refine Steady.upd ?_ rfl rfl rfl rfl

theorem releaseTile_steady (x0) (x1) (h : Steady s₀ s) : Steady s₀ (releaseTile x0 x1 s) := by
  unfold releaseTile
  repeat' first
    | with_reducible assumption
    | with_reducible apply setTile_steady
    | refine fun x (hx : Steady s₀ x) a => ?_
    | refine fun x (hx : Steady s₀ x) => ?_
    | with_reducible refine Steady.upd ?_ rfl rfl rfl rfl

theorem noteGroup_steady (x0) (x1) (x2) (x3) (x4) (h : Steady s₀ s) : Steady s₀ (noteGroup x0 x1 x2 x3 x4 s) := by
  unfold noteGroup
  repeat' first
    | with_reducible assumption
    | with_reducible apply formatEvent_steady
    | refine fun x (hx : Steady s₀ x) a => ?_
    | refine fun x (hx : Steady s₀ x) => ?_
    | with_reducible apply Steady.ite
    | ((try lift_lets); intro x; refine (?_ : Steady s₀ x → _) ?_; focus (intro hx; clear_value x))
    | ((try lift_lets); intro x; try clear_value x)
    | split
    | with_reducible refine Steady.upd ?_ rfl rfl rfl rfl

theorem noteGroups_steady (x0) (x1) (x2) (x3) (x4) (x5) (x6) (h : Steady s₀ s) : Steady s₀ (noteGroups x0 x1 x2 x3 x4 x5 x6 s) := by
  unfold noteGroups
  repeat' first
    | with_reducible assumption
    | with_reducible apply noteGroup_steady
    | refine fun x (hx : Steady s₀ x) a => ?_
    | refine fun x (hx : Steady s₀ x) => ?_
    | with_reducible apply Steady.foldl

theorem readTile_steady (x0) (x1) (x2) (x3) (x4) (x5) (x6) (h : Steady s₀ s) : Steady s₀ (readTile x0 x1 x2 x3 x4 x5 x6 s) := by
  unfold readTile
  repeat' first
    | with_reducible assumption
    | with_reducible apply noteGroups_steady
    | with_reducible apply answer_steady
    | with_reducible apply tileFault_steady
    | with_reducible apply Steady.ite
    | ((try lift_lets); intro x; refine (?_ : Steady s₀ x → _) ?_; focus (intro hx; clear_value x))
    | ((try lift_lets); intro x; try clear_value x)
    | split
    | with_reducible refine Steady.upd ?_ rfl rfl rfl rfl

theorem writeElem_steady (x0) (x1) (x2) (h : Steady s₀ s) : Steady s₀ (writeElem x0 x1 x2 s) := by
  unfold writeElem
  repeat' first
    | with_reducible assumption
    | with_reducible apply setTile_steady
    | with_reducible apply satIf_steady
    | refine fun x (hx : Steady s₀ x) a => ?_
    | refine fun x (hx : Steady s₀ x) => ?_
    | with_reducible apply Steady.ite
    | ((try lift_lets); intro x; refine (?_ : Steady s₀ x → _) ?_; focus (intro hx; clear_value x))
    | ((try lift_lets); intro x; try clear_value x)
    | split

theorem writeElems_steady (x0) (x1) (x2) (h : Steady s₀ s) : Steady s₀ (writeElems x0 x1 x2 s) := by
  unfold writeElems
  repeat' first
    | with_reducible assumption
    | with_reducible apply writeElem_steady
    | refine fun x (hx : Steady s₀ x) a => ?_
    | refine fun x (hx : Steady s₀ x) => ?_
    | with_reducible apply Steady.foldl

theorem placeAdd_steady (x0) (x1) (x2) (x3) (x4) (h : Steady s₀ s) : Steady s₀ (placeAdd x0 x1 x2 x3 x4 s) := by
  unfold placeAdd
  repeat' first
    | with_reducible assumption
    | with_reducible apply setTile_steady
    | refine fun x (hx : Steady s₀ x) a => ?_
    | refine fun x (hx : Steady s₀ x) => ?_
    | with_reducible refine Steady.upd ?_ rfl rfl rfl rfl

theorem tileToTile_steady (x0) (x1) (x2) (x3) (x4) (x5) (h : Steady s₀ s) : Steady s₀ (tileToTile x0 x1 x2 x3 x4 x5 s) := by
  unfold tileToTile
  repeat' first
    | with_reducible assumption
    | with_reducible apply tileFault_steady
    | with_reducible apply waitOp_steady
    | with_reducible apply placeAdd_steady
    | with_reducible apply Steady.ite
    | ((try lift_lets); intro x; refine (?_ : Steady s₀ x → _) ?_; focus (intro hx; clear_value x))
    | ((try lift_lets); intro x; try clear_value x)
    | split
    | with_reducible refine Steady.upd ?_ rfl rfl rfl rfl

theorem readSource_steady (r t c sr st i) (h : Steady s₀ s) : Steady s₀ (readSource r t c sr st i s) := by
  unfold readSource
  dsimp only
  split
  · exact tileFault_steady _ _ _ _ (setTile_steady _ _ _ h)
  · exact waitOp_steady _ _ _ h
  · split
    · exact setTile_steady _ _ _ h
    · exact tileFault_steady _ _ _ _ (setTile_steady _ _ _ h)

theorem tileAddOp_steady (r t c sr st) (h : Steady s₀ s) : Steady s₀ (tileAddOp r t c sr st s) :=
  scoreboard_steady _ _ _ _ _ _ (fun _ hx => tileToTile_steady _ _ _ _ _ _ hx) h

theorem reduceOp_steady (r t c sr st) (h : Steady s₀ s) : Steady s₀ (reduceOp r t c sr st s) :=
  scoreboard_steady _ _ _ _ _ _ (fun _ hx => tileToTile_steady _ _ _ _ _ _ hx) h

theorem costumeTerm_steady (r t e v) {a : List (Nat × Int) × State} (h : Steady s₀ a.2) :
    Steady s₀ (costumeTerm r t e v a).2 := convertInto_steady _ _ _ _ h

/-- A fold over pairs whose second part is the state. -/
theorem Steady.foldlSnd {α β : Type} {f : β × State → α → β × State} {l : List α} {a : β × State} (h : Steady s₀ a.2)
    (hf : ∀ x : β × State, Steady s₀ x.2 → ∀ b, Steady s₀ (f x b).2) : Steady s₀ (l.foldl f a).2 := by
  induction l generalizing a with
  | nil => exact h
  | cons b l ih => exact ih (hf a h b)

theorem costumeAdd_steady (r t ctx v ten col r0 c0 n x) (h : Steady s₀ s) :
    Steady s₀ (costumeAdd r t ctx v ten col r0 c0 n x s) := by
  unfold costumeAdd
  split
  · exact h
  · split
    · exact h
    · refine setTile_steady _ _ _ (Steady.foldlSnd h fun a ha b => ?_)
      split
      · exact costumeTerm_steady _ _ _ _ ha
      · exact ha

theorem costumeOp_steady (x0) (x1) (x2) (x3) (x4) (x5) (x6) (x7) (x8) (x9) (h : Steady s₀ s) : Steady s₀ (costumeOp x0 x1 x2 x3 x4 x5 x6 x7 x8 x9 s) := by
  unfold costumeOp
  repeat' first
    | with_reducible assumption
    | with_reducible apply scoreboard_steady
    | with_reducible apply costumeAdd_steady
    | refine fun x (hx : Steady s₀ x) a => ?_
    | refine fun x (hx : Steady s₀ x) => ?_

end Sys2Proof.Machine
end

