-- ==== Sys2Proof/Laws/SteadyMvm.lean ====
section
/-! SUPPORT. The operations of Mvm.lean are steady (Steady.lean). -/

namespace Sys2Proof.Machine

variable {s₀ s : State}

theorem setRunning_steady (x0) (h : Steady s₀ s) : Steady s₀ (setRunning x0 s) := by
  unfold setRunning
  repeat' first
    | with_reducible assumption
    | with_reducible refine Steady.upd ?_ rfl rfl rfl rfl

theorem setStep_steady (x0) (x1) (h : Steady s₀ s) : Steady s₀ (setStep x0 x1 s) := by
  unfold setStep
  repeat' first
    | with_reducible assumption
    | refine fun x (hx : Steady s₀ x) a => ?_
    | refine fun x (hx : Steady s₀ x) => ?_
    | with_reducible apply Steady.ite
    | ((try lift_lets); intro x; refine (?_ : Steady s₀ x → _) ?_; focus (intro hx; clear_value x))
    | ((try lift_lets); intro x; try clear_value x)
    | split
    | with_reducible refine Steady.upd ?_ rfl rfl rfl rfl

theorem contribute_steady (x0) (x1) (h : Steady s₀ s) : Steady s₀ (contribute x0 x1 s) := by
  unfold contribute
  repeat' first
    | with_reducible assumption
    | with_reducible apply convertInto_steady
    | with_reducible apply setTile_steady
    | refine fun x (hx : Steady s₀ x) a => ?_
    | refine fun x (hx : Steady s₀ x) => ?_
    | with_reducible apply Steady.ite
    | ((try lift_lets); intro x; refine (?_ : Steady s₀ x → _) ?_; focus (intro hx; clear_value x))
    | ((try lift_lets); intro x; try clear_value x)
    | split
    | with_reducible refine Steady.upd ?_ rfl rfl rfl rfl

theorem deliver_steady (x0) (x1) (x2) (h : Steady s₀ s) : Steady s₀ (deliver x0 x1 x2 s) := by
  unfold deliver
  repeat' first
    | with_reducible assumption
    | with_reducible apply contribute_steady
    | with_reducible apply setTile_steady
    | refine fun x (hx : Steady s₀ x) a => ?_
    | refine fun x (hx : Steady s₀ x) => ?_
    | with_reducible apply Steady.ite
    | with_reducible apply Steady.foldl
    | ((try lift_lets); intro x; refine (?_ : Steady s₀ x → _) ?_; focus (intro hx; clear_value x))
    | ((try lift_lets); intro x; try clear_value x)
    | split
    | with_reducible refine Steady.upd ?_ rfl rfl rfl rfl

theorem readyShadow_steady (x0) (x1) (h : Steady s₀ s) : Steady s₀ (readyShadow x0 x1 s) := by
  unfold readyShadow
  repeat' first
    | with_reducible assumption
    | with_reducible apply setRegion_steady
    | refine fun x (hx : Steady s₀ x) a => ?_
    | refine fun x (hx : Steady s₀ x) => ?_
    | with_reducible refine Steady.upd ?_ rfl rfl rfl rfl

theorem issueExact_steady (x0) (x1) (x2) (x3) (h : Steady s₀ s) : Steady s₀ (issueExact x0 x1 x2 x3 s) := by
  unfold issueExact
  repeat' first
    | with_reducible assumption
    | with_reducible apply setRunning_steady
    | with_reducible apply readyShadow_steady
    | with_reducible apply deliver_steady
    | refine fun x (hx : Steady s₀ x) a => ?_
    | refine fun x (hx : Steady s₀ x) => ?_
    | with_reducible apply Steady.ite
    | ((try lift_lets); intro x; refine (?_ : Steady s₀ x → _) ?_; focus (intro hx; clear_value x))
    | ((try lift_lets); intro x; try clear_value x)
    | split
    | with_reducible refine Steady.upd ?_ rfl rfl rfl rfl

theorem feedBlock_steady (x0) (x1) (h : Steady s₀ s) : Steady s₀ (feedBlock x0 x1 s) := by
  unfold feedBlock
  repeat' first
    | with_reducible assumption
    | with_reducible apply setBlock_steady
    | refine fun x (hx : Steady s₀ x) a => ?_
    | refine fun x (hx : Steady s₀ x) => ?_
    | with_reducible refine Steady.upd ?_ rfl rfl rfl rfl

theorem issueAnalogue_steady (x0) (x1) (x2) (x3) (h : Steady s₀ s) : Steady s₀ (issueAnalogue x0 x1 x2 x3 s) := by
  unfold issueAnalogue
  repeat' first
    | with_reducible assumption
    | with_reducible apply setBlock_steady
    | with_reducible apply setRunning_steady
    | with_reducible apply feedBlock_steady
    | refine fun x (hx : Steady s₀ x) a => ?_
    | refine fun x (hx : Steady s₀ x) => ?_
    | with_reducible apply Steady.ite
    | ((try lift_lets); intro x; refine (?_ : Steady s₀ x → _) ?_; focus (intro hx; clear_value x))
    | ((try lift_lets); intro x; try clear_value x)
    | split
    | with_reducible refine Steady.upd ?_ rfl rfl rfl rfl

theorem noteWork_steady (x0) (x1) (h : Steady s₀ s) : Steady s₀ (noteWork x0 x1 s) := by
  unfold noteWork
  repeat' first
    | with_reducible assumption
    | with_reducible apply setRunning_steady
    | refine fun x (hx : Steady s₀ x) a => ?_
    | refine fun x (hx : Steady s₀ x) => ?_
    | with_reducible apply Steady.ite
    | split
    | with_reducible refine Steady.upd ?_ rfl rfl rfl rfl

theorem issueMvm_steady (x0) (h : Steady s₀ s) : Steady s₀ (issueMvm x0 s) := by
  unfold issueMvm
  repeat' first
    | with_reducible assumption
    | with_reducible apply noteWork_steady
    | with_reducible apply issueExact_steady
    | with_reducible apply issueAnalogue_steady
    | with_reducible apply Steady.ite
    | ((try lift_lets); intro x; refine (?_ : Steady s₀ x → _) ?_; focus (intro hx; clear_value x))
    | ((try lift_lets); intro x; try clear_value x)
    | split
    | with_reducible refine Steady.upd ?_ rfl rfl rfl rfl

theorem noteScale_steady (x0) (h : Steady s₀ s) : Steady s₀ (noteScale x0 s) := by
  unfold noteScale
  repeat' first
    | with_reducible assumption
    | with_reducible apply formatEvent_steady
    | with_reducible apply Steady.ite
    | ((try lift_lets); intro x; refine (?_ : Steady s₀ x → _) ?_; focus (intro hx; clear_value x))
    | ((try lift_lets); intro x; try clear_value x)
    | split
    | with_reducible refine Steady.upd ?_ rfl rfl rfl rfl

theorem startMvm_steady (x0) (h : Steady s₀ s) : Steady s₀ (startMvm x0 s) := by
  unfold startMvm
  repeat' first
    | with_reducible assumption
    | with_reducible apply noteScale_steady
    | with_reducible apply setTile_steady
    | with_reducible apply issueMvm_steady
    | refine fun x (hx : Steady s₀ x) a => ?_
    | refine fun x (hx : Steady s₀ x) => ?_
    | with_reducible apply Steady.ite
    | ((try lift_lets); intro x; refine (?_ : Steady s₀ x → _) ?_; focus (intro hx; clear_value x))
    | ((try lift_lets); intro x; try clear_value x)
    | split
    | with_reducible refine Steady.upd ?_ rfl rfl rfl rfl

theorem releaseHeld_steady (x0) (x1) (h : Steady s₀ s) : Steady s₀ (releaseHeld x0 x1 s) := by
  unfold releaseHeld
  repeat' first
    | with_reducible assumption
    | with_reducible apply startMvm_steady
    | with_reducible apply setTile_steady
    | refine fun x (hx : Steady s₀ x) a => ?_
    | refine fun x (hx : Steady s₀ x) => ?_
    | with_reducible apply Steady.foldl
    | ((try lift_lets); intro x; refine (?_ : Steady s₀ x → _) ?_; focus (intro hx; clear_value x))
    | ((try lift_lets); intro x; try clear_value x)
    | with_reducible refine Steady.upd ?_ rfl rfl rfl rfl

theorem releaseEngine_steady (x0) (h : Steady s₀ s) : Steady s₀ (releaseEngine x0 s) := by
  unfold releaseEngine
  repeat' first
    | with_reducible assumption
    | with_reducible apply releaseHeld_steady
    | refine fun x (hx : Steady s₀ x) a => ?_
    | refine fun x (hx : Steady s₀ x) => ?_
    | with_reducible apply Steady.foldl

theorem mvmOp_steady (x0) (h : Steady s₀ s) : Steady s₀ (mvmOp x0 s) := by
  unfold mvmOp
  repeat' first
    | with_reducible assumption
    | with_reducible apply scoreboard_steady
    | with_reducible apply startMvm_steady
    | refine fun x (hx : Steady s₀ x) a => ?_
    | refine fun x (hx : Steady s₀ x) => ?_

theorem finishCapture_steady (x0) (x1) (h : Steady s₀ s) : Steady s₀ (finishCapture x0 x1 s) := by
  unfold finishCapture
  repeat' first
    | with_reducible assumption
    | with_reducible apply setRegion_steady
    | with_reducible apply wr_steady
    | refine fun x (hx : Steady s₀ x) a => ?_
    | refine fun x (hx : Steady s₀ x) => ?_
    | ((try lift_lets); intro x; refine (?_ : Steady s₀ x → _) ?_; focus (intro hx; clear_value x))
    | ((try lift_lets); intro x; try clear_value x)
    | with_reducible refine Steady.upd ?_ rfl rfl rfl rfl

theorem captureRead_steady (x0) (x1) (x2) (x3) (x4) (h : Steady s₀ s) : Steady s₀ (captureRead x0 x1 x2 x3 x4 s) := by
  unfold captureRead
  repeat' first
    | with_reducible assumption
    | with_reducible apply finishCapture_steady
    | with_reducible apply Steady.ite
    | ((try lift_lets); intro x; refine (?_ : Steady s₀ x → _) ?_; focus (intro hx; clear_value x))
    | ((try lift_lets); intro x; try clear_value x)
    | split

theorem discardRead_steady (x0) (x1) (x2) (x3) (h : Steady s₀ s) : Steady s₀ (discardRead x0 x1 x2 x3 s) := by
  unfold discardRead
  repeat' first
    | with_reducible assumption
    | with_reducible apply log_steady
    | with_reducible apply setBlock_steady
    | with_reducible apply setRunning_steady
    | with_reducible apply suspectBlock_steady
    | refine fun x (hx : Steady s₀ x) a => ?_
    | refine fun x (hx : Steady s₀ x) => ?_
    | with_reducible apply Steady.ite
    | ((try lift_lets); intro x; refine (?_ : Steady s₀ x → _) ?_; focus (intro hx; clear_value x))
    | ((try lift_lets); intro x; try clear_value x)
    | split
    | with_reducible refine Steady.upd ?_ rfl rfl rfl rfl

theorem loseBlock_steady (x0) (x1) (x2) (h : Steady s₀ s) : Steady s₀ (loseBlock x0 x1 x2 s) := by
  unfold loseBlock
  repeat' first
    | with_reducible assumption
    | with_reducible apply setBlock_steady
    | with_reducible apply setRunning_steady
    | with_reducible apply suspectBlock_steady
    | with_reducible apply wantBlock_steady
    | with_reducible apply voidRunning_steady
    | refine fun x (hx : Steady s₀ x) a => ?_
    | refine fun x (hx : Steady s₀ x) => ?_
    | ((try lift_lets); intro x; refine (?_ : Steady s₀ x → _) ?_; focus (intro hx; clear_value x))
    | ((try lift_lets); intro x; try clear_value x)
    | with_reducible refine Steady.upd ?_ rfl rfl rfl rfl

theorem completeCommand_steady (x0) (x1) (x2) (x3) (x4) (h : Steady s₀ s) : Steady s₀ (completeCommand x0 x1 x2 x3 x4 s) := by
  unfold completeCommand
  repeat' first
    | with_reducible assumption
    | with_reducible apply setRunning_steady
    | with_reducible apply readyShadow_steady
    | with_reducible apply deliver_steady
    | refine fun x (hx : Steady s₀ x) a => ?_
    | refine fun x (hx : Steady s₀ x) => ?_
    | with_reducible apply Steady.ite
    | ((try lift_lets); intro x; refine (?_ : Steady s₀ x → _) ?_; focus (intro hx; clear_value x))
    | ((try lift_lets); intro x; try clear_value x)
    | split
    | with_reducible refine Steady.upd ?_ rfl rfl rfl rfl

theorem acceptRead_steady (x0) (x1) (x2) (x3) (x4) (h : Steady s₀ s) : Steady s₀ (acceptRead x0 x1 x2 x3 x4 s) := by
  unfold acceptRead
  repeat' first
    | with_reducible assumption
    | with_reducible apply setBlock_steady
    | with_reducible apply completeCommand_steady
    | refine fun x (hx : Steady s₀ x) a => ?_
    | refine fun x (hx : Steady s₀ x) => ?_
    | with_reducible apply Steady.ite
    | ((try lift_lets); intro x; refine (?_ : Steady s₀ x → _) ?_; focus (intro hx; clear_value x))
    | ((try lift_lets); intro x; try clear_value x)
    | split
    | with_reducible refine Steady.upd ?_ rfl rfl rfl rfl
    | (simp only [id_eq]; with_reducible assumption)

theorem takeMessage_steady (x0) (x1) (x2) (x3) (x4) (h : Steady s₀ s) : Steady s₀ (takeMessage x0 x1 x2 x3 x4 s) := by
  unfold takeMessage
  repeat' first
    | with_reducible assumption
    | with_reducible apply setBlock_steady
    | with_reducible apply captureRead_steady
    | with_reducible apply acceptRead_steady
    | with_reducible apply discardRead_steady
    | with_reducible apply loseBlock_steady
    | with_reducible apply releaseEngine_steady
    | with_reducible apply feedBlock_steady
    | refine fun x (hx : Steady s₀ x) a => ?_
    | refine fun x (hx : Steady s₀ x) => ?_
    | with_reducible apply Steady.ite
    | ((try lift_lets); intro x; refine (?_ : Steady s₀ x → _) ?_; focus (intro hx; clear_value x))
    | ((try lift_lets); intro x; try clear_value x)
    | split
    | with_reducible refine Steady.upd ?_ rfl rfl rfl rfl

theorem storeElem_steady (x0) (x1) (x2) (x3) (h : Steady s₀ s) : Steady s₀ (storeElem x0 x1 x2 x3 s) := by
  unfold storeElem
  repeat' first
    | with_reducible assumption
    | with_reducible apply setTile_steady
    | with_reducible apply satIf_steady
    | refine fun x (hx : Steady s₀ x) a => ?_
    | refine fun x (hx : Steady s₀ x) => ?_
    | with_reducible apply Steady.ite
    | with_reducible apply Steady.foldl
    | ((try lift_lets); intro x; refine (?_ : Steady s₀ x → _) ?_; focus (intro hx; clear_value x))
    | ((try lift_lets); intro x; try clear_value x)
    | split

theorem raiseHazard_steady (x0) (x1) (x2) (h : Steady s₀ s) : Steady s₀ (raiseHazard x0 x1 x2 s) := by
  unfold raiseHazard
  repeat' first
    | with_reducible assumption
    | with_reducible apply log_steady
    | with_reducible apply setRegion_steady
    | with_reducible apply voidRunning_steady
    | refine fun x (hx : Steady s₀ x) a => ?_
    | refine fun x (hx : Steady s₀ x) => ?_
    | ((try lift_lets); intro x; refine (?_ : Steady s₀ x → _) ?_; focus (intro hx; clear_value x))
    | ((try lift_lets); intro x; try clear_value x)
    | with_reducible refine Steady.upd ?_ rfl rfl rfl rfl

theorem addLaneElem_steady (x0) (x1) (x2) (x3) (x4) (h : Steady s₀ s) : Steady s₀ (addLaneElem x0 x1 x2 x3 x4 s) := by
  unfold addLaneElem
  repeat' first
    | with_reducible assumption
    | with_reducible apply convertInto_steady
    | with_reducible apply satIf_steady
    | with_reducible apply setTile_steady
    | refine fun x (hx : Steady s₀ x) a => ?_
    | refine fun x (hx : Steady s₀ x) => ?_
    | with_reducible apply Steady.ite
    | ((try lift_lets); intro x; refine (?_ : Steady s₀ x → _) ?_; focus (intro hx; clear_value x))
    | ((try lift_lets); intro x; try clear_value x)
    | split

theorem addLane_steady (x0) (x1) (x2) (x3) (h : Steady s₀ s) : Steady s₀ (addLane x0 x1 x2 x3 s) := by
  unfold addLane
  repeat' first
    | with_reducible assumption
    | with_reducible apply addLaneElem_steady
    | refine fun x (hx : Steady s₀ x) a => ?_
    | refine fun x (hx : Steady s₀ x) => ?_
    | with_reducible apply Steady.ite
    | with_reducible apply Steady.foldl
    | split
    | with_reducible refine Steady.upd ?_ rfl rfl rfl rfl

theorem captureTile_steady (x0) (x1) (h : Steady s₀ s) : Steady s₀ (captureTile x0 x1 s) := by
  unfold captureTile
  repeat' first
    | with_reducible assumption
    | with_reducible apply finishCapture_steady
    | with_reducible apply Steady.ite
    | ((try lift_lets); intro x; refine (?_ : Steady s₀ x → _) ?_; focus (intro hx; clear_value x))
    | ((try lift_lets); intro x; try clear_value x)
    | split

theorem runWaiting_steady (x0) (h : Steady s₀ s) : Steady s₀ (runWaiting x0 s) := by
  unfold runWaiting
  repeat' first
    | with_reducible assumption
    | with_reducible apply scoreboard_steady
    | with_reducible apply clearTile_steady
    | with_reducible apply restoreTile_steady
    | with_reducible apply saveTile_steady
    | with_reducible apply releaseTile_steady
    | with_reducible apply readTile_steady
    | with_reducible apply tileAddOp_steady
    | with_reducible apply reduceOp_steady
    | with_reducible apply writeElems_steady
    | with_reducible apply costumeOp_steady
    | with_reducible apply mvmOp_steady
    | refine fun x (hx : Steady s₀ x) a => ?_
    | refine fun x (hx : Steady s₀ x) => ?_
    | split
    | with_reducible refine Steady.upd ?_ rfl rfl rfl rfl

theorem resumeOp_steady (x0) (x1) (x2) (h : Steady s₀ s) : Steady s₀ (resumeOp x0 x1 x2 s) := by
  unfold resumeOp
  repeat' first
    | with_reducible assumption
    | with_reducible apply readSource_steady
    | with_reducible apply runWaiting_steady
    | with_reducible apply Steady.ite
    | split
    | with_reducible refine Steady.upd ?_ rfl rfl rfl rfl

theorem releaseWaiting_steady (x0) (x1) (h : Steady s₀ s) : Steady s₀ (releaseWaiting x0 x1 s) := by
  unfold releaseWaiting
  repeat' first
    | with_reducible assumption
    | with_reducible apply resumeOp_steady
    | with_reducible apply setTile_steady
    | refine fun x (hx : Steady s₀ x) a => ?_
    | refine fun x (hx : Steady s₀ x) => ?_
    | with_reducible apply Steady.foldl
    | ((try lift_lets); intro x; refine (?_ : Steady s₀ x → _) ?_; focus (intro hx; clear_value x))
    | ((try lift_lets); intro x; try clear_value x)
    | with_reducible refine Steady.upd ?_ rfl rfl rfl rfl

theorem drainTile_steady (x0) (x1) (x2) (h : Steady s₀ s) : Steady s₀ (drainTile x0 x1 x2 s) := by
  unfold drainTile
  repeat' first
    | with_reducible assumption
    | with_reducible apply storeElem_steady
    | with_reducible apply raiseHazard_steady
    | with_reducible apply addLane_steady
    | with_reducible apply setTile_steady
    | with_reducible apply captureTile_steady
    | refine fun x (hx : Steady s₀ x) a => ?_
    | refine fun x (hx : Steady s₀ x) => ?_
    | with_reducible apply Steady.ite
    | with_reducible apply Steady.foldl
    | ((try lift_lets); intro x; refine (?_ : Steady s₀ x → _) ?_; focus (intro hx; clear_value x))
    | ((try lift_lets); intro x; try clear_value x)
    | split
    | with_reducible refine Steady.upd ?_ rfl rfl rfl rfl

theorem clearCapture_steady (x0) (h : Steady s₀ s) : Steady s₀ (clearCapture x0 s) := by
  unfold clearCapture
  repeat' first
    | with_reducible assumption
    | with_reducible apply wr_steady
    | with_reducible apply setRegion_steady
    | refine fun x (hx : Steady s₀ x) a => ?_
    | refine fun x (hx : Steady s₀ x) => ?_
    | with_reducible refine Steady.upd ?_ rfl rfl rfl rfl

theorem debugCtlWrite_steady (x0) (x1) (h : Steady s₀ s) : Steady s₀ (debugCtlWrite x0 x1 s) := by
  unfold debugCtlWrite
  repeat' first
    | with_reducible assumption
    | with_reducible apply guarded_steady
    | with_reducible apply logIgnored_steady
    | with_reducible apply wtake_steady
    | with_reducible apply wr_steady
    | with_reducible apply clearCapture_steady
    | refine fun x (hx : Steady s₀ x) a => ?_
    | refine fun x (hx : Steady s₀ x) => ?_
    | with_reducible apply Steady.ite
    | ((try lift_lets); intro x; refine (?_ : Steady s₀ x → _) ?_; focus (intro hx; clear_value x))
    | ((try lift_lets); intro x; try clear_value x)
    | split

theorem debugDataRead_steady (x0) (x1) (x2) (h : Steady s₀ s) : Steady s₀ (debugDataRead x0 x1 x2 s) := by
  unfold debugDataRead
  repeat' first
    | with_reducible assumption
    | with_reducible apply viaBar_steady
    | with_reducible apply answer_steady
    | with_reducible apply wr_steady
    | refine fun x (hx : Steady s₀ x) a => ?_
    | refine fun x (hx : Steady s₀ x) => ?_
    | with_reducible apply Steady.ite
    | ((try lift_lets); intro x; refine (?_ : Steady s₀ x → _) ?_; focus (intro hx; clear_value x))
    | ((try lift_lets); intro x; try clear_value x)
    | split

theorem endDebug_steady (h : Steady s₀ s) : Steady s₀ (endDebug s) := by
  unfold endDebug
  repeat' first
    | with_reducible assumption
    | with_reducible apply wr_steady
    | with_reducible apply clearCapture_steady
    | refine fun x (hx : Steady s₀ x) a => ?_
    | refine fun x (hx : Steady s₀ x) => ?_
    | with_reducible apply Steady.foldl

end Sys2Proof.Machine
end

