-- ==== Sys2Proof/Laws/SteadyScan.lean ====
section
/-! SUPPORT. The operations of Scan.lean are steady (Steady.lean). -/

namespace Sys2Proof.Machine

variable {s₀ s : State}

theorem setMcv_steady (x0) (h : Steady s₀ s) : Steady s₀ (setMcv x0 s) := by
  unfold setMcv
  repeat' first
    | with_reducible assumption
    | with_reducible refine Steady.upd ?_ rfl rfl rfl rfl

theorem logSkips_steady (x0) (h : Steady s₀ s) : Steady s₀ (logSkips x0 s) := by
  unfold logSkips
  repeat' first
    | with_reducible assumption
    | with_reducible apply log_steady
    | refine fun x (hx : Steady s₀ x) a => ?_
    | refine fun x (hx : Steady s₀ x) => ?_
    | with_reducible apply Steady.ite
    | with_reducible apply Steady.foldl
    | split

theorem startConv_steady (x0) (x1) (x2) (h : Steady s₀ s) : Steady s₀ (startConv x0 x1 x2 s) := by
  unfold startConv
  repeat' first
    | with_reducible assumption
    | with_reducible apply wr_steady
    | with_reducible apply setMcv_steady
    | refine fun x (hx : Steady s₀ x) a => ?_
    | refine fun x (hx : Steady s₀ x) => ?_
    | ((try lift_lets); intro x; refine (?_ : Steady s₀ x → _) ?_; focus (intro hx; clear_value x))
    | ((try lift_lets); intro x; try clear_value x)
    | with_reducible refine Steady.upd ?_ rfl rfl rfl rfl

theorem stopConv_steady (h : Steady s₀ s) : Steady s₀ (stopConv s) := by
  unfold stopConv
  repeat' first
    | with_reducible assumption
    | with_reducible apply setMcv_steady
    | refine fun x (hx : Steady s₀ x) a => ?_
    | refine fun x (hx : Steady s₀ x) => ?_
    | with_reducible refine Steady.upd ?_ rfl rfl rfl rfl

theorem startHost_steady (x0) (h : Steady s₀ s) : Steady s₀ (startHost x0 s) := by
  unfold startHost
  repeat' first
    | with_reducible assumption
    | with_reducible apply startConv_steady
    | with_reducible apply setMcv_steady
    | refine fun x (hx : Steady s₀ x) a => ?_
    | refine fun x (hx : Steady s₀ x) => ?_
    | with_reducible apply Steady.ite
    | ((try lift_lets); intro x; refine (?_ : Steady s₀ x → _) ?_; focus (intro hx; clear_value x))
    | ((try lift_lets); intro x; try clear_value x)
    | split
    | with_reducible refine Steady.upd ?_ rfl rfl rfl rfl

theorem disableHost_steady (x0) (x1) (h : Steady s₀ s) : Steady s₀ (disableHost x0 x1 s) := by
  unfold disableHost
  repeat' first
    | with_reducible assumption
    | with_reducible apply setMcv_steady
    | refine fun x (hx : Steady s₀ x) a => ?_
    | refine fun x (hx : Steady s₀ x) => ?_
    | with_reducible apply Steady.ite
    | split
    | with_reducible refine Steady.upd ?_ rfl rfl rfl rfl

theorem scanFrom_steady (x0) (x1) (h : Steady s₀ s) : Steady s₀ (scanFrom x0 x1 s) := by
  unfold scanFrom
  repeat' first
    | with_reducible assumption
    | with_reducible apply startConv_steady
    | with_reducible apply logSkips_steady
    | with_reducible apply startHost_steady
    | with_reducible apply setMcv_steady
    | with_reducible apply incWrap_steady
    | with_reducible apply stopConv_steady
    | refine fun x (hx : Steady s₀ x) a => ?_
    | refine fun x (hx : Steady s₀ x) => ?_
    | with_reducible apply Steady.ite
    | ((try lift_lets); intro x; refine (?_ : Steady s₀ x → _) ?_; focus (intro hx; clear_value x))
    | ((try lift_lets); intro x; try clear_value x)
    | split
    | with_reducible refine Steady.upd ?_ rfl rfl rfl rfl

theorem kickScan_steady (h : Steady s₀ s) : Steady s₀ (kickScan s) := by
  unfold kickScan
  repeat' first
    | with_reducible assumption
    | with_reducible apply scanFrom_steady
    | refine fun x (hx : Steady s₀ x) a => ?_
    | refine fun x (hx : Steady s₀ x) => ?_
    | with_reducible apply Steady.ite
    | split

theorem stopScan_steady (h : Steady s₀ s) : Steady s₀ (stopScan s) := by
  unfold stopScan
  repeat' first
    | with_reducible assumption
    | with_reducible apply stopConv_steady
    | with_reducible apply wr_steady

theorem markInterrupted_steady (h : Steady s₀ s) : Steady s₀ (markInterrupted s) := by
  unfold markInterrupted
  repeat' first
    | with_reducible assumption
    | with_reducible apply setMcv_steady
    | refine fun x (hx : Steady s₀ x) a => ?_
    | refine fun x (hx : Steady s₀ x) => ?_
    | with_reducible apply Steady.ite
    | split
    | with_reducible refine Steady.upd ?_ rfl rfl rfl rfl

theorem setRefbuf_steady (x0) (h : Steady s₀ s) : Steady s₀ (setRefbuf x0 s) := by
  unfold setRefbuf
  repeat' first
    | with_reducible assumption
    | with_reducible apply scanFrom_steady
    | with_reducible apply setMcv_steady
    | with_reducible apply wr_steady
    | with_reducible apply stopScan_steady
    | with_reducible apply markInterrupted_steady
    | refine fun x (hx : Steady s₀ x) a => ?_
    | refine fun x (hx : Steady s₀ x) => ?_
    | with_reducible apply Steady.ite
    | split
    | with_reducible refine Steady.upd ?_ rfl rfl rfl rfl

end Sys2Proof.Machine
end

