-- ==== Sys2Proof/Laws/SteadyModes.lean ====
section
/-! SUPPORT. The operations of Modes.lean are steady (Steady.lean). -/

namespace Sys2Proof.Machine

variable {s₀ s : State}

theorem serveLine_steady (x0) (h : Steady s₀ s) : Steady s₀ (serveLine x0 s) := by
  unfold serveLine
  repeat' first
    | with_reducible assumption
    | with_reducible apply answer_steady
    | with_reducible apply Steady.ite
    | ((try lift_lets); intro x; refine (?_ : Steady s₀ x → _) ?_; focus (intro hx; clear_value x))
    | ((try lift_lets); intro x; try clear_value x)
    | split
    | with_reducible refine Steady.upd ?_ rfl rfl rfl rfl
    | (with_reducible refine Steady.updMem ?_ rfl rfl rfl rfl ?_ ?_ ?_ ?_ ?_ ?_ <;> try first | exact id | (refine fun hw => ?_; first | exact putBytes_wf _ _ hw | exact putSome_wf _ _ hw | exact putView_wf _ _ _ hw | exact foldl_putByte_wf _ _ (SparseWf.nil _) | exact SparseWf.sset hw _ _ | exact SparseWf.filter hw _ | exact SparseWf.nil _))

theorem serveMem_steady (x0) (h : Steady s₀ s) : Steady s₀ (serveMem x0 s) := by
  unfold serveMem
  repeat' first
    | with_reducible assumption
    | with_reducible apply serveLine_steady
    | with_reducible apply answer_steady
    | with_reducible apply Steady.ite
    | split

theorem serveHeld_steady (h : Steady s₀ s) : Steady s₀ (serveHeld s) := by
  unfold serveHeld
  repeat' first
    | with_reducible assumption
    | with_reducible apply serveMem_steady
    | refine fun x (hx : Steady s₀ x) a => ?_
    | refine fun x (hx : Steady s₀ x) => ?_
    | with_reducible apply Steady.foldl
    | with_reducible refine Steady.upd ?_ rfl rfl rfl rfl

theorem leaveSelfRefresh_steady (h : Steady s₀ s) : Steady s₀ (leaveSelfRefresh s) := by
  unfold leaveSelfRefresh
  repeat' first
    | with_reducible assumption
    | with_reducible apply serveHeld_steady
    | with_reducible apply wr_steady
    | refine fun x (hx : Steady s₀ x) a => ?_
    | refine fun x (hx : Steady s₀ x) => ?_
    | with_reducible apply Steady.foldl

theorem drainBuffer_steady (h : Steady s₀ s) : Steady s₀ (drainBuffer s) := by
  unfold drainBuffer
  repeat' first
    | with_reducible assumption
    | with_reducible refine Steady.upd ?_ rfl rfl rfl rfl

theorem wakeConverter_steady (h : Steady s₀ s) : Steady s₀ (wakeConverter s) := by
  unfold wakeConverter
  repeat' first
    | with_reducible assumption
    | with_reducible apply setRefbuf_steady
    | with_reducible apply wr_steady
    | with_reducible refine Steady.upd ?_ rfl rfl rfl rfl

theorem startWarmup_steady (h : Steady s₀ s) : Steady s₀ (startWarmup s) := by
  unfold startWarmup
  repeat' first
    | with_reducible assumption
    | with_reducible apply mapBlocks_steady
    | refine fun x (hx : Steady s₀ x) a => ?_
    | refine fun x (hx : Steady s₀ x) => ?_
    | with_reducible refine Steady.upd ?_ rfl rfl rfl rfl

theorem wakeDeep_steady (h : Steady s₀ s) : Steady s₀ (wakeDeep s) := by
  unfold wakeDeep
  repeat' first
    | with_reducible assumption
    | with_reducible apply wr_steady
    | with_reducible apply wakeConverter_steady
    | with_reducible apply startWarmup_steady
    | refine fun x (hx : Steady s₀ x) a => ?_
    | refine fun x (hx : Steady s₀ x) => ?_
    | with_reducible apply Steady.ite
    | with_reducible apply Steady.foldl
    | ((try lift_lets); intro x; refine (?_ : Steady s₀ x → _) ?_; focus (intro hx; clear_value x))
    | ((try lift_lets); intro x; try clear_value x)
    | split

theorem wakePart_steady (x0) (h : Steady s₀ s) : Steady s₀ (wakePart x0 s) := by
  unfold wakePart
  repeat' first
    | with_reducible assumption
    | with_reducible apply wr_steady
    | with_reducible apply incWrap_steady
    | with_reducible apply wakeDeep_steady
    | with_reducible apply leaveSelfRefresh_steady
    | with_reducible apply drainBuffer_steady
    | with_reducible apply Steady.ite
    | ((try lift_lets); intro x; refine (?_ : Steady s₀ x → _) ?_; focus (intro hx; clear_value x))
    | ((try lift_lets); intro x; try clear_value x)
    | split
    | with_reducible refine Steady.upd ?_ rfl rfl rfl rfl

theorem lockFields_steady (x0) (h : Steady s₀ s) : Steady s₀ (lockFields x0 s) := by
  unfold lockFields
  repeat' first
    | with_reducible assumption
    | with_reducible apply wr_steady
    | with_reducible apply Steady.ite
    | split

theorem setGlb_steady (x0) (h : Steady s₀ s) : Steady s₀ (setGlb x0 s) := by
  unfold setGlb
  repeat' first
    | with_reducible assumption
    | with_reducible apply incWrap_steady
    | with_reducible apply wr_steady
    | with_reducible apply lockFields_steady
    | with_reducible apply log_steady
    | with_reducible apply endDebug_steady
    | with_reducible apply Steady.ite
    | ((try lift_lets); intro x; refine (?_ : Steady s₀ x → _) ?_; focus (intro hx; clear_value x))
    | ((try lift_lets); intro x; try clear_value x)
    | split

theorem haltPart_steady (x0) (h : Steady s₀ s) : Steady s₀ (haltPart x0 s) := by
  unfold haltPart
  repeat' first
    | with_reducible assumption
    | with_reducible apply setGlb_steady
    | with_reducible apply wr_steady

theorem stopPhases_steady (h : Steady s₀ s) : Steady s₀ (stopPhases s) := by
  unfold stopPhases
  repeat' first
    | with_reducible assumption
    | with_reducible apply setRunning_steady
    | with_reducible apply mapBlocks_steady
    | refine fun x (hx : Steady s₀ x) a => ?_
    | refine fun x (hx : Steady s₀ x) => ?_
    | with_reducible refine Steady.upd ?_ rfl rfl rfl rfl

theorem setGenState_steady (x0) (x1) (h : Steady s₀ s) : Steady s₀ (setGenState x0 x1 s) := by
  unfold setGenState
  repeat' first
    | with_reducible assumption
    | with_reducible apply log_steady
    | with_reducible apply wr_steady
    | with_reducible apply Steady.ite
    | ((try lift_lets); intro x; refine (?_ : Steady s₀ x → _) ?_; focus (intro hx; clear_value x))
    | ((try lift_lets); intro x; try clear_value x)
    | split

theorem dropCounts_steady (x0) (h : Steady s₀ s) : Steady s₀ (dropCounts x0 s) := by
  unfold dropCounts
  repeat' first
    | with_reducible assumption
    | refine fun x (hx : Steady s₀ x) a => ?_
    | refine fun x (hx : Steady s₀ x) => ?_
    | ((try lift_lets); intro x; refine (?_ : Steady s₀ x → _) ?_; focus (intro hx; clear_value x))
    | ((try lift_lets); intro x; try clear_value x)
    | with_reducible refine Steady.upd ?_ rfl rfl rfl rfl

theorem freeSlot_steady (x0) (h : Steady s₀ s) : Steady s₀ (freeSlot x0 s) := by
  unfold freeSlot
  repeat' first
    | with_reducible assumption
    | with_reducible apply setGenState_steady
    | with_reducible apply setReg_steady
    | with_reducible apply dropCounts_steady
    | with_reducible apply setGen_steady
    | with_reducible apply mapBlocks_steady
    | refine fun x (hx : Steady s₀ x) a => ?_
    | refine fun x (hx : Steady s₀ x) => ?_
    | ((try lift_lets); intro x; refine (?_ : Steady s₀ x → _) ?_; focus (intro hx; clear_value x))
    | ((try lift_lets); intro x; try clear_value x)
    | with_reducible refine Steady.upd ?_ rfl rfl rfl rfl
    | (simp only [id_eq]; with_reducible assumption)

theorem stopProgramming_steady (h : Steady s₀ s) : Steady s₀ (stopProgramming s) := by
  unfold stopProgramming
  repeat' first
    | with_reducible assumption
    | with_reducible apply mapBlocks_steady
    | refine fun x (hx : Steady s₀ x) a => ?_
    | refine fun x (hx : Steady s₀ x) => ?_
    | with_reducible apply Steady.ite
    | split
    | with_reducible refine Steady.upd ?_ rfl rfl rfl rfl

theorem endLoad_steady (x0) (x1) (h : Steady s₀ s) : Steady s₀ (endLoad x0 x1 s) := by
  unfold endLoad
  repeat' first
    | with_reducible assumption
    | with_reducible apply log_steady
    | with_reducible apply wr_steady
    | with_reducible apply send_steady
    | with_reducible apply setGen_steady
    | with_reducible apply stopProgramming_steady
    | with_reducible apply freeSlot_steady
    | with_reducible apply setGenState_steady
    | refine fun x (hx : Steady s₀ x) a => ?_
    | refine fun x (hx : Steady s₀ x) => ?_
    | with_reducible apply Steady.ite
    | ((try lift_lets); intro x; refine (?_ : Steady s₀ x → _) ?_; focus (intro hx; clear_value x))
    | ((try lift_lets); intro x; try clear_value x)
    | split
    | with_reducible refine Steady.upd ?_ rfl rfl rfl rfl
    | (simp only [id_eq]; with_reducible assumption)

theorem retractRequest_steady (x0) (x1) (h : Steady s₀ s) : Steady s₀ (retractRequest x0 x1 s) := by
  unfold retractRequest
  repeat' first
    | with_reducible assumption
    | with_reducible apply putEntry_steady
    | with_reducible apply Steady.ite
    | ((try lift_lets); intro x; refine (?_ : Steady s₀ x → _) ?_; focus (intro hx; clear_value x))
    | ((try lift_lets); intro x; try clear_value x)
    | split

theorem retractSteps_steady (x0) (h : Steady s₀ s) : Steady s₀ (retractSteps x0 s) := by
  unfold retractSteps
  repeat' first
    | with_reducible assumption
    | with_reducible apply retractRequest_steady
    | refine fun x (hx : Steady s₀ x) a => ?_
    | refine fun x (hx : Steady s₀ x) => ?_
    | with_reducible apply Steady.foldl

theorem clearStep_steady (h : Steady s₀ s) : Steady s₀ (clearStep s) := by
  unfold clearStep
  repeat' first
    | with_reducible assumption
    | with_reducible apply mapBlocks_steady
    | refine fun x (hx : Steady s₀ x) a => ?_
    | refine fun x (hx : Steady s₀ x) => ?_
    | ((try lift_lets); intro x; refine (?_ : Steady s₀ x → _) ?_; focus (intro hx; clear_value x))
    | ((try lift_lets); intro x; try clear_value x)
    | with_reducible refine Steady.upd ?_ rfl rfl rfl rfl

theorem abandonSteps_steady (x0) (h : Steady s₀ s) : Steady s₀ (abandonSteps x0 s) := by
  unfold abandonSteps
  repeat' first
    | with_reducible assumption
    | with_reducible apply retractSteps_steady
    | with_reducible apply clearStep_steady
    | with_reducible apply wr_steady
    | refine fun x (hx : Steady s₀ x) a => ?_
    | refine fun x (hx : Steady s₀ x) => ?_
    | ((try lift_lets); intro x; refine (?_ : Steady s₀ x → _) ?_; focus (intro hx; clear_value x))
    | ((try lift_lets); intro x; try clear_value x)
    | with_reducible refine Steady.upd ?_ rfl rfl rfl rfl

theorem dropPartner_steady (h : Steady s₀ s) : Steady s₀ (dropPartner s) := by
  unfold dropPartner
  repeat' first
    | with_reducible assumption
    | with_reducible apply wr_steady
    | with_reducible refine Steady.upd ?_ rfl rfl rfl rfl

theorem leavePair_steady (h : Steady s₀ s) : Steady s₀ (leavePair s) := by
  unfold leavePair
  repeat' first
    | with_reducible assumption
    | with_reducible apply wr_steady
    | with_reducible apply dropPartner_steady
    | with_reducible apply send_steady
    | with_reducible apply Steady.ite
    | split

theorem putTinBit_steady (x0) (x1) (h : Steady s₀ s) : Steady s₀ (putTinBit x0 x1 s) := by
  unfold putTinBit
  repeat' first
    | with_reducible assumption
    | with_reducible apply wr_steady
    | with_reducible apply Steady.ite
    | ((try lift_lets); intro x; refine (?_ : Steady s₀ x → _) ?_; focus (intro hx; clear_value x))
    | ((try lift_lets); intro x; try clear_value x)
    | split

theorem noteTin_steady (h : Steady s₀ s) : Steady s₀ (noteTin s) := by
  unfold noteTin
  repeat' first
    | with_reducible assumption
    | with_reducible apply log_steady
    | with_reducible apply wr_steady

theorem failMain_steady (x0) (h : Steady s₀ s) : Steady s₀ (failMain x0 s) := by
  unfold failMain
  repeat' first
    | with_reducible assumption
    | with_reducible apply finish_steady
    | refine fun x (hx : Steady s₀ x) a => ?_
    | refine fun x (hx : Steady s₀ x) => ?_
    | with_reducible apply Steady.foldl

theorem dropServiceCover_steady (h : Steady s₀ s) : Steady s₀ (dropServiceCover s) := by
  unfold dropServiceCover
  repeat' first
    | with_reducible assumption
    | with_reducible apply mapBlocks_steady
    | refine fun x (hx : Steady s₀ x) a => ?_
    | refine fun x (hx : Steady s₀ x) => ?_
    | with_reducible apply Steady.ite
    | ((try lift_lets); intro x; refine (?_ : Steady s₀ x → _) ?_; focus (intro hx; clear_value x))
    | ((try lift_lets); intro x; try clear_value x)
    | split
    | with_reducible refine Steady.upd ?_ rfl rfl rfl rfl

theorem abandonRattle_steady (h : Steady s₀ s) : Steady s₀ (abandonRattle s) := by
  unfold abandonRattle
  repeat' first
    | with_reducible assumption
    | with_reducible apply unwantRegion_steady
    | with_reducible apply wr_steady
    | with_reducible apply Steady.ite
    | split

theorem haltNoKeep_steady (h : Steady s₀ s) : Steady s₀ (haltNoKeep s) := by
  unfold haltNoKeep
  repeat' first
    | with_reducible assumption
    | with_reducible apply haltPart_steady
    | with_reducible apply Steady.ite
    | split

theorem enterTin_steady (h : Steady s₀ s) : Steady s₀ (enterTin s) := by
  unfold enterTin
  repeat' first
    | with_reducible assumption
    | with_reducible apply abandonSteps_steady
    | with_reducible apply wakePart_steady
    | with_reducible apply failMain_steady
    | with_reducible apply leavePair_steady
    | with_reducible apply setGlb_steady
    | with_reducible apply abandonRattle_steady
    | with_reducible apply dropServiceCover_steady
    | with_reducible apply admitAll_steady
    | with_reducible apply scanAll_steady
    | with_reducible apply haltNoKeep_steady
    | refine fun x (hx : Steady s₀ x) a => ?_
    | refine fun x (hx : Steady s₀ x) => ?_
    | ((try lift_lets); intro x; refine (?_ : Steady s₀ x → _) ?_; focus (intro hx; clear_value x))
    | ((try lift_lets); intro x; try clear_value x)
    | with_reducible refine Steady.upd ?_ rfl rfl rfl rfl

theorem raiseTin_steady (x0) (h : Steady s₀ s) : Steady s₀ (raiseTin x0 s) := by
  unfold raiseTin
  repeat' first
    | with_reducible assumption
    | with_reducible apply putTinBit_steady
    | with_reducible apply enterTin_steady
    | with_reducible apply noteTin_steady
    | with_reducible apply wakePart_steady
    | with_reducible apply Steady.ite
    | ((try lift_lets); intro x; refine (?_ : Steady s₀ x → _) ?_; focus (intro hx; clear_value x))
    | ((try lift_lets); intro x; try clear_value x)
    | split

theorem leaveTinNow_steady (h : Steady s₀ s) : Steady s₀ (leaveTinNow s) := by
  unfold leaveTinNow
  repeat' first
    | with_reducible assumption
    | with_reducible apply setGlb_steady
    | with_reducible apply log_steady
    | ((try lift_lets); intro x; refine (?_ : Steady s₀ x → _) ?_; focus (intro hx; clear_value x))
    | ((try lift_lets); intro x; try clear_value x)
    | with_reducible refine Steady.upd ?_ rfl rfl rfl rfl

theorem tryLeaveTin_steady (h : Steady s₀ s) : Steady s₀ (tryLeaveTin s) := by
  unfold tryLeaveTin
  repeat' first
    | with_reducible assumption
    | with_reducible apply leaveTinNow_steady
    | with_reducible apply Steady.ite
    | split
    | with_reducible refine Steady.upd ?_ rfl rfl rfl rfl

theorem haltCommand_steady (h : Steady s₀ s) : Steady s₀ (haltCommand s) := by
  unfold haltCommand
  repeat' first
    | with_reducible assumption
    | with_reducible apply abandonSteps_steady
    | with_reducible apply leavePair_steady
    | with_reducible apply haltPart_steady
    | with_reducible apply endLoad_steady
    | refine fun x (hx : Steady s₀ x) a => ?_
    | refine fun x (hx : Steady s₀ x) => ?_
    | ((try lift_lets); intro x; refine (?_ : Steady s₀ x → _) ?_; focus (intro hx; clear_value x))
    | ((try lift_lets); intro x; try clear_value x)

theorem glbCommand_steady (x0) (x1) (x2) (k : State → State) (hk : ∀ x, Steady s₀ x → Steady s₀ (k x)) (h : Steady s₀ s) : Steady s₀ (glbCommand x0 x1 x2 k s) := by
  unfold glbCommand
  repeat' first
    | with_reducible assumption
    | with_reducible apply byWriter_steady
    | with_reducible apply wakePart_steady
    | with_reducible apply wr_steady
    | with_reducible apply logIgnored_steady
    | with_reducible apply hk
    | refine fun x (hx : Steady s₀ x) a => ?_
    | refine fun x (hx : Steady s₀ x) => ?_
    | with_reducible apply Steady.ite
    | ((try lift_lets); intro x; refine (?_ : Steady s₀ x → _) ?_; focus (intro hx; clear_value x))
    | ((try lift_lets); intro x; try clear_value x)
    | split

theorem enterCommand_steady (h : Steady s₀ s) : Steady s₀ (enterCommand s) := by
  unfold enterCommand
  repeat' first
    | with_reducible assumption
    | with_reducible apply raiseTin_steady

theorem leaveCommand_steady (h : Steady s₀ s) : Steady s₀ (leaveCommand s) := by
  unfold leaveCommand
  repeat' first
    | with_reducible assumption
    | with_reducible apply putTinBit_steady
    | with_reducible apply tryLeaveTin_steady
    | with_reducible apply Steady.ite
    | ((try lift_lets); intro x; refine (?_ : Steady s₀ x → _) ?_; focus (intro hx; clear_value x))
    | ((try lift_lets); intro x; try clear_value x)
    | split

end Sys2Proof.Machine
end

