-- ==== Sys2Proof/Laws/SteadyThermal.lean ====
section
/-! SUPPORT. The operations of Thermal.lean are steady (Steady.lean). -/

namespace Sys2Proof.Machine

variable {s₀ s : State}

theorem updateEffective_steady (h : Steady s₀ s) : Steady s₀ (updateEffective s) := by
  unfold updateEffective
  repeat' first
    | with_reducible assumption
    | with_reducible apply wrs_steady
    | refine fun x (hx : Steady s₀ x) a => ?_
    | refine fun x (hx : Steady s₀ x) => ?_
    | with_reducible apply Steady.foldl

theorem noteHold_steady (x0) (h : Steady s₀ s) : Steady s₀ (noteHold x0 s) := by
  unfold noteHold
  repeat' first
    | with_reducible assumption
    | refine fun x (hx : Steady s₀ x) a => ?_
    | refine fun x (hx : Steady s₀ x) => ?_
    | with_reducible apply Steady.ite
    | ((try lift_lets); intro x; refine (?_ : Steady s₀ x → _) ?_; focus (intro hx; clear_value x))
    | ((try lift_lets); intro x; try clear_value x)
    | split
    | with_reducible refine Steady.upd ?_ rfl rfl rfl rfl

theorem refreshRise_steady (h : Steady s₀ s) : Steady s₀ (refreshRise s) := by
  unfold refreshRise
  repeat' first
    | with_reducible assumption
    | with_reducible apply wr_steady
    | with_reducible apply noteHold_steady
    | refine fun x (hx : Steady s₀ x) a => ?_
    | refine fun x (hx : Steady s₀ x) => ?_
    | with_reducible apply Steady.foldl
    | ((try lift_lets); intro x; refine (?_ : Steady s₀ x → _) ?_; focus (intro hx; clear_value x))
    | ((try lift_lets); intro x; try clear_value x)

theorem queueRegion_steady (x0) (x1) (h : Steady s₀ s) : Steady s₀ (queueRegion x0 x1 s) := by
  unfold queueRegion
  repeat' first
    | with_reducible assumption
    | with_reducible apply setBlock_steady
    | refine fun x (hx : Steady s₀ x) a => ?_
    | refine fun x (hx : Steady s₀ x) => ?_
    | with_reducible apply Steady.foldl

theorem measureBand_steady (x0) (x1) (x2) (h : Steady s₀ s) : Steady s₀ (measureBand x0 x1 x2 s) := by
  unfold measureBand
  repeat' first
    | with_reducible assumption
    | with_reducible apply queueRegion_steady
    | with_reducible apply setRegion_steady
    | refine fun x (hx : Steady s₀ x) a => ?_
    | refine fun x (hx : Steady s₀ x) => ?_
    | with_reducible refine Steady.upd ?_ rfl rfl rfl rfl

theorem lookAhead_steady (x0) (x1) (h : Steady s₀ s) : Steady s₀ (lookAhead x0 x1 s) := by
  unfold lookAhead
  repeat' first
    | with_reducible assumption
    | with_reducible apply measureBand_steady
    | with_reducible apply Steady.ite
    | ((try lift_lets); intro x; refine (?_ : Steady s₀ x → _) ?_; focus (intro hx; clear_value x))
    | ((try lift_lets); intro x; try clear_value x)
    | split

theorem selectBand_steady (x0) (h : Steady s₀ s) : Steady s₀ (selectBand x0 s) := by
  unfold selectBand
  repeat' first
    | with_reducible assumption
    | with_reducible apply setRegion_steady
    | with_reducible apply wr_steady
    | with_reducible apply lookAhead_steady
    | refine fun x (hx : Steady s₀ x) a => ?_
    | refine fun x (hx : Steady s₀ x) => ?_
    | with_reducible apply Steady.ite
    | ((try lift_lets); intro x; refine (?_ : Steady s₀ x → _) ?_; focus (intro hx; clear_value x))
    | ((try lift_lets); intro x; try clear_value x)
    | split
    | with_reducible refine Steady.upd ?_ rfl rfl rfl rfl

theorem enterBand_steady (x0) (h : Steady s₀ s) : Steady s₀ (enterBand x0 s) := by
  unfold enterBand
  repeat' first
    | with_reducible assumption
    | with_reducible apply setRegion_steady
    | with_reducible apply wr_steady
    | with_reducible apply mapBlocks_steady
    | refine fun x (hx : Steady s₀ x) a => ?_
    | refine fun x (hx : Steady s₀ x) => ?_
    | with_reducible apply Steady.ite
    | ((try lift_lets); intro x; refine (?_ : Steady s₀ x → _) ?_; focus (intro hx; clear_value x))
    | ((try lift_lets); intro x; try clear_value x)
    | split
    | with_reducible refine Steady.upd ?_ rfl rfl rfl rfl

theorem startBand_steady (x0) (h : Steady s₀ s) : Steady s₀ (startBand x0 s) := by
  unfold startBand
  repeat' first
    | with_reducible assumption
    | with_reducible apply enterBand_steady
    | with_reducible apply setRegion_steady
    | refine fun x (hx : Steady s₀ x) a => ?_
    | refine fun x (hx : Steady s₀ x) => ?_
    | with_reducible apply Steady.ite
    | split
    | with_reducible refine Steady.upd ?_ rfl rfl rfl rfl

theorem addSample_steady (x0) (h : Steady s₀ s) : Steady s₀ (addSample x0 s) := by
  unfold addSample
  repeat' first
    | with_reducible assumption
    | refine fun x (hx : Steady s₀ x) a => ?_
    | refine fun x (hx : Steady s₀ x) => ?_
    | with_reducible apply Steady.ite
    | ((try lift_lets); intro x; refine (?_ : Steady s₀ x → _) ?_; focus (intro hx; clear_value x))
    | ((try lift_lets); intro x; try clear_value x)
    | split
    | with_reducible refine Steady.upd ?_ rfl rfl rfl rfl

theorem affectRegion_steady (x0) (h : Steady s₀ s) : Steady s₀ (affectRegion x0 s) := by
  unfold affectRegion
  repeat' first
    | with_reducible assumption
    | with_reducible apply setRegion_steady
    | with_reducible apply queueRegion_steady
    | with_reducible apply measureBand_steady
    | with_reducible apply wantRegion_steady
    | refine fun x (hx : Steady s₀ x) a => ?_
    | refine fun x (hx : Steady s₀ x) => ?_
    | with_reducible apply Steady.ite
    | ((try lift_lets); intro x; refine (?_ : Steady s₀ x → _) ?_; focus (intro hx; clear_value x))
    | ((try lift_lets); intro x; try clear_value x)
    | split
    | with_reducible refine Steady.upd ?_ rfl rfl rfl rfl

theorem immediateRecal_steady (x0) (h : Steady s₀ s) : Steady s₀ (immediateRecal x0 s) := by
  unfold immediateRecal
  repeat' first
    | with_reducible assumption
    | with_reducible apply wr_steady
    | with_reducible apply affectRegion_steady
    | refine fun x (hx : Steady s₀ x) a => ?_
    | refine fun x (hx : Steady s₀ x) => ?_
    | with_reducible apply Steady.ite
    | with_reducible apply Steady.foldl
    | ((try lift_lets); intro x; refine (?_ : Steady s₀ x → _) ?_; focus (intro hx; clear_value x))
    | ((try lift_lets); intro x; try clear_value x)
    | split

theorem evalRate_steady (x0) (h : Steady s₀ s) : Steady s₀ (evalRate x0 s) := by
  unfold evalRate
  repeat' first
    | with_reducible assumption
    | with_reducible apply addSample_steady
    | with_reducible apply wr_steady
    | with_reducible apply wrs_steady
    | with_reducible apply log_steady
    | with_reducible apply immediateRecal_steady
    | with_reducible apply Steady.ite
    | ((try lift_lets); intro x; refine (?_ : Steady s₀ x → _) ?_; focus (intro hx; clear_value x))
    | ((try lift_lets); intro x; try clear_value x)
    | split
    | with_reducible refine Steady.upd ?_ rfl rfl rfl rfl

theorem setLevel_steady (x0) (h : Steady s₀ s) : Steady s₀ (setLevel x0 s) := by
  unfold setLevel
  repeat' first
    | with_reducible assumption
    | with_reducible apply wr_steady

theorem levelUp_steady (h : Steady s₀ s) : Steady s₀ (levelUp s) := by
  unfold levelUp
  repeat' first
    | with_reducible assumption
    | with_reducible apply setLevel_steady
    | with_reducible apply wr_steady
    | with_reducible apply Steady.ite
    | ((try lift_lets); intro x; refine (?_ : Steady s₀ x → _) ?_; focus (intro hx; clear_value x))
    | ((try lift_lets); intro x; try clear_value x)
    | split

theorem actOnJunction_steady (x0) (h : Steady s₀ s) : Steady s₀ (actOnJunction x0 s) := by
  unfold actOnJunction
  repeat' first
    | with_reducible assumption
    | with_reducible apply wrs_steady
    | with_reducible apply levelUp_steady
    | with_reducible apply wakePart_steady
    | with_reducible apply raiseTin_steady
    | with_reducible apply wr_steady
    | with_reducible apply Steady.ite
    | ((try lift_lets); intro x; refine (?_ : Steady s₀ x → _) ?_; focus (intro hx; clear_value x))
    | ((try lift_lets); intro x; try clear_value x)
    | split

theorem temperaturesChanged_steady (h : Steady s₀ s) : Steady s₀ (temperaturesChanged s) := by
  unfold temperaturesChanged
  repeat' first
    | with_reducible assumption
    | with_reducible apply updateEffective_steady
    | with_reducible apply selectBand_steady
    | with_reducible apply actOnJunction_steady
    | with_reducible apply refreshRise_steady
    | refine fun x (hx : Steady s₀ x) a => ?_
    | refine fun x (hx : Steady s₀ x) => ?_
    | with_reducible apply Steady.ite
    | with_reducible apply Steady.foldl
    | ((try lift_lets); intro x; refine (?_ : Steady s₀ x → _) ?_; focus (intro hx; clear_value x))
    | ((try lift_lets); intro x; try clear_value x)
    | split

theorem sampleTemp_steady (x0) (x1) (x2) (h : Steady s₀ s) : Steady s₀ (sampleTemp x0 x1 x2 s) := by
  unfold sampleTemp
  repeat' first
    | with_reducible assumption
    | with_reducible apply wrs_steady
    | with_reducible apply startBand_steady
    | with_reducible apply updateEffective_steady
    | with_reducible apply wr_steady
    | with_reducible apply temperaturesChanged_steady
    | with_reducible apply evalRate_steady
    | with_reducible apply Steady.ite
    | ((try lift_lets); intro x; refine (?_ : Steady s₀ x → _) ?_; focus (intro hx; clear_value x))
    | ((try lift_lets); intro x; try clear_value x)
    | split
    | with_reducible refine Steady.upd ?_ rfl rfl rfl rfl

theorem markSuspect_steady (x0) (h : Steady s₀ s) : Steady s₀ (markSuspect x0 s) := by
  unfold markSuspect
  repeat' first
    | with_reducible assumption
    | with_reducible apply wr_steady
    | with_reducible apply setReg_steady
    | with_reducible apply temperaturesChanged_steady
    | with_reducible apply log_steady
    | with_reducible apply Steady.ite
    | ((try lift_lets); intro x; refine (?_ : Steady s₀ x → _) ?_; focus (intro hx; clear_value x))
    | ((try lift_lets); intro x; try clear_value x)
    | split

end Sys2Proof.Machine
end

