-- ==== Sys2Proof/Laws/SteadyConverter.lean ====
section
/-! SUPPORT. The operations of Converter.lean are steady (Steady.lean). -/

namespace Sys2Proof.Machine

variable {s₀ s : State}

theorem advanceScan_steady (x0) (x1) (h : Steady s₀ s) : Steady s₀ (advanceScan x0 x1 s) := by
  unfold advanceScan
  repeat' first
    | with_reducible assumption
    | with_reducible apply startConv_steady
    | with_reducible apply scanFrom_steady
    | with_reducible apply incWrap_steady
    | with_reducible apply Steady.ite
    | split

theorem pushFifo_steady (x0) (h : Steady s₀ s) : Steady s₀ (pushFifo x0 s) := by
  unfold pushFifo
  repeat' first
    | with_reducible assumption
    | with_reducible apply setMcv_steady
    | with_reducible apply incHold_steady
    | with_reducible apply wr_steady
    | refine fun x (hx : Steady s₀ x) a => ?_
    | refine fun x (hx : Steady s₀ x) => ?_
    | with_reducible apply Steady.ite
    | split
    | with_reducible refine Steady.upd ?_ rfl rfl rfl rfl

theorem startSelfCal_steady (h : Steady s₀ s) : Steady s₀ (startSelfCal s) := by
  unfold startSelfCal
  repeat' first
    | with_reducible assumption
    | with_reducible apply wr_steady
    | with_reducible apply stopScan_steady
    | with_reducible apply Steady.ite
    | ((try lift_lets); intro x; refine (?_ : Steady s₀ x → _) ?_; focus (intro hx; clear_value x))
    | ((try lift_lets); intro x; try clear_value x)
    | split

theorem restartScan_steady (h : Steady s₀ s) : Steady s₀ (restartScan s) := by
  unfold restartScan
  repeat' first
    | with_reducible assumption
    | with_reducible apply scanFrom_steady
    | with_reducible apply setMcv_steady
    | refine fun x (hx : Steady s₀ x) a => ?_
    | refine fun x (hx : Steady s₀ x) => ?_
    | with_reducible apply Steady.ite
    | split
    | with_reducible refine Steady.upd ?_ rfl rfl rfl rfl

theorem mcvCmdWrite_steady (x0) (h : Steady s₀ s) : Steady s₀ (mcvCmdWrite x0 s) := by
  unfold mcvCmdWrite
  repeat' first
    | with_reducible assumption
    | with_reducible apply guarded_steady
    | with_reducible apply logIgnored_steady
    | with_reducible apply startSelfCal_steady
    | with_reducible apply restartScan_steady
    | refine fun x (hx : Steady s₀ x) a => ?_
    | refine fun x (hx : Steady s₀ x) => ?_
    | with_reducible apply Steady.ite
    | ((try lift_lets); intro x; refine (?_ : Steady s₀ x → _) ?_; focus (intro hx; clear_value x))
    | ((try lift_lets); intro x; try clear_value x)
    | split

theorem selfCalFailed_steady (h : Steady s₀ s) : Steady s₀ (selfCalFailed s) := by
  unfold selfCalFailed
  repeat' first
    | with_reducible assumption
    | with_reducible apply wr_steady
    | with_reducible apply setMcv_steady
    | with_reducible apply temperaturesChanged_steady
    | refine fun x (hx : Steady s₀ x) a => ?_
    | refine fun x (hx : Steady s₀ x) => ?_
    | with_reducible apply Steady.ite
    | ((try lift_lets); intro x; refine (?_ : Steady s₀ x → _) ?_; focus (intro hx; clear_value x))
    | ((try lift_lets); intro x; try clear_value x)
    | split
    | with_reducible refine Steady.upd ?_ rfl rfl rfl rfl

theorem selfCalPassed_steady (x0) (x1) (h : Steady s₀ s) : Steady s₀ (selfCalPassed x0 x1 s) := by
  unfold selfCalPassed
  repeat' first
    | with_reducible assumption
    | with_reducible apply wrs_steady
    | with_reducible apply wr_steady
    | with_reducible apply setMcv_steady
    | with_reducible apply temperaturesChanged_steady
    | refine fun x (hx : Steady s₀ x) a => ?_
    | refine fun x (hx : Steady s₀ x) => ?_
    | with_reducible apply Steady.ite
    | ((try lift_lets); intro x; refine (?_ : Steady s₀ x → _) ?_; focus (intro hx; clear_value x))
    | ((try lift_lets); intro x; try clear_value x)
    | split
    | with_reducible refine Steady.upd ?_ rfl rfl rfl rfl

theorem beginCal_steady (h : Steady s₀ s) : Steady s₀ (beginCal s) := by
  unfold beginCal
  repeat' first
    | with_reducible assumption
    | with_reducible apply wr_steady
    | with_reducible apply setGlb_steady
    | with_reducible apply Steady.ite
    | ((try lift_lets); intro x; refine (?_ : Steady s₀ x → _) ?_; focus (intro hx; clear_value x))
    | ((try lift_lets); intro x; try clear_value x)
    | split

theorem bootSettled_steady (h : Steady s₀ s) : Steady s₀ (bootSettled s) := by
  unfold bootSettled
  repeat' first
    | with_reducible assumption
    | with_reducible apply beginCal_steady
    | with_reducible apply startSelfCal_steady
    | with_reducible apply Steady.ite
    | split

theorem bootCalibrated_steady (x0) (h : Steady s₀ s) : Steady s₀ (bootCalibrated x0 s) := by
  unfold bootCalibrated
  repeat' first
    | with_reducible assumption
    | with_reducible apply startSelfCal_steady
    | with_reducible apply beginCal_steady
    | with_reducible apply Steady.ite
    | split

theorem refbufWrite_steady (x0) (h : Steady s₀ s) : Steady s₀ (refbufWrite x0 s) := by
  unfold refbufWrite
  repeat' first
    | with_reducible assumption
    | with_reducible apply guarded_steady
    | with_reducible apply logIgnored_steady
    | with_reducible apply setRefbuf_steady
    | refine fun x (hx : Steady s₀ x) a => ?_
    | refine fun x (hx : Steady s₀ x) => ?_
    | with_reducible apply Steady.ite
    | split

theorem mcvCtlWrite_steady (x0) (h : Steady s₀ s) : Steady s₀ (mcvCtlWrite x0 s) := by
  unfold mcvCtlWrite
  repeat' first
    | with_reducible assumption
    | with_reducible apply guarded_steady
    | with_reducible apply wtake_steady
    | with_reducible apply setMcv_steady
    | refine fun x (hx : Steady s₀ x) a => ?_
    | refine fun x (hx : Steady s₀ x) => ?_
    | with_reducible apply Steady.ite
    | ((try lift_lets); intro x; refine (?_ : Steady s₀ x → _) ?_; focus (intro hx; clear_value x))
    | ((try lift_lets); intro x; try clear_value x)
    | split
    | with_reducible refine Steady.upd ?_ rfl rfl rfl rfl

theorem fifoRead_steady (x0) (x1) (h : Steady s₀ s) : Steady s₀ (fifoRead x0 x1 s) := by
  unfold fifoRead
  repeat' first
    | with_reducible assumption
    | with_reducible apply viaBar_steady
    | with_reducible apply answer_steady
    | with_reducible apply setMcv_steady
    | refine fun x (hx : Steady s₀ x) a => ?_
    | refine fun x (hx : Steady s₀ x) => ?_
    | with_reducible apply Steady.ite
    | ((try lift_lets); intro x; refine (?_ : Steady s₀ x → _) ?_; focus (intro hx; clear_value x))
    | ((try lift_lets); intro x; try clear_value x)
    | split
    | with_reducible refine Steady.upd ?_ rfl rfl rfl rfl

end Sys2Proof.Machine
end

