-- ==== Sys2Proof/Laws/SteadyPower.lean ====
section
/-! SUPPORT. The operations of Power.lean are steady (Steady.lean). -/

namespace Sys2Proof.Machine

variable {s₀ s : State}

theorem gate_steady (x0) (h : Steady s₀ s) : Steady s₀ (gate x0 s) := by
  unfold gate
  repeat' first
    | with_reducible assumption
    | with_reducible apply wr_steady
    | with_reducible apply setRefbuf_steady
    | refine fun x (hx : Steady s₀ x) a => ?_
    | refine fun x (hx : Steady s₀ x) => ?_
    | with_reducible apply Steady.ite
    | with_reducible apply Steady.foldl
    | ((try lift_lets); intro x; refine (?_ : Steady s₀ x → _) ?_; focus (intro hx; clear_value x))
    | ((try lift_lets); intro x; try clear_value x)
    | split
    | with_reducible refine Steady.upd ?_ rfl rfl rfl rfl

theorem evaluatePower_steady (h : Steady s₀ s) : Steady s₀ (evaluatePower s) := by
  unfold evaluatePower
  repeat' first
    | with_reducible assumption
    | with_reducible apply wr_steady
    | with_reducible apply gate_steady
    | refine fun x (hx : Steady s₀ x) a => ?_
    | refine fun x (hx : Steady s₀ x) => ?_
    | with_reducible apply Steady.ite
    | ((try lift_lets); intro x; refine (?_ : Steady s₀ x → _) ?_; focus (intro hx; clear_value x))
    | ((try lift_lets); intro x; try clear_value x)
    | split
    | with_reducible refine Steady.upd ?_ rfl rfl rfl rfl
    | (simp only [id_eq]; with_reducible assumption)

theorem powerAtScan_steady (h : Steady s₀ s) : Steady s₀ (powerAtScan s) := by
  unfold powerAtScan
  repeat' first
    | with_reducible assumption
    | with_reducible apply evaluatePower_steady
    | with_reducible apply Steady.ite
    | ((try lift_lets); intro x; refine (?_ : Steady s₀ x → _) ?_; focus (intro hx; clear_value x))
    | ((try lift_lets); intro x; try clear_value x)
    | split
    | with_reducible refine Steady.upd ?_ rfl rfl rfl rfl

theorem wakeForPosted_steady (h : Steady s₀ s) : Steady s₀ (wakeForPosted s) := by
  unfold wakeForPosted
  repeat' first
    | with_reducible assumption
    | with_reducible apply wakePart_steady
    | with_reducible apply Steady.ite
    | split

end Sys2Proof.Machine
end

