-- ==== Sys2Proof/Laws/SteadyFaults.lean ====
section
/-! SUPPORT. The operations of Faults.lean are steady (Steady.lean). -/

namespace Sys2Proof.Machine

variable {s₀ s : State}

theorem logAbsorbed_steady (x0) (x1) (x2) (x3) (h : Steady s₀ s) : Steady s₀ (logAbsorbed x0 x1 x2 x3 s) := by
  unfold logAbsorbed
  repeat' first
    | with_reducible assumption
    | with_reducible apply log_steady

theorem noteRegion_steady (x0) (x1) (h : Steady s₀ s) : Steady s₀ (noteRegion x0 x1 s) := by
  unfold noteRegion
  repeat' first
    | with_reducible assumption
    | with_reducible apply log_steady
    | with_reducible apply wr_steady

theorem recordFail_steady (x0) (x1) (h : Steady s₀ s) : Steady s₀ (recordFail x0 x1 s) := by
  unfold recordFail
  repeat' first
    | with_reducible assumption
    | with_reducible apply wr_steady
    | with_reducible apply Steady.ite
    | split

theorem assignSpare_steady (x0) (x1) (h : Steady s₀ s) : Steady s₀ (assignSpare x0 x1 s) := by
  unfold assignSpare
  repeat' first
    | with_reducible assumption
    | with_reducible apply setRegion_steady
    | with_reducible apply wr_steady
    | with_reducible apply logAbsorbed_steady
    | with_reducible apply noteRegion_steady
    | with_reducible apply raiseTin_steady
    | refine fun x (hx : Steady s₀ x) a => ?_
    | refine fun x (hx : Steady s₀ x) => ?_
    | ((try lift_lets); intro x; refine (?_ : Steady s₀ x → _) ?_; focus (intro hx; clear_value x))
    | ((try lift_lets); intro x; try clear_value x)
    | split
    | with_reducible refine Steady.upd ?_ rfl rfl rfl rfl

theorem failKeep_steady (x0) (h : Steady s₀ s) : Steady s₀ (failKeep x0 s) := by
  unfold failKeep
  repeat' first
    | with_reducible assumption
    | with_reducible apply wr_steady
    | with_reducible apply wrb_steady
    | with_reducible apply noteRegion_steady
    | with_reducible apply voidRunning_steady
    | with_reducible apply wantRegion_steady
    | with_reducible apply haltNoKeep_steady
    | with_reducible apply Steady.ite
    | ((try lift_lets); intro x; refine (?_ : Steady s₀ x → _) ?_; focus (intro hx; clear_value x))
    | ((try lift_lets); intro x; try clear_value x)
    | split
    | with_reducible refine Steady.upd ?_ rfl rfl rfl rfl

theorem failSpare_steady (x0) (h : Steady s₀ s) : Steady s₀ (failSpare x0 s) := by
  unfold failSpare
  repeat' first
    | with_reducible assumption
    | with_reducible apply wr_steady
    | with_reducible apply setRegion_steady
    | with_reducible apply assignSpare_steady
    | with_reducible apply noteRegion_steady
    | refine fun x (hx : Steady s₀ x) a => ?_
    | refine fun x (hx : Steady s₀ x) => ?_
    | ((try lift_lets); intro x; refine (?_ : Steady s₀ x → _) ?_; focus (intro hx; clear_value x))
    | ((try lift_lets); intro x; try clear_value x)
    | split
    | with_reducible refine Steady.upd ?_ rfl rfl rfl rfl

theorem failService_steady (x0) (h : Steady s₀ s) : Steady s₀ (failService x0 s) := by
  unfold failService
  repeat' first
    | with_reducible assumption
    | with_reducible apply recordFail_steady
    | with_reducible apply wr_steady
    | with_reducible apply wantRegion_steady
    | with_reducible apply unwantRegion_steady
    | with_reducible apply voidRunning_steady
    | with_reducible apply assignSpare_steady
    | ((try lift_lets); intro x; refine (?_ : Steady s₀ x → _) ?_; focus (intro hx; clear_value x))
    | ((try lift_lets); intro x; try clear_value x)

theorem retireRegion_steady (x0) (h : Steady s₀ s) : Steady s₀ (retireRegion x0 s) := by
  unfold retireRegion
  repeat' first
    | with_reducible assumption
    | with_reducible apply failKeep_steady
    | with_reducible apply failSpare_steady
    | with_reducible apply failService_steady
    | with_reducible apply Steady.ite
    | split

theorem retireBlock_steady (x0) (x1) (h : Steady s₀ s) : Steady s₀ (retireBlock x0 x1 s) := by
  unfold retireBlock
  repeat' first
    | with_reducible assumption
    | with_reducible apply setBlock_steady
    | with_reducible apply updateSuspect_steady
    | with_reducible apply incHold_steady
    | with_reducible apply wr_steady
    | with_reducible apply logAbsorbed_steady
    | with_reducible apply log_steady
    | with_reducible apply setRegion_steady
    | with_reducible apply wantBlock_steady
    | with_reducible apply retireRegion_steady
    | refine fun x (hx : Steady s₀ x) a => ?_
    | refine fun x (hx : Steady s₀ x) => ?_
    | with_reducible apply Steady.ite
    | ((try lift_lets); intro x; refine (?_ : Steady s₀ x → _) ?_; focus (intro hx; clear_value x))
    | ((try lift_lets); intro x; try clear_value x)
    | split
    | with_reducible refine Steady.upd ?_ rfl rfl rfl rfl

theorem stageRemap_steady (x0) (x1) (x2) (x3) (x4) (h : Steady s₀ s) : Steady s₀ (stageRemap x0 x1 x2 x3 x4 s) := by
  unfold stageRemap
  repeat' first
    | with_reducible assumption
    | with_reducible apply setBlock_steady
    | with_reducible apply logAbsorbed_steady
    | with_reducible apply wantBlock_steady
    | refine fun x (hx : Steady s₀ x) a => ?_
    | refine fun x (hx : Steady s₀ x) => ?_
    | with_reducible apply Steady.ite
    | ((try lift_lets); intro x; refine (?_ : Steady s₀ x → _) ?_; focus (intro hx; clear_value x))
    | ((try lift_lets); intro x; try clear_value x)
    | split
    | with_reducible refine Steady.upd ?_ rfl rfl rfl rfl

theorem coverColumn_steady (x0) (x1) (x2) (x3) (x4) (x5) (h : Steady s₀ s) : Steady s₀ (coverColumn x0 x1 x2 x3 x4 x5 s) := by
  unfold coverColumn
  repeat' first
    | with_reducible assumption
    | with_reducible apply stageRemap_steady
    | with_reducible apply retireBlock_steady
    | split
    | with_reducible refine Steady.upd ?_ rfl rfl rfl rfl

theorem remapColumn_steady (x0) (x1) (x2) (x3) (h : Steady s₀ s) : Steady s₀ (remapColumn x0 x1 x2 x3 s) := by
  unfold remapColumn
  repeat' first
    | with_reducible assumption
    | with_reducible apply setBlock_steady
    | with_reducible apply coverColumn_steady
    | refine fun x (hx : Steady s₀ x) a => ?_
    | refine fun x (hx : Steady s₀ x) => ?_
    | with_reducible apply Steady.ite
    | ((try lift_lets); intro x; refine (?_ : Steady s₀ x → _) ?_; focus (intro hx; clear_value x))
    | ((try lift_lets); intro x; try clear_value x)
    | split
    | with_reducible refine Steady.upd ?_ rfl rfl rfl rfl

theorem remapColumns_steady (x0) (x1) (x2) (h : Steady s₀ s) : Steady s₀ (remapColumns x0 x1 x2 s) := by
  unfold remapColumns
  repeat' first
    | with_reducible assumption
    | with_reducible apply remapColumn_steady
    | refine fun x (hx : Steady s₀ x) a => ?_
    | refine fun x (hx : Steady s₀ x) => ?_
    | with_reducible apply Steady.foldl

theorem clearRegion_steady (x0) (h : Steady s₀ s) : Steady s₀ (clearRegion x0 s) := by
  unfold clearRegion
  repeat' first
    | with_reducible assumption
    | with_reducible apply setRegion_steady
    | with_reducible apply setReg_steady
    | with_reducible apply wr_steady
    | refine fun x (hx : Steady s₀ x) a => ?_
    | refine fun x (hx : Steady s₀ x) => ?_
    | ((try lift_lets); intro x; refine (?_ : Steady s₀ x → _) ?_; focus (intro hx; clear_value x))
    | ((try lift_lets); intro x; try clear_value x)
    | with_reducible refine Steady.upd ?_ rfl rfl rfl rfl

theorem dropWork_steady (x0) (h : Steady s₀ s) : Steady s₀ (dropWork x0 s) := by
  unfold dropWork
  repeat' first
    | with_reducible assumption
    | with_reducible apply setRunning_steady
    | with_reducible apply mapBlocks_steady
    | refine fun x (hx : Steady s₀ x) a => ?_
    | refine fun x (hx : Steady s₀ x) => ?_
    | with_reducible apply Steady.ite
    | with_reducible apply Steady.foldl
    | ((try lift_lets); intro x; refine (?_ : Steady s₀ x → _) ?_; focus (intro hx; clear_value x))
    | ((try lift_lets); intro x; try clear_value x)
    | split
    | with_reducible refine Steady.upd ?_ rfl rfl rfl rfl
    | (simp only [id_eq]; with_reducible assumption)

theorem resetRegion_steady (x0) (x1) (h : Steady s₀ s) : Steady s₀ (resetRegion x0 x1 s) := by
  unfold resetRegion
  repeat' first
    | with_reducible assumption
    | with_reducible apply log_steady
    | with_reducible apply wr_steady
    | with_reducible apply incHold_steady
    | with_reducible apply dropWork_steady
    | with_reducible apply clearRegion_steady
    | with_reducible apply setRegion_steady
    | with_reducible apply voidRunning_steady
    | with_reducible apply retireRegion_steady
    | with_reducible apply wantRegion_steady
    | refine fun x (hx : Steady s₀ x) a => ?_
    | refine fun x (hx : Steady s₀ x) => ?_
    | with_reducible apply Steady.ite
    | ((try lift_lets); intro x; refine (?_ : Steady s₀ x → _) ?_; focus (intro hx; clear_value x))
    | ((try lift_lets); intro x; try clear_value x)
    | split
    | with_reducible refine Steady.upd ?_ rfl rfl rfl rfl

theorem takeOver_steady (x0) (h : Steady s₀ s) : Steady s₀ (takeOver x0 s) := by
  unfold takeOver
  repeat' first
    | with_reducible assumption
    | with_reducible apply wr_steady
    | with_reducible apply setRegion_steady
    | with_reducible apply unwantRegion_steady
    | refine fun x (hx : Steady s₀ x) a => ?_
    | refine fun x (hx : Steady s₀ x) => ?_
    | with_reducible apply Steady.ite
    | ((try lift_lets); intro x; refine (?_ : Steady s₀ x → _) ?_; focus (intro hx; clear_value x))
    | ((try lift_lets); intro x; try clear_value x)
    | split
    | with_reducible refine Steady.upd ?_ rfl rfl rfl rfl

end Sys2Proof.Machine
end

