-- ==== Sys2Proof/Laws/SteadyStandIn.lean ====
section
/-! SUPPORT. The operations of StandIn.lean are steady (Steady.lean). -/

namespace Sys2Proof.Machine

variable {s₀ s : State}

theorem putResidual_steady (x0) (x1) (h : Steady s₀ s) : Steady s₀ (putResidual x0 x1 s) := by
  unfold putResidual
  repeat' first
    | with_reducible assumption
    | with_reducible apply putScr_steady
    | with_reducible apply Steady.ite
    | ((try lift_lets); intro x; refine (?_ : Steady s₀ x → _) ?_; focus (intro hx; clear_value x))
    | ((try lift_lets); intro x; try clear_value x)
    | split

theorem changeBand_steady (x0) (h : Steady s₀ s) : Steady s₀ (changeBand x0 s) := by
  unfold changeBand
  repeat' first
    | with_reducible assumption
    | with_reducible apply wr_steady
    | with_reducible apply setRegion_steady
    | with_reducible apply mapBlocks_steady
    | refine fun x (hx : Steady s₀ x) a => ?_
    | refine fun x (hx : Steady s₀ x) => ?_
    | with_reducible apply Steady.ite
    | ((try lift_lets); intro x; refine (?_ : Steady s₀ x → _) ?_; focus (intro hx; clear_value x))
    | ((try lift_lets); intro x; try clear_value x)
    | split
    | with_reducible refine Steady.upd ?_ rfl rfl rfl rfl

theorem commitFactors_steady (h : Steady s₀ s) : Steady s₀ (commitFactors s) := by
  unfold commitFactors
  repeat' first
    | with_reducible assumption
    | with_reducible apply changeBand_steady
    | with_reducible apply enterBand_steady
    | with_reducible apply mapBlocks_steady
    | with_reducible apply wr_steady
    | refine fun x (hx : Steady s₀ x) a => ?_
    | refine fun x (hx : Steady s₀ x) => ?_
    | with_reducible apply Steady.ite
    | with_reducible apply Steady.foldl
    | ((try lift_lets); intro x; refine (?_ : Steady s₀ x → _) ?_; focus (intro hx; clear_value x))
    | ((try lift_lets); intro x; try clear_value x)
    | split
    | with_reducible refine Steady.upd ?_ rfl rfl rfl rfl

theorem commitFigures_steady (h : Steady s₀ s) : Steady s₀ (commitFigures s) := by
  unfold commitFigures
  repeat' first
    | with_reducible assumption
    | with_reducible apply mapBlocks_steady
    | refine fun x (hx : Steady s₀ x) a => ?_
    | refine fun x (hx : Steady s₀ x) => ?_

theorem latchTemps_steady (h : Steady s₀ s) : Steady s₀ (latchTemps s) := by
  unfold latchTemps
  repeat' first
    | with_reducible assumption
    | with_reducible apply setRegion_steady
    | refine fun x (hx : Steady s₀ x) a => ?_
    | refine fun x (hx : Steady s₀ x) => ?_
    | with_reducible apply Steady.foldl
    | with_reducible refine Steady.upd ?_ rfl rfl rfl rfl

theorem endStandIn_steady (x0) (x1) (h : Steady s₀ s) : Steady s₀ (endStandIn x0 x1 s) := by
  unfold endStandIn
  repeat' first
    | with_reducible assumption
    | with_reducible apply setRow_steady
    | with_reducible apply setBlock_steady
    | refine fun x (hx : Steady s₀ x) a => ?_
    | refine fun x (hx : Steady s₀ x) => ?_
    | with_reducible apply Steady.foldl
    | ((try lift_lets); intro x; refine (?_ : Steady s₀ x → _) ?_; focus (intro hx; clear_value x))
    | ((try lift_lets); intro x; try clear_value x)
    | with_reducible refine Steady.upd ?_ rfl rfl rfl rfl

theorem startStandIn_steady (x0) (x1) (h : Steady s₀ s) : Steady s₀ (startStandIn x0 x1 s) := by
  unfold startStandIn
  repeat' first
    | with_reducible assumption
    | with_reducible apply setBlock_steady
    | refine fun x (hx : Steady s₀ x) a => ?_
    | refine fun x (hx : Steady s₀ x) => ?_
    | with_reducible apply Steady.ite
    | ((try lift_lets); intro x; refine (?_ : Steady s₀ x → _) ?_; focus (intro hx; clear_value x))
    | ((try lift_lets); intro x; try clear_value x)
    | split
    | with_reducible refine Steady.upd ?_ rfl rfl rfl rfl

theorem latchBlocks_steady (x0) (h : Steady s₀ s) : Steady s₀ (latchBlocks x0 s) := by
  unfold latchBlocks
  repeat' first
    | with_reducible assumption
    | with_reducible apply mapBlocks_steady
    | with_reducible apply endStandIn_steady
    | with_reducible apply startStandIn_steady
    | refine fun x (hx : Steady s₀ x) a => ?_
    | refine fun x (hx : Steady s₀ x) => ?_
    | with_reducible apply Steady.ite
    | with_reducible apply Steady.foldl
    | ((try lift_lets); intro x; refine (?_ : Steady s₀ x → _) ?_; focus (intro hx; clear_value x))
    | ((try lift_lets); intro x; try clear_value x)
    | split

theorem abandonPlanned_steady (x0) (h : Steady s₀ s) : Steady s₀ (abandonPlanned x0 s) := by
  unfold abandonPlanned
  repeat' first
    | with_reducible assumption
    | with_reducible apply wr_steady
    | with_reducible apply unwantRegion_steady
    | with_reducible apply Steady.ite
    | split

theorem placeDone_steady (h : Steady s₀ s) : Steady s₀ (placeDone s) := by
  unfold placeDone
  repeat' first
    | with_reducible assumption
    | refine fun x (hx : Steady s₀ x) a => ?_
    | refine fun x (hx : Steady s₀ x) => ?_
    | with_reducible apply Steady.ite
    | split
    | with_reducible refine Steady.upd ?_ rfl rfl rfl rfl

theorem latchRegions_steady (h : Steady s₀ s) : Steady s₀ (latchRegions s) := by
  unfold latchRegions
  repeat' first
    | with_reducible assumption
    | with_reducible apply placeDone_steady
    | with_reducible apply abandonPlanned_steady
    | refine fun x (hx : Steady s₀ x) a => ?_
    | refine fun x (hx : Steady s₀ x) => ?_
    | with_reducible apply Steady.ite
    | ((try lift_lets); intro x; refine (?_ : Steady s₀ x → _) ?_; focus (intro hx; clear_value x))
    | ((try lift_lets); intro x; try clear_value x)
    | split
    | with_reducible refine Steady.upd ?_ rfl rfl rfl rfl

theorem latchSpares_steady (h : Steady s₀ s) : Steady s₀ (latchSpares s) := by
  unfold latchSpares
  repeat' first
    | with_reducible assumption
    | with_reducible apply unwantBlock_steady
    | with_reducible apply setRegion_steady
    | with_reducible apply takeOver_steady
    | refine fun x (hx : Steady s₀ x) a => ?_
    | refine fun x (hx : Steady s₀ x) => ?_
    | with_reducible apply Steady.foldl
    | ((try lift_lets); intro x; refine (?_ : Steady s₀ x → _) ?_; focus (intro hx; clear_value x))
    | ((try lift_lets); intro x; try clear_value x)
    | with_reducible refine Steady.upd ?_ rfl rfl rfl rfl

theorem latchStandIn_steady (h : Steady s₀ s) : Steady s₀ (latchStandIn s) := by
  unfold latchStandIn
  repeat' first
    | with_reducible assumption
    | with_reducible apply latchRegions_steady
    | with_reducible apply latchSpares_steady
    | with_reducible apply latchBlocks_steady
    | refine fun x (hx : Steady s₀ x) a => ?_
    | refine fun x (hx : Steady s₀ x) => ?_
    | with_reducible apply Steady.foldl
    | ((try lift_lets); intro x; refine (?_ : Steady s₀ x → _) ?_; focus (intro hx; clear_value x))
    | ((try lift_lets); intro x; try clear_value x)

theorem settleAffected_steady (h : Steady s₀ s) : Steady s₀ (settleAffected s) := by
  unfold settleAffected
  repeat' first
    | with_reducible assumption
    | with_reducible apply wr_steady
    | refine fun x (hx : Steady s₀ x) a => ?_
    | refine fun x (hx : Steady s₀ x) => ?_
    | with_reducible apply Steady.ite
    | ((try lift_lets); intro x; refine (?_ : Steady s₀ x → _) ?_; focus (intro hx; clear_value x))
    | ((try lift_lets); intro x; try clear_value x)
    | split
    | with_reducible refine Steady.upd ?_ rfl rfl rfl rfl

theorem putResiduals_steady (x0) (h : Steady s₀ s) : Steady s₀ (putResiduals x0 s) := by
  unfold putResiduals
  repeat' first
    | with_reducible assumption
    | with_reducible apply putResidual_steady
    | refine fun x (hx : Steady s₀ x) a => ?_
    | refine fun x (hx : Steady s₀ x) => ?_
    | with_reducible apply Steady.ite
    | with_reducible apply Steady.foldl
    | split

theorem latchArrays_steady (h : Steady s₀ s) : Steady s₀ (latchArrays s) := by
  unfold latchArrays
  repeat' first
    | with_reducible assumption
    | with_reducible apply putResiduals_steady
    | with_reducible apply settleAffected_steady
    | with_reducible apply latchStandIn_steady
    | with_reducible apply commitFigures_steady
    | with_reducible apply latchTemps_steady
    | with_reducible apply commitFactors_steady

theorem settle_steady (h : Steady s₀ s) : Steady s₀ (settle s) := by
  unfold settle
  repeat' first
    | with_reducible assumption
    | with_reducible apply latchArrays_steady
    | with_reducible apply Steady.ite
    | split

end Sys2Proof.Machine
end

