-- ==== Sys2Proof/Laws/SteadyCalibration.lean ====
section
/-! SUPPORT. The operations of Calibration.lean are steady (Steady.lean). -/

namespace Sys2Proof.Machine

variable {s₀ s : State}

theorem failBlock_steady (x0) (x1) (h : Steady s₀ s) : Steady s₀ (failBlock x0 x1 s) := by
  unfold failBlock
  repeat' first
    | with_reducible assumption
    | with_reducible apply retireBlock_steady
    | with_reducible apply settle_steady
    | with_reducible apply wantBlock_steady
    | with_reducible apply setBlock_steady
    | refine fun x (hx : Steady s₀ x) a => ?_
    | refine fun x (hx : Steady s₀ x) => ?_
    | with_reducible apply Steady.ite
    | ((try lift_lets); intro x; refine (?_ : Steady s₀ x → _) ?_; focus (intro hx; clear_value x))
    | ((try lift_lets); intro x; try clear_value x)
    | split
    | with_reducible refine Steady.upd ?_ rfl rfl rfl rfl

theorem fallDue_steady (x0) (x1) (x2) (h : Steady s₀ s) : Steady s₀ (fallDue x0 x1 x2 s) := by
  unfold fallDue
  repeat' first
    | with_reducible assumption
    | with_reducible apply setBlock_steady
    | with_reducible apply settle_steady
    | with_reducible apply wantBlock_steady
    | refine fun x (hx : Steady s₀ x) a => ?_
    | refine fun x (hx : Steady s₀ x) => ?_
    | with_reducible apply Steady.ite
    | ((try lift_lets); intro x; refine (?_ : Steady s₀ x → _) ?_; focus (intro hx; clear_value x))
    | ((try lift_lets); intro x; try clear_value x)
    | split
    | with_reducible refine Steady.upd ?_ rfl rfl rfl rfl

theorem endDriftRead_steady (x0) (x1) (x2) (x3) (h : Steady s₀ s) : Steady s₀ (endDriftRead x0 x1 x2 x3 s) := by
  unfold endDriftRead
  repeat' first
    | with_reducible assumption
    | with_reducible apply setBlock_steady
    | with_reducible apply fallDue_steady
    | refine fun x (hx : Steady s₀ x) a => ?_
    | refine fun x (hx : Steady s₀ x) => ?_
    | with_reducible apply Steady.ite
    | ((try lift_lets); intro x; refine (?_ : Steady s₀ x → _) ?_; focus (intro hx; clear_value x))
    | ((try lift_lets); intro x; try clear_value x)
    | split
    | with_reducible refine Steady.upd ?_ rfl rfl rfl rfl

theorem readDrift_steady (x0) (x1) (x2) (x3) (h : Steady s₀ s) : Steady s₀ (readDrift x0 x1 x2 x3 s) := by
  unfold readDrift
  repeat' first
    | with_reducible assumption
    | with_reducible apply setBlock_steady
    | refine fun x (hx : Steady s₀ x) a => ?_
    | refine fun x (hx : Steady s₀ x) => ?_
    | ((try lift_lets); intro x; refine (?_ : Steady s₀ x → _) ?_; focus (intro hx; clear_value x))
    | ((try lift_lets); intro x; try clear_value x)
    | with_reducible refine Steady.upd ?_ rfl rfl rfl rfl

theorem driftSlot_steady (x0) (x1) (h : Steady s₀ s) : Steady s₀ (driftSlot x0 x1 s) := by
  unfold driftSlot
  repeat' first
    | with_reducible assumption
    | with_reducible apply setBlock_steady
    | with_reducible apply readDrift_steady
    | with_reducible apply endDriftRead_steady
    | refine fun x (hx : Steady s₀ x) a => ?_
    | refine fun x (hx : Steady s₀ x) => ?_
    | with_reducible apply Steady.ite
    | ((try lift_lets); intro x; refine (?_ : Steady s₀ x → _) ?_; focus (intro hx; clear_value x))
    | ((try lift_lets); intro x; try clear_value x)
    | split
    | with_reducible refine Steady.upd ?_ rfl rfl rfl rfl

theorem driftAll_steady (x0) (x1) (x2) (x3) (h : Steady s₀ s) : Steady s₀ (driftAll x0 x1 x2 x3 s) := by
  unfold driftAll
  repeat' first
    | with_reducible assumption
    | with_reducible apply endDriftRead_steady
    | with_reducible apply readDrift_steady
    | refine fun x (hx : Steady s₀ x) a => ?_
    | refine fun x (hx : Steady s₀ x) => ?_
    | with_reducible apply Steady.foldl

theorem startPass_steady (x0) (x1) (x2) (h : Steady s₀ s) : Steady s₀ (startPass x0 x1 x2 s) := by
  unfold startPass
  repeat' first
    | with_reducible assumption
    | with_reducible apply setBlock_steady
    | refine fun x (hx : Steady s₀ x) a => ?_
    | refine fun x (hx : Steady s₀ x) => ?_
    | ((try lift_lets); intro x; refine (?_ : Steady s₀ x → _) ?_; focus (intro hx; clear_value x))
    | ((try lift_lets); intro x; try clear_value x)
    | with_reducible refine Steady.upd ?_ rfl rfl rfl rfl

theorem passSlot_steady (x0) (x1) (h : Steady s₀ s) : Steady s₀ (passSlot x0 x1 s) := by
  unfold passSlot
  repeat' first
    | with_reducible assumption
    | with_reducible apply setBlock_steady
    | refine fun x (hx : Steady s₀ x) a => ?_
    | refine fun x (hx : Steady s₀ x) => ?_
    | with_reducible apply Steady.ite
    | ((try lift_lets); intro x; refine (?_ : Steady s₀ x → _) ?_; focus (intro hx; clear_value x))
    | ((try lift_lets); intro x; try clear_value x)
    | split
    | with_reducible refine Steady.upd ?_ rfl rfl rfl rfl

theorem calSlot_steady (x0) (x1) (h : Steady s₀ s) : Steady s₀ (calSlot x0 x1 s) := by
  unfold calSlot
  repeat' first
    | with_reducible assumption
    | with_reducible apply driftSlot_steady
    | with_reducible apply passSlot_steady
    | with_reducible apply startPass_steady
    | with_reducible apply Steady.ite
    | ((try lift_lets); intro x; refine (?_ : Steady s₀ x → _) ?_; focus (intro hx; clear_value x))
    | ((try lift_lets); intro x; try clear_value x)
    | split
    | with_reducible refine Steady.upd ?_ rfl rfl rfl rfl

theorem schedulePass_steady (x0) (x1) (h : Steady s₀ s) : Steady s₀ (schedulePass x0 x1 s) := by
  unfold schedulePass
  repeat' first
    | with_reducible assumption
    | with_reducible apply setRegion_steady
    | with_reducible apply setBlock_steady
    | refine fun x (hx : Steady s₀ x) a => ?_
    | refine fun x (hx : Steady s₀ x) => ?_
    | with_reducible refine Steady.upd ?_ rfl rfl rfl rfl

theorem endLookAhead_steady (x0) (x1) (h : Steady s₀ s) : Steady s₀ (endLookAhead x0 x1 s) := by
  unfold endLookAhead
  repeat' first
    | with_reducible assumption
    | with_reducible apply setRegion_steady
    | refine fun x (hx : Steady s₀ x) a => ?_
    | refine fun x (hx : Steady s₀ x) => ?_
    | with_reducible apply Steady.ite
    | split
    | with_reducible refine Steady.upd ?_ rfl rfl rfl rfl

theorem stageFits_steady (x0) (x1) (x2) (x3) (h : Steady s₀ s) : Steady s₀ (stageFits x0 x1 x2 x3 s) := by
  unfold stageFits
  repeat' first
    | with_reducible assumption
    | with_reducible apply setBlock_steady
    | refine fun x (hx : Steady s₀ x) a => ?_
    | refine fun x (hx : Steady s₀ x) => ?_
    | with_reducible apply Steady.ite
    | split
    | with_reducible refine Steady.upd ?_ rfl rfl rfl rfl

theorem endPass_steady (x0) (x1) (h : Steady s₀ s) : Steady s₀ (endPass x0 x1 s) := by
  unfold endPass
  repeat' first
    | with_reducible assumption
    | with_reducible apply setBlock_steady
    | with_reducible apply wr_steady
    | with_reducible apply incWrap_steady
    | with_reducible apply settle_steady
    | with_reducible apply endLookAhead_steady
    | with_reducible apply stageFits_steady
    | with_reducible apply failBlock_steady
    | with_reducible apply log_steady
    | refine fun x (hx : Steady s₀ x) a => ?_
    | refine fun x (hx : Steady s₀ x) => ?_
    | with_reducible apply Steady.ite
    | ((try lift_lets); intro x; refine (?_ : Steady s₀ x → _) ?_; focus (intro hx; clear_value x))
    | ((try lift_lets); intro x; try clear_value x)
    | split
    | with_reducible refine Steady.upd ?_ rfl rfl rfl rfl

theorem passSlots_steady (r b n) (h : Steady s₀ s) : Steady s₀ (passSlots r b n s) := by
  induction n generalizing s with
  | zero => exact h
  | succ n ih => exact ih (passSlot_steady _ _ h)

theorem fullPass_steady (x0) (x1) (h : Steady s₀ s) : Steady s₀ (fullPass x0 x1 s) := by
  unfold fullPass
  repeat' first
    | with_reducible assumption
    | with_reducible apply endPass_steady
    | with_reducible apply passSlots_steady
    | with_reducible apply startPass_steady
    | with_reducible apply Steady.ite
    | split

theorem calCtlWrite_steady (x0) (h : Steady s₀ s) : Steady s₀ (calCtlWrite x0 s) := by
  unfold calCtlWrite
  repeat' first
    | with_reducible assumption
    | with_reducible apply guarded_steady
    | with_reducible apply wtakeLocked_steady
    | with_reducible apply queueRegion_steady
    | refine fun x (hx : Steady s₀ x) a => ?_
    | refine fun x (hx : Steady s₀ x) => ?_
    | with_reducible apply Steady.ite
    | ((try lift_lets); intro x; refine (?_ : Steady s₀ x → _) ?_; focus (intro hx; clear_value x))
    | ((try lift_lets); intro x; try clear_value x)
    | split

theorem runSet_steady (x0) (x1) (x2) (h : Steady s₀ s) : Steady s₀ (runSet x0 x1 x2 s).2 := by
  unfold runSet
  repeat' first
    | with_reducible assumption
    | with_reducible apply setBlock_steady
    | with_reducible apply remapColumns_steady
    | with_reducible apply incWrap_steady
    | refine fun x (hx : Steady s₀ x) a => ?_
    | refine fun x (hx : Steady s₀ x) => ?_
    | with_reducible apply Steady.ite
    | ((try lift_lets); intro x; refine (?_ : Steady s₀ x → _) ?_; focus (intro hx; clear_value x))
    | ((try lift_lets); intro x; try clear_value x)
    | split
    | with_reducible refine Steady.upd ?_ rfl rfl rfl rfl

theorem vectorSet_steady (x0) (x1) (x2) (h : Steady s₀ s) : Steady s₀ (vectorSet x0 x1 x2 s) := by
  unfold vectorSet
  repeat' first
    | with_reducible assumption
    | with_reducible apply runSet_steady
    | with_reducible apply settle_steady
    | with_reducible apply failBlock_steady
    | with_reducible apply Steady.ite
    | ((try lift_lets); intro x; refine (?_ : Steady s₀ x → _) ?_; focus (intro hx; clear_value x))
    | ((try lift_lets); intro x; try clear_value x)
    | split

theorem fullSet_steady (x0) (x1) (h : Steady s₀ s) : Steady s₀ (fullSet x0 x1 s) := by
  unfold fullSet
  repeat' first
    | with_reducible assumption
    | with_reducible apply vectorSet_steady
    | with_reducible apply Steady.ite
    | split

theorem rewriteFailed_steady (x0) (x1) (x2) (h : Steady s₀ s) : Steady s₀ (rewriteFailed x0 x1 x2 s) := by
  unfold rewriteFailed
  repeat' first
    | with_reducible assumption
    | with_reducible apply retireBlock_steady
    | with_reducible apply failBlock_steady
    | with_reducible apply setBlock_steady
    | refine fun x (hx : Steady s₀ x) a => ?_
    | refine fun x (hx : Steady s₀ x) => ?_
    | with_reducible apply Steady.ite
    | split
    | with_reducible refine Steady.upd ?_ rfl rfl rfl rfl

theorem endRewrite_steady (x0) (x1) (h : Steady s₀ s) : Steady s₀ (endRewrite x0 x1 s) := by
  unfold endRewrite
  repeat' first
    | with_reducible assumption
    | with_reducible apply runSet_steady
    | with_reducible apply fullPass_steady
    | with_reducible apply rewriteFailed_steady
    | with_reducible apply settle_steady
    | with_reducible apply setBlock_steady
    | with_reducible apply Steady.ite
    | ((try lift_lets); intro x; refine (?_ : Steady s₀ x → _) ?_; focus (intro hx; clear_value x))
    | ((try lift_lets); intro x; try clear_value x)
    | split

theorem sweepBlock_steady (x0) (x1) (h : Steady s₀ s) : Steady s₀ (sweepBlock x0 x1 s) := by
  unfold sweepBlock
  repeat' first
    | with_reducible assumption
    | with_reducible apply fullSet_steady
    | with_reducible apply fullPass_steady
    | with_reducible apply driftAll_steady

end Sys2Proof.Machine
end

