-- ==== Sys2Proof/Laws/SteadyIntegrity.lean ====
section
/-! SUPPORT. The operations of Integrity.lean are steady (Steady.lean). -/

namespace Sys2Proof.Machine

variable {s₀ s : State}

theorem releaseResult_steady (x0) (x1) (h : Steady s₀ s) : Steady s₀ (releaseResult x0 x1 s) := by
  unfold releaseResult
  repeat' first
    | with_reducible assumption
    | with_reducible apply deliver_steady
    | with_reducible apply Steady.ite
    | split

theorem blockWindow_steady (x0) (x1) (x2) (h : Steady s₀ s) : Steady s₀ (blockWindow x0 x1 x2 s) := by
  unfold blockWindow
  repeat' first
    | with_reducible assumption
    | with_reducible apply updateSuspect_steady
    | with_reducible apply setBlock_steady
    | with_reducible apply retireBlock_steady
    | refine fun x (hx : Steady s₀ x) a => ?_
    | refine fun x (hx : Steady s₀ x) => ?_
    | with_reducible apply Steady.ite
    | ((try lift_lets); intro x; refine (?_ : Steady s₀ x → _) ?_; focus (intro hx; clear_value x))
    | ((try lift_lets); intro x; try clear_value x)
    | split
    | with_reducible refine Steady.upd ?_ rfl rfl rfl rfl

theorem engineWindow_steady (x0) (x1) (h : Steady s₀ s) : Steady s₀ (engineWindow x0 x1 s) := by
  unfold engineWindow
  repeat' first
    | with_reducible assumption
    | with_reducible apply updateSuspect_steady
    | with_reducible apply setRegion_steady
    | with_reducible apply retireRegion_steady
    | refine fun x (hx : Steady s₀ x) a => ?_
    | refine fun x (hx : Steady s₀ x) => ?_
    | with_reducible apply Steady.ite
    | ((try lift_lets); intro x; refine (?_ : Steady s₀ x → _) ?_; focus (intro hx; clear_value x))
    | ((try lift_lets); intro x; try clear_value x)
    | split
    | with_reducible refine Steady.upd ?_ rfl rfl rfl rfl

theorem noteMismatch_steady (x0) (x1) (x2) (h : Steady s₀ s) : Steady s₀ (noteMismatch x0 x1 x2 s) := by
  unfold noteMismatch
  repeat' first
    | with_reducible assumption
    | with_reducible apply log_steady
    | with_reducible apply incHold_steady
    | with_reducible apply wr_steady

theorem judgeShadow_steady (x0) (x1) (x2) (h : Steady s₀ s) : Steady s₀ (judgeShadow x0 x1 x2 s) := by
  unfold judgeShadow
  repeat' first
    | with_reducible assumption
    | with_reducible apply blockWindow_steady
    | with_reducible apply suspectBlock_steady
    | with_reducible apply wantBlock_steady
    | with_reducible apply voidFrom_steady
    | with_reducible apply engineWindow_steady
    | with_reducible apply suspectEngine_steady
    | with_reducible apply Steady.ite
    | split

theorem compareShadow_steady (x0) (x1) (x2) (h : Steady s₀ s) : Steady s₀ (compareShadow x0 x1 x2 s) := by
  unfold compareShadow
  repeat' first
    | with_reducible assumption
    | with_reducible apply setRegion_steady
    | with_reducible apply setStep_steady
    | with_reducible apply incWrap_steady
    | with_reducible apply log_steady
    | with_reducible apply noteMismatch_steady
    | with_reducible apply judgeShadow_steady
    | with_reducible apply releaseResult_steady
    | refine fun x (hx : Steady s₀ x) a => ?_
    | refine fun x (hx : Steady s₀ x) => ?_
    | with_reducible apply Steady.ite
    | ((try lift_lets); intro x; refine (?_ : Steady s₀ x → _) ?_; focus (intro hx; clear_value x))
    | ((try lift_lets); intro x; try clear_value x)
    | split
    | with_reducible refine Steady.upd ?_ rfl rfl rfl rfl

theorem startRattle_steady (x0) (h : Steady s₀ s) : Steady s₀ (startRattle x0 s) := by
  unfold startRattle
  repeat' first
    | with_reducible assumption
    | with_reducible apply setRegion_steady
    | with_reducible apply wr_steady
    | refine fun x (hx : Steady s₀ x) a => ?_
    | refine fun x (hx : Steady s₀ x) => ?_
    | with_reducible apply Steady.ite
    | ((try lift_lets); intro x; refine (?_ : Steady s₀ x → _) ?_; focus (intro hx; clear_value x))
    | ((try lift_lets); intro x; try clear_value x)
    | split
    | with_reducible refine Steady.upd ?_ rfl rfl rfl rfl

theorem tryRattle_steady (x0) (h : Steady s₀ s) : Steady s₀ (tryRattle x0 s) := by
  unfold tryRattle
  repeat' first
    | with_reducible assumption
    | with_reducible apply wr_steady
    | with_reducible apply startRattle_steady
    | with_reducible apply settle_steady
    | with_reducible apply wantRegion_steady
    | with_reducible apply Steady.ite
    | ((try lift_lets); intro x; refine (?_ : Steady s₀ x → _) ?_; focus (intro hx; clear_value x))
    | ((try lift_lets); intro x; try clear_value x)
    | split

theorem rattleAtBoundary_steady (h : Steady s₀ s) : Steady s₀ (rattleAtBoundary s) := by
  unfold rattleAtBoundary
  repeat' first
    | with_reducible assumption
    | with_reducible apply startRattle_steady
    | with_reducible apply latchStandIn_steady
    | with_reducible apply wantRegion_steady
    | with_reducible apply Steady.ite
    | ((try lift_lets); intro x; refine (?_ : Steady s₀ x → _) ?_; focus (intro hx; clear_value x))
    | ((try lift_lets); intro x; try clear_value x)
    | split
    | with_reducible refine Steady.upd ?_ rfl rfl rfl rfl

theorem endRattle_steady (x0) (x1) (x2) (h : Steady s₀ s) : Steady s₀ (endRattle x0 x1 x2 s) := by
  unfold endRattle
  repeat' first
    | with_reducible assumption
    | with_reducible apply wr_steady
    | with_reducible apply incWrap_steady
    | with_reducible apply incHold_steady
    | with_reducible apply log_steady
    | with_reducible apply unwantRegion_steady
    | with_reducible apply Steady.ite
    | ((try lift_lets); intro x; refine (?_ : Steady s₀ x → _) ?_; focus (intro hx; clear_value x))
    | ((try lift_lets); intro x; try clear_value x)
    | split

theorem repairRegion_steady (x0) (x1) (x2) (h : Steady s₀ s) : Steady s₀ (repairRegion x0 x1 x2 s) := by
  unfold repairRegion
  repeat' first
    | with_reducible assumption
    | with_reducible apply remapColumns_steady
    | with_reducible apply retireBlock_steady
    | refine fun x (hx : Steady s₀ x) a => ?_
    | refine fun x (hx : Steady s₀ x) => ?_
    | with_reducible apply Steady.foldl
    | ((try lift_lets); intro x; refine (?_ : Steady s₀ x → _) ?_; focus (intro hx; clear_value x))
    | ((try lift_lets); intro x; try clear_value x)

theorem rgnCtlWrite_steady (x0) (x1) (h : Steady s₀ s) : Steady s₀ (rgnCtlWrite x0 x1 s) := by
  unfold rgnCtlWrite
  repeat' first
    | with_reducible assumption
    | with_reducible apply guarded_steady
    | with_reducible apply logIgnored_steady
    | with_reducible apply setRegion_steady
    | with_reducible apply settle_steady
    | with_reducible apply resetRegion_steady
    | refine fun x (hx : Steady s₀ x) a => ?_
    | refine fun x (hx : Steady s₀ x) => ?_
    | with_reducible apply Steady.ite
    | ((try lift_lets); intro x; refine (?_ : Steady s₀ x → _) ?_; focus (intro hx; clear_value x))
    | ((try lift_lets); intro x; try clear_value x)
    | split
    | with_reducible refine Steady.upd ?_ rfl rfl rfl rfl

theorem fullSets_steady (x0) (h : Steady s₀ s) : Steady s₀ (fullSets x0 s) := by
  unfold fullSets
  repeat' first
    | with_reducible assumption
    | with_reducible apply fullSet_steady
    | refine fun x (hx : Steady s₀ x) a => ?_
    | refine fun x (hx : Steady s₀ x) => ?_
    | with_reducible apply Steady.foldl

theorem qualify_steady (x0) (h : Steady s₀ s) : Steady s₀ (qualify x0 s) := by
  unfold qualify
  repeat' first
    | with_reducible assumption
    | with_reducible apply mapBlocks_steady
    | with_reducible apply setRegion_steady
    | refine fun x (hx : Steady s₀ x) a => ?_
    | refine fun x (hx : Steady s₀ x) => ?_
    | with_reducible apply Steady.ite
    | ((try lift_lets); intro x; refine (?_ : Steady s₀ x → _) ?_; focus (intro hx; clear_value x))
    | ((try lift_lets); intro x; try clear_value x)
    | split
    | with_reducible refine Steady.upd ?_ rfl rfl rfl rfl

theorem voteFix_steady (x0) (x1) (h : Steady s₀ s) : Steady s₀ (voteFix x0 x1 s) := by
  unfold voteFix
  repeat' first
    | with_reducible assumption
    | with_reducible apply wr_steady
    | with_reducible apply incHold_steady
    | with_reducible apply log_steady
    | ((try lift_lets); intro x; refine (?_ : Steady s₀ x → _) ?_; focus (intro hx; clear_value x))
    | ((try lift_lets); intro x; try clear_value x)

end Sys2Proof.Machine
end

