-- ==== Sys2Proof/Laws/SteadyRecipes.lean ====
section
/-! SUPPORT. The operations of Recipes.lean are steady (Steady.lean). -/

namespace Sys2Proof.Machine

variable {s₀ s : State}

theorem logFlag_steady (x0) (x1) (h : Steady s₀ s) : Steady s₀ (logFlag x0 x1 s) := by
  unfold logFlag
  repeat' first
    | with_reducible assumption
    | with_reducible apply log_steady

theorem queueFlag_steady (x0) (x1) (h : Steady s₀ s) : Steady s₀ (queueFlag x0 x1 s) := by
  unfold queueFlag
  repeat' first
    | with_reducible assumption
    | with_reducible apply setRegion_steady
    | with_reducible apply log_steady
    | with_reducible apply wr_steady
    | refine fun x (hx : Steady s₀ x) a => ?_
    | refine fun x (hx : Steady s₀ x) => ?_
    | with_reducible apply Steady.ite
    | ((try lift_lets); intro x; refine (?_ : Steady s₀ x → _) ?_; focus (intro hx; clear_value x))
    | ((try lift_lets); intro x; try clear_value x)
    | split
    | with_reducible refine Steady.upd ?_ rfl rfl rfl rfl

theorem noteFlag_steady (x0) (x1) (x2) (h : Steady s₀ s) : Steady s₀ (noteFlag x0 x1 x2 s) := by
  unfold noteFlag
  repeat' first
    | with_reducible assumption
    | with_reducible apply setGen_steady
    | refine fun x (hx : Steady s₀ x) a => ?_
    | refine fun x (hx : Steady s₀ x) => ?_
    | with_reducible refine Steady.upd ?_ rfl rfl rfl rfl

theorem evalLayer_steady (x0) (x1) (x2) (h : Steady s₀ s) : Steady s₀ (evalLayer x0 x1 x2 s) := by
  unfold evalLayer
  repeat' first
    | with_reducible assumption
    | with_reducible apply logFlag_steady
    | with_reducible apply queueFlag_steady
    | with_reducible apply noteFlag_steady
    | with_reducible apply Steady.ite
    | ((try lift_lets); intro x; refine (?_ : Steady s₀ x → _) ?_; focus (intro hx; clear_value x))
    | ((try lift_lets); intro x; try clear_value x)
    | split
    | with_reducible refine Steady.upd ?_ rfl rfl rfl rfl

theorem evalWindow_steady (x0) (h : Steady s₀ s) : Steady s₀ (evalWindow x0 s) := by
  unfold evalWindow
  repeat' first
    | with_reducible assumption
    | with_reducible apply evalLayer_steady
    | with_reducible apply setRegion_steady
    | refine fun x (hx : Steady s₀ x) a => ?_
    | refine fun x (hx : Steady s₀ x) => ?_
    | with_reducible apply Steady.ite
    | with_reducible apply Steady.foldl
    | ((try lift_lets); intro x; refine (?_ : Steady s₀ x → _) ?_; focus (intro hx; clear_value x))
    | ((try lift_lets); intro x; try clear_value x)
    | split
    | with_reducible refine Steady.upd ?_ rfl rfl rfl rfl

theorem evalWindows_steady (h : Steady s₀ s) : Steady s₀ (evalWindows s) := by
  unfold evalWindows
  repeat' first
    | with_reducible assumption
    | with_reducible apply evalWindow_steady
    | refine fun x (hx : Steady s₀ x) a => ?_
    | refine fun x (hx : Steady s₀ x) => ?_
    | with_reducible apply Steady.foldl

theorem stageRecipe_steady (x0) (x1) (x2) (x3) (h : Steady s₀ s) : Steady s₀ (stageRecipe x0 x1 x2 x3 s) := by
  unfold stageRecipe
  repeat' first
    | with_reducible assumption
    | with_reducible refine Steady.upd ?_ rfl rfl rfl rfl

theorem widen_steady (x0) (x1) (x2) (h : Steady s₀ s) : Steady s₀ (widen x0 x1 x2 s) := by
  unfold widen
  repeat' first
    | with_reducible assumption
    | with_reducible apply stageRecipe_steady
    | with_reducible apply Steady.ite
    | split

theorem fallBack_steady (x0) (h : Steady s₀ s) : Steady s₀ (fallBack x0 s) := by
  unfold fallBack
  repeat' first
    | with_reducible assumption
    | with_reducible apply send_steady
    | with_reducible apply widen_steady
    | with_reducible apply Steady.ite
    | ((try lift_lets); intro x; refine (?_ : Steady s₀ x → _) ?_; focus (intro hx; clear_value x))
    | ((try lift_lets); intro x; try clear_value x)
    | split

theorem partnerFlag_steady (x0) (h : Steady s₀ s) : Steady s₀ (partnerFlag x0 s) := by
  unfold partnerFlag
  repeat' first
    | with_reducible assumption
    | with_reducible apply widen_steady
    | with_reducible apply noteFlag_steady
    | with_reducible apply Steady.ite
    | split

theorem recipeFlagWrite_steady (x0) (x1) (h : Steady s₀ s) : Steady s₀ (recipeFlagWrite x0 x1 s) := by
  unfold recipeFlagWrite
  repeat' first
    | with_reducible assumption
    | with_reducible apply guarded_steady
    | with_reducible apply logIgnored_steady
    | with_reducible apply wr_steady
    | with_reducible apply setRegion_steady
    | with_reducible apply fallBack_steady
    | with_reducible apply logFlag_steady
    | refine fun x (hx : Steady s₀ x) a => ?_
    | refine fun x (hx : Steady s₀ x) => ?_
    | with_reducible apply Steady.ite
    | ((try lift_lets); intro x; refine (?_ : Steady s₀ x → _) ?_; focus (intro hx; clear_value x))
    | ((try lift_lets); intro x; try clear_value x)
    | split
    | with_reducible refine Steady.upd ?_ rfl rfl rfl rfl

theorem applyRecipes_steady (x0) (h : Steady s₀ s) : Steady s₀ (applyRecipes x0 s) := by
  unfold applyRecipes
  repeat' first
    | with_reducible assumption
    | with_reducible apply setGen_steady
    | refine fun x (hx : Steady s₀ x) a => ?_
    | refine fun x (hx : Steady s₀ x) => ?_
    | with_reducible apply Steady.ite
    | with_reducible apply Steady.foldl
    | ((try lift_lets); intro x; refine (?_ : Steady s₀ x → _) ?_; focus (intro hx; clear_value x))
    | ((try lift_lets); intro x; try clear_value x)
    | split
    | with_reducible refine Steady.upd ?_ rfl rfl rfl rfl

theorem zeroCntRead_steady (x0) (x1) (h : Steady s₀ s) : Steady s₀ (zeroCntRead x0 x1 s) := by
  unfold zeroCntRead
  repeat' first
    | with_reducible assumption
    | with_reducible apply wr_steady
    | with_reducible apply wrb_steady
    | with_reducible apply answer_steady
    | ((try lift_lets); intro x; refine (?_ : Steady s₀ x → _) ?_; focus (intro hx; clear_value x))
    | ((try lift_lets); intro x; try clear_value x)

end Sys2Proof.Machine
end

