-- ==== Sys2Proof/Laws/SteadyWeights.lean ====
section
/-! SUPPORT. The operations of Weights.lean are steady (Steady.lean). -/

namespace Sys2Proof.Machine

variable {s₀ s : State}

theorem freeDrained_steady (h : Steady s₀ s) : Steady s₀ (freeDrained s) := by
  unfold freeDrained
  repeat' first
    | with_reducible assumption
    | with_reducible apply freeSlot_steady
    | refine fun x (hx : Steady s₀ x) a => ?_
    | refine fun x (hx : Steady s₀ x) => ?_
    | with_reducible apply Steady.ite
    | with_reducible apply Steady.foldl
    | ((try lift_lets); intro x; refine (?_ : Steady s₀ x → _) ?_; focus (intro hx; clear_value x))
    | ((try lift_lets); intro x; try clear_value x)
    | split
    | with_reducible refine Steady.upd ?_ rfl rfl rfl rfl

theorem noActive_steady (h : Steady s₀ s) : Steady s₀ (noActive s) := by
  unfold noActive
  repeat' first
    | with_reducible assumption
    | with_reducible apply wr_steady

theorem drainSlot_steady (x0) (x1) (h : Steady s₀ s) : Steady s₀ (drainSlot x0 x1 s) := by
  unfold drainSlot
  repeat' first
    | with_reducible assumption
    | with_reducible apply setGenState_steady
    | with_reducible apply setGen_steady
    | with_reducible apply noActive_steady
    | refine fun x (hx : Steady s₀ x) a => ?_
    | refine fun x (hx : Steady s₀ x) => ?_
    | with_reducible apply Steady.ite
    | ((try lift_lets); intro x; refine (?_ : Steady s₀ x → _) ?_; focus (intro hx; clear_value x))
    | ((try lift_lets); intro x; try clear_value x)
    | split
    | with_reducible refine Steady.upd ?_ rfl rfl rfl rfl

theorem enterReady_steady (x0) (h : Steady s₀ s) : Steady s₀ (enterReady x0 s) := by
  unfold enterReady
  repeat' first
    | with_reducible assumption
    | with_reducible apply setGenState_steady
    | with_reducible apply setGen_steady
    | refine fun x (hx : Steady s₀ x) a => ?_
    | refine fun x (hx : Steady s₀ x) => ?_
    | with_reducible refine Steady.upd ?_ rfl rfl rfl rfl

theorem standDown_steady (x0) (h : Steady s₀ s) : Steady s₀ (standDown x0 s) := by
  unfold standDown
  repeat' first
    | with_reducible assumption
    | with_reducible apply enterReady_steady
    | with_reducible apply Steady.ite
    | split
    | with_reducible refine Steady.upd ?_ rfl rfl rfl rfl

theorem restoreActive_steady (h : Steady s₀ s) : Steady s₀ (restoreActive s) := by
  unfold restoreActive
  repeat' first
    | with_reducible assumption
    | with_reducible apply wr_steady
    | split
    | with_reducible refine Steady.upd ?_ rfl rfl rfl rfl

theorem applyActive_steady (h : Steady s₀ s) : Steady s₀ (applyActive s) := by
  unfold applyActive
  repeat' first
    | with_reducible assumption
    | with_reducible apply wr_steady
    | with_reducible apply noActive_steady
    | with_reducible apply standDown_steady
    | with_reducible apply restoreActive_steady
    | with_reducible apply logIgnored_steady
    | with_reducible apply setGenState_steady
    | with_reducible apply tryLeaveTin_steady
    | with_reducible apply putTinBit_steady
    | with_reducible apply Steady.ite
    | ((try lift_lets); intro x; refine (?_ : Steady s₀ x → _) ?_; focus (intro hx; clear_value x))
    | ((try lift_lets); intro x; try clear_value x)
    | split
    | with_reducible refine Steady.upd ?_ rfl rfl rfl rfl

theorem dropParts_steady (x0) (h : Steady s₀ s) : Steady s₀ (dropParts x0 s) := by
  unfold dropParts
  repeat' first
    | with_reducible assumption
    | with_reducible apply retractRequest_steady
    | refine fun x (hx : Steady s₀ x) a => ?_
    | refine fun x (hx : Steady s₀ x) => ?_
    | ((try lift_lets); intro x; refine (?_ : Steady s₀ x → _) ?_; focus (intro hx; clear_value x))
    | ((try lift_lets); intro x; try clear_value x)
    | with_reducible refine Steady.upd ?_ rfl rfl rfl rfl

theorem cutRequest_steady (x0) (x1) (h : Steady s₀ s) : Steady s₀ (cutRequest x0 x1 s) := by
  unfold cutRequest
  repeat' first
    | with_reducible assumption
    | with_reducible apply finish_steady
    | with_reducible apply dropParts_steady
    | split
    | with_reducible refine Steady.upd ?_ rfl rfl rfl rfl

theorem failRequest_steady (x0) (x1) (h : Steady s₀ s) : Steady s₀ (failRequest x0 x1 s) := by
  unfold failRequest
  repeat' first
    | with_reducible assumption
    | with_reducible apply endRequest_steady
    | with_reducible apply dropParts_steady
    | with_reducible apply Steady.ite
    | split
    | with_reducible refine Steady.upd ?_ rfl rfl rfl rfl

theorem dropDraft_steady (x0) (h : Steady s₀ s) : Steady s₀ (dropDraft x0 s) := by
  unfold dropDraft
  repeat' first
    | with_reducible assumption
    | with_reducible apply setReq_steady
    | refine fun x (hx : Steady s₀ x) a => ?_
    | refine fun x (hx : Steady s₀ x) => ?_
    | with_reducible refine Steady.upd ?_ rfl rfl rfl rfl

theorem expireSlot_steady (x0) (h : Steady s₀ s) : Steady s₀ (expireSlot x0 s) := by
  unfold expireSlot
  repeat' first
    | with_reducible assumption
    | with_reducible apply cutRequest_steady
    | with_reducible apply dropDraft_steady
    | refine fun x (hx : Steady s₀ x) a => ?_
    | refine fun x (hx : Steady s₀ x) => ?_
    | with_reducible apply Steady.foldl
    | ((try lift_lets); intro x; refine (?_ : Steady s₀ x → _) ?_; focus (intro hx; clear_value x))
    | ((try lift_lets); intro x; try clear_value x)

theorem latchGens_steady (h : Steady s₀ s) : Steady s₀ (latchGens s) := by
  unfold latchGens
  repeat' first
    | with_reducible assumption
    | with_reducible apply drainSlot_steady
    | with_reducible apply expireSlot_steady
    | with_reducible apply freeDrained_steady
    | with_reducible apply applyActive_steady
    | refine fun x (hx : Steady s₀ x) a => ?_
    | refine fun x (hx : Steady s₀ x) => ?_
    | with_reducible apply Steady.ite
    | with_reducible apply Steady.foldl
    | ((try lift_lets); intro x; refine (?_ : Steady s₀ x → _) ?_; focus (intro hx; clear_value x))
    | ((try lift_lets); intro x; try clear_value x)
    | split
    | with_reducible refine Steady.upd ?_ rfl rfl rfl rfl

theorem settleGens_steady (h : Steady s₀ s) : Steady s₀ (settleGens s) := by
  unfold settleGens
  repeat' first
    | with_reducible assumption
    | with_reducible apply latchGens_steady
    | with_reducible apply Steady.ite
    | split

theorem sendDown_steady (x0) (x1) (x2) (h : Steady s₀ s) : Steady s₀ (sendDown x0 x1 x2 s) := by
  unfold sendDown
  repeat' first
    | with_reducible assumption
    | with_reducible apply send_steady
    | with_reducible apply Steady.ite
    | ((try lift_lets); intro x; refine (?_ : Steady s₀ x → _) ?_; focus (intro hx; clear_value x))
    | ((try lift_lets); intro x; try clear_value x)
    | split

theorem headSend_steady (x0) (h : Steady s₀ s) : Steady s₀ (headSend x0 s) := by
  unfold headSend
  repeat' first
    | with_reducible assumption
    | with_reducible apply sendDown_steady
    | with_reducible apply wr_steady
    | with_reducible apply Steady.ite
    | split
    | with_reducible refine Steady.upd ?_ rfl rfl rfl rfl

theorem askUp_steady (x0) (x1) (h : Steady s₀ s) : Steady s₀ (askUp x0 x1 s) := by
  unfold askUp
  repeat' first
    | with_reducible assumption
    | with_reducible apply send_steady

theorem askLost_steady (x0) (x1) (h : Steady s₀ s) : Steady s₀ (askLost x0 x1 s) := by
  unfold askLost
  repeat' first
    | with_reducible assumption
    | with_reducible apply askUp_steady
    | with_reducible apply Steady.ite
    | split

theorem completeUp_steady (h : Steady s₀ s) : Steady s₀ (completeUp s) := by
  unfold completeUp
  repeat' first
    | with_reducible assumption
    | with_reducible apply send_steady
    | with_reducible apply wr_steady
    | refine fun x (hx : Steady s₀ x) a => ?_
    | refine fun x (hx : Steady s₀ x) => ?_
    | with_reducible apply Steady.ite
    | ((try lift_lets); intro x; refine (?_ : Steady s₀ x → _) ?_; focus (intro hx; clear_value x))
    | ((try lift_lets); intro x; try clear_value x)
    | split
    | with_reducible refine Steady.upd ?_ rfl rfl rfl rfl

theorem resend_steady (x0) (h : Steady s₀ s) : Steady s₀ (resend x0 s) := by
  unfold resend
  repeat' first
    | with_reducible assumption
    | with_reducible apply sendDown_steady
    | split
    | with_reducible refine Steady.upd ?_ rfl rfl rfl rfl

theorem answerQueued_steady (h : Steady s₀ s) : Steady s₀ (answerQueued s) := by
  unfold answerQueued
  repeat' first
    | with_reducible assumption
    | with_reducible apply resend_steady
    | refine fun x (hx : Steady s₀ x) a => ?_
    | refine fun x (hx : Steady s₀ x) => ?_
    | with_reducible apply Steady.foldl
    | ((try lift_lets); intro x; refine (?_ : Steady s₀ x → _) ?_; focus (intro hx; clear_value x))
    | ((try lift_lets); intro x; try clear_value x)
    | with_reducible refine Steady.upd ?_ rfl rfl rfl rfl

theorem rejectLoad_steady (x0) (x1) (h : Steady s₀ s) : Steady s₀ (rejectLoad x0 x1 s) := by
  unfold rejectLoad
  repeat' first
    | with_reducible assumption
    | with_reducible apply log_steady
    | with_reducible apply wr_steady

theorem acceptLoad_steady (x0) (x1) (x2) (x3) (x4) (h : Steady s₀ s) : Steady s₀ (acceptLoad x0 x1 x2 x3 x4 s) := by
  unfold acceptLoad
  repeat' first
    | with_reducible assumption
    | with_reducible apply setGenState_steady
    | with_reducible apply setGen_steady
    | with_reducible apply wr_steady
    | with_reducible apply setReg_steady
    | refine fun x (hx : Steady s₀ x) a => ?_
    | refine fun x (hx : Steady s₀ x) => ?_
    | with_reducible apply Steady.ite
    | ((try lift_lets); intro x; refine (?_ : Steady s₀ x → _) ?_; focus (intro hx; clear_value x))
    | ((try lift_lets); intro x; try clear_value x)
    | split
    | with_reducible refine Steady.upd ?_ rfl rfl rfl rfl

theorem loadCommand_steady (x0) (x1) (x2) (x3) (x4) (x5) (x6) (h : Steady s₀ s) : Steady s₀ (loadCommand x0 x1 x2 x3 x4 x5 x6 s) := by
  unfold loadCommand
  repeat' first
    | with_reducible assumption
    | with_reducible apply rejectLoad_steady
    | with_reducible apply logIgnored_steady
    | with_reducible apply acceptLoad_steady
    | with_reducible apply Steady.ite
    | ((try lift_lets); intro x; refine (?_ : Steady s₀ x → _) ?_; focus (intro hx; clear_value x))
    | ((try lift_lets); intro x; try clear_value x)
    | split

theorem retireCommand_steady (x0) (x1) (x2) (x3) (h : Steady s₀ s) : Steady s₀ (retireCommand x0 x1 x2 x3 s) := by
  unfold retireCommand
  repeat' first
    | with_reducible assumption
    | with_reducible apply settleGens_steady
    | with_reducible apply logIgnored_steady
    | with_reducible apply Steady.ite
    | ((try lift_lets); intro x; refine (?_ : Steady s₀ x → _) ?_; focus (intro hx; clear_value x))
    | ((try lift_lets); intro x; try clear_value x)
    | split
    | with_reducible refine Steady.upd ?_ rfl rfl rfl rfl

theorem unloadCommand_steady (x0) (x1) (x2) (h : Steady s₀ s) : Steady s₀ (unloadCommand x0 x1 x2 s) := by
  unfold unloadCommand
  repeat' first
    | with_reducible assumption
    | with_reducible apply freeSlot_steady
    | with_reducible apply logIgnored_steady
    | with_reducible apply Steady.ite
    | ((try lift_lets); intro x; refine (?_ : Steady s₀ x → _) ?_; focus (intro hx; clear_value x))
    | ((try lift_lets); intro x; try clear_value x)
    | split

theorem abortCommand_steady (x0) (x1) (x2) (h : Steady s₀ s) : Steady s₀ (abortCommand x0 x1 x2 s) := by
  unfold abortCommand
  repeat' first
    | with_reducible assumption
    | with_reducible apply endLoad_steady
    | with_reducible apply logIgnored_steady
    | with_reducible apply Steady.ite
    | split
    | with_reducible refine Steady.upd ?_ rfl rfl rfl rfl

theorem reloadCommand_steady (x0) (x1) (x2) (h : Steady s₀ s) : Steady s₀ (reloadCommand x0 x1 x2 s) := by
  unfold reloadCommand
  repeat' first
    | with_reducible assumption
    | with_reducible apply logIgnored_steady
    | with_reducible apply setGen_steady
    | with_reducible apply askLost_steady
    | refine fun x (hx : Steady s₀ x) a => ?_
    | refine fun x (hx : Steady s₀ x) => ?_
    | with_reducible apply Steady.ite
    | with_reducible apply Steady.foldl
    | ((try lift_lets); intro x; refine (?_ : Steady s₀ x → _) ?_; focus (intro hx; clear_value x))
    | ((try lift_lets); intro x; try clear_value x)
    | split
    | with_reducible refine Steady.upd ?_ rfl rfl rfl rfl

theorem wldCommand_steady (x0) (x1) (k : State → State) (hk : ∀ x, Steady s₀ x → Steady s₀ (k x)) (h : Steady s₀ s) : Steady s₀ (wldCommand x0 x1 k s) := by
  unfold wldCommand
  repeat' first
    | with_reducible assumption
    | with_reducible apply byWriter_steady
    | with_reducible apply wakePart_steady
    | with_reducible apply logIgnored_steady
    | with_reducible apply hk
    | refine fun x (hx : Steady s₀ x) a => ?_
    | refine fun x (hx : Steady s₀ x) => ?_
    | with_reducible apply Steady.ite
    | ((try lift_lets); intro x; refine (?_ : Steady s₀ x → _) ?_; focus (intro hx; clear_value x))
    | ((try lift_lets); intro x; try clear_value x)
    | split

theorem setPhase_steady (x0) (h : Steady s₀ s) : Steady s₀ (setPhase x0 s) := by
  unfold setPhase
  repeat' first
    | with_reducible assumption
    | refine fun x (hx : Steady s₀ x) a => ?_
    | refine fun x (hx : Steady s₀ x) => ?_
    | with_reducible refine Steady.upd ?_ rfl rfl rfl rfl

theorem rebuildSums_steady (x0) (h : Steady s₀ s) : Steady s₀ (rebuildSums x0 s) := by
  unfold rebuildSums
  repeat' first
    | with_reducible assumption
    | with_reducible apply setGen_steady
    | refine fun x (hx : Steady s₀ x) a => ?_
    | refine fun x (hx : Steady s₀ x) => ?_
    | with_reducible apply Steady.foldl
    | ((try lift_lets); intro x; refine (?_ : Steady s₀ x → _) ?_; focus (intro hx; clear_value x))
    | ((try lift_lets); intro x; try clear_value x)
    | split
    | with_reducible refine Steady.upd ?_ rfl rfl rfl rfl

theorem reopenBlock_steady (x0) (x1) (h : Steady s₀ s) : Steady s₀ (reopenBlock x0 x1 s) := by
  unfold reopenBlock
  repeat' first
    | with_reducible assumption
    | with_reducible apply setBlock_steady
    | refine fun x (hx : Steady s₀ x) a => ?_
    | refine fun x (hx : Steady s₀ x) => ?_
    | with_reducible apply Steady.ite
    | ((try lift_lets); intro x; refine (?_ : Steady s₀ x → _) ?_; focus (intro hx; clear_value x))
    | ((try lift_lets); intro x; try clear_value x)
    | split
    | with_reducible refine Steady.upd ?_ rfl rfl rfl rfl

theorem readBack_steady (x0) (h : Steady s₀ s) : Steady s₀ (readBack x0 s) := by
  unfold readBack
  repeat' first
    | with_reducible assumption
    | with_reducible apply reopenBlock_steady
    | with_reducible apply setGen_steady
    | refine fun x (hx : Steady s₀ x) a => ?_
    | refine fun x (hx : Steady s₀ x) => ?_
    | with_reducible apply Steady.foldl
    | ((try lift_lets); intro x; refine (?_ : Steady s₀ x → _) ?_; focus (intro hx; clear_value x))
    | ((try lift_lets); intro x; try clear_value x)
    | with_reducible refine Steady.upd ?_ rfl rfl rfl rfl

theorem handToKeep_steady (x0) (x1) (h : Steady s₀ s) : Steady s₀ (handToKeep x0 x1 s) := by
  unfold handToKeep
  repeat' first
    | with_reducible assumption
    | with_reducible refine Steady.upd ?_ rfl rfl rfl rfl

theorem loadReady_steady (h : Steady s₀ s) : Steady s₀ (loadReady s) := by
  unfold loadReady
  repeat' first
    | with_reducible assumption
    | with_reducible apply wr_steady
    | with_reducible apply freeSlot_steady
    | with_reducible apply setGen_steady
    | with_reducible apply enterReady_steady
    | with_reducible apply settleGens_steady
    | refine fun x (hx : Steady s₀ x) a => ?_
    | refine fun x (hx : Steady s₀ x) => ?_
    | with_reducible apply Steady.ite
    | ((try lift_lets); intro x; refine (?_ : Steady s₀ x → _) ?_; focus (intro hx; clear_value x))
    | ((try lift_lets); intro x; try clear_value x)
    | split
    | with_reducible refine Steady.upd ?_ rfl rfl rfl rfl

theorem masterDone_steady (x0) (h : Steady s₀ s) : Steady s₀ (masterDone x0 s) := by
  unfold masterDone
  repeat' first
    | with_reducible assumption
    | with_reducible apply completeUp_steady
    | with_reducible apply wr_steady
    | with_reducible apply rebuildSums_steady
    | with_reducible apply readBack_steady
    | with_reducible apply handToKeep_steady
    | with_reducible apply settleGens_steady
    | with_reducible apply setPhase_steady
    | with_reducible apply Steady.ite
    | ((try lift_lets); intro x; refine (?_ : Steady s₀ x → _) ?_; focus (intro hx; clear_value x))
    | ((try lift_lets); intro x; try clear_value x)
    | split
    | with_reducible refine Steady.upd ?_ rfl rfl rfl rfl

theorem chunksReady_steady (h : Steady s₀ s) : Steady s₀ (chunksReady s) := by
  unfold chunksReady
  repeat' first
    | with_reducible assumption
    | with_reducible apply loadReady_steady
    | with_reducible apply masterDone_steady
    | with_reducible apply wr_steady
    | with_reducible apply Steady.ite
    | split
    | with_reducible refine Steady.upd ?_ rfl rfl rfl rfl

theorem takeManifest_steady (x0) (x1) (x2) (x3) (x4) (x5) (h : Steady s₀ s) : Steady s₀ (takeManifest x0 x1 x2 x3 x4 x5 s) := by
  unfold takeManifest
  repeat' first
    | with_reducible assumption
    | with_reducible apply setGen_steady
    | with_reducible apply wr_steady
    | with_reducible apply setGenState_steady
    | with_reducible apply chunksReady_steady
    | with_reducible apply answerQueued_steady
    | with_reducible apply headSend_steady
    | refine fun x (hx : Steady s₀ x) a => ?_
    | refine fun x (hx : Steady s₀ x) => ?_
    | with_reducible apply Steady.ite
    | ((try lift_lets); intro x; refine (?_ : Steady s₀ x → _) ?_; focus (intro hx; clear_value x))
    | ((try lift_lets); intro x; try clear_value x)
    | split
    | with_reducible refine Steady.upd ?_ rfl rfl rfl rfl

theorem manifestArrives_steady (x0) (x1) (x2) (h : Steady s₀ s) : Steady s₀ (manifestArrives x0 x1 x2 s) := by
  unfold manifestArrives
  repeat' first
    | with_reducible assumption
    | with_reducible apply endLoad_steady
    | with_reducible apply takeManifest_steady
    | with_reducible apply Steady.ite
    | ((try lift_lets); intro x; refine (?_ : Steady s₀ x → _) ?_; focus (intro hx; clear_value x))
    | ((try lift_lets); intro x; try clear_value x)
    | split
    | with_reducible refine Steady.upd ?_ rfl rfl rfl rfl

theorem copyWhole_steady (x0) (h : Steady s₀ s) : Steady s₀ (copyWhole x0 s) := by
  unfold copyWhole
  repeat' first
    | with_reducible assumption
    | with_reducible apply wr_steady
    | with_reducible apply Steady.ite
    | split

theorem reverified_steady (x0) (h : Steady s₀ s) : Steady s₀ (reverified x0 s) := by
  unfold reverified
  repeat' first
    | with_reducible assumption
    | with_reducible apply chunksReady_steady
    | with_reducible apply rebuildSums_steady
    | with_reducible apply wr_steady
    | with_reducible apply setGenState_steady
    | with_reducible apply enterReady_steady
    | with_reducible apply setGen_steady
    | with_reducible apply settleGens_steady
    | with_reducible apply copyWhole_steady
    | refine fun x (hx : Steady s₀ x) a => ?_
    | refine fun x (hx : Steady s₀ x) => ?_
    | with_reducible apply Steady.ite
    | ((try lift_lets); intro x; refine (?_ : Steady s₀ x → _) ?_; focus (intro hx; clear_value x))
    | ((try lift_lets); intro x; try clear_value x)
    | split
    | with_reducible refine Steady.upd ?_ rfl rfl rfl rfl

theorem reloadArrives_steady (x0) (x1) (x2) (h : Steady s₀ s) : Steady s₀ (reloadArrives x0 x1 x2 s) := by
  unfold reloadArrives
  repeat' first
    | with_reducible assumption
    | with_reducible apply setGen_steady
    | with_reducible apply releaseEngine_steady
    | with_reducible apply answerQueued_steady
    | with_reducible apply settle_steady
    | with_reducible apply reverified_steady
    | with_reducible apply log_steady
    | refine fun x (hx : Steady s₀ x) a => ?_
    | refine fun x (hx : Steady s₀ x) => ?_
    | with_reducible apply Steady.ite
    | with_reducible apply Steady.foldl
    | ((try lift_lets); intro x; refine (?_ : Steady s₀ x → _) ?_; focus (intro hx; clear_value x))
    | ((try lift_lets); intro x; try clear_value x)
    | split
    | with_reducible refine Steady.upd ?_ rfl rfl rfl rfl

theorem loadChunk_steady (x0) (x1) (x2) (h : Steady s₀ s) : Steady s₀ (loadChunk x0 x1 x2 s) := by
  unfold loadChunk
  repeat' first
    | with_reducible assumption
    | with_reducible apply endLoad_steady
    | with_reducible apply setGen_steady
    | with_reducible apply chunksReady_steady
    | with_reducible apply answerQueued_steady
    | with_reducible apply headSend_steady
    | with_reducible apply incHold_steady
    | refine fun x (hx : Steady s₀ x) a => ?_
    | refine fun x (hx : Steady s₀ x) => ?_
    | with_reducible apply Steady.ite
    | ((try lift_lets); intro x; refine (?_ : Steady s₀ x → _) ?_; focus (intro hx; clear_value x))
    | ((try lift_lets); intro x; try clear_value x)
    | split
    | with_reducible refine Steady.upd ?_ rfl rfl rfl rfl

theorem lastReverified_steady (h : Steady s₀ s) : Steady s₀ (lastReverified s) := by
  unfold lastReverified
  repeat' first
    | with_reducible assumption
    | with_reducible apply raiseTin_steady
    | refine fun x (hx : Steady s₀ x) a => ?_
    | refine fun x (hx : Steady s₀ x) => ?_
    | with_reducible apply Steady.ite
    | ((try lift_lets); intro x; refine (?_ : Steady s₀ x → _) ?_; focus (intro hx; clear_value x))
    | ((try lift_lets); intro x; try clear_value x)
    | split

theorem wldActiveWrite_steady (x0) (h : Steady s₀ s) : Steady s₀ (wldActiveWrite x0 s) := by
  unfold wldActiveWrite
  repeat' first
    | with_reducible assumption
    | with_reducible apply guarded_steady
    | with_reducible apply logIgnored_steady
    | with_reducible apply wr_steady
    | with_reducible apply wtake_steady
    | with_reducible apply settleGens_steady
    | refine fun x (hx : Steady s₀ x) a => ?_
    | refine fun x (hx : Steady s₀ x) => ?_
    | with_reducible apply Steady.ite
    | ((try lift_lets); intro x; refine (?_ : Steady s₀ x → _) ?_; focus (intro hx; clear_value x))
    | ((try lift_lets); intro x; try clear_value x)
    | split
    | with_reducible refine Steady.upd ?_ rfl rfl rfl rfl

end Sys2Proof.Machine
end

