-- ==== Sys2Proof/Laws/SteadyProgram.lean ====
section
/-! SUPPORT. The operations of Program.lean are steady (Steady.lean). -/

namespace Sys2Proof.Machine

variable {s₀ s : State}

theorem openTiers_steady (x0) (x1) (x2) (h : Steady s₀ s) : Steady s₀ (openTiers x0 x1 x2 s) := by
  unfold openTiers
  repeat' first
    | with_reducible assumption
    | with_reducible apply setBlock_steady
    | refine fun x (hx : Steady s₀ x) a => ?_
    | refine fun x (hx : Steady s₀ x) => ?_
    | with_reducible refine Steady.upd ?_ rfl rfl rfl rfl

theorem beginProgram_steady (x0) (x1) (x2) (x3) (x4) (h : Steady s₀ s) : Steady s₀ (beginProgram x0 x1 x2 x3 x4 s) := by
  unfold beginProgram
  repeat' first
    | with_reducible assumption
    | with_reducible apply openTiers_steady
    | with_reducible apply setBlock_steady
    | refine fun x (hx : Steady s₀ x) a => ?_
    | refine fun x (hx : Steady s₀ x) => ?_
    | with_reducible apply Steady.ite
    | ((try lift_lets); intro x; refine (?_ : Steady s₀ x → _) ?_; focus (intro hx; clear_value x))
    | ((try lift_lets); intro x; try clear_value x)
    | split
    | with_reducible refine Steady.upd ?_ rfl rfl rfl rfl

theorem startLoadBlock_steady (x0) (x1) (h : Steady s₀ s) : Steady s₀ (startLoadBlock x0 x1 s) := by
  unfold startLoadBlock
  repeat' first
    | with_reducible assumption
    | with_reducible apply settle_steady
    | with_reducible apply wantBlock_steady
    | with_reducible apply setGen_steady
    | with_reducible apply beginProgram_steady
    | refine fun x (hx : Steady s₀ x) a => ?_
    | refine fun x (hx : Steady s₀ x) => ?_
    | with_reducible apply Steady.ite
    | ((try lift_lets); intro x; refine (?_ : Steady s₀ x → _) ?_; focus (intro hx; clear_value x))
    | ((try lift_lets); intro x; try clear_value x)
    | split
    | with_reducible refine Steady.upd ?_ rfl rfl rfl rfl

theorem startKeepBlock_steady (x0) (x1) (h : Steady s₀ s) : Steady s₀ (startKeepBlock x0 x1 s) := by
  unfold startKeepBlock
  repeat' first
    | with_reducible assumption
    | with_reducible apply beginProgram_steady
    | split
    | with_reducible refine Steady.upd ?_ rfl rfl rfl rfl

theorem startSpare_steady (x0) (x1) (h : Steady s₀ s) : Steady s₀ (startSpare x0 x1 s) := by
  unfold startSpare
  repeat' first
    | with_reducible assumption
    | with_reducible apply beginProgram_steady
    | split
    | with_reducible refine Steady.upd ?_ rfl rfl rfl rfl

theorem writeSums_steady (x0) (x1) (x2) (h : Steady s₀ s) : Steady s₀ (writeSums x0 x1 x2 s) := by
  unfold writeSums
  repeat' first
    | with_reducible assumption
    | with_reducible apply setGen_steady
    | refine fun x (hx : Steady s₀ x) a => ?_
    | refine fun x (hx : Steady s₀ x) => ?_
    | ((try lift_lets); intro x; refine (?_ : Steady s₀ x → _) ?_; focus (intro hx; clear_value x))
    | ((try lift_lets); intro x; try clear_value x)
    | split
    | with_reducible refine Steady.upd ?_ rfl rfl rfl rfl

theorem writeRow_steady (x0) (x1) (x2) (x3) (x4) (h : Steady s₀ s) : Steady s₀ (writeRow x0 x1 x2 x3 x4 s) := by
  unfold writeRow
  repeat' first
    | with_reducible assumption
    | with_reducible apply incWrap_steady
    | with_reducible apply setRow_steady
    | with_reducible apply writeSums_steady
    | with_reducible apply setBlock_steady
    | refine fun x (hx : Steady s₀ x) a => ?_
    | refine fun x (hx : Steady s₀ x) => ?_
    | with_reducible apply Steady.ite
    | ((try lift_lets); intro x; refine (?_ : Steady s₀ x → _) ?_; focus (intro hx; clear_value x))
    | ((try lift_lets); intro x; try clear_value x)
    | split
    | with_reducible refine Steady.upd ?_ rfl rfl rfl rfl

theorem dropRetired_steady (x0) (x1) (x2) (h : Steady s₀ s) : Steady s₀ (dropRetired x0 x1 x2 s) := by
  unfold dropRetired
  repeat' first
    | with_reducible assumption
    | with_reducible apply setGen_steady
    | refine fun x (hx : Steady s₀ x) a => ?_
    | refine fun x (hx : Steady s₀ x) => ?_
    | with_reducible apply Steady.ite
    | split
    | with_reducible refine Steady.upd ?_ rfl rfl rfl rfl

theorem finishSpare_steady (x0) (x1) (h : Steady s₀ s) : Steady s₀ (finishSpare x0 x1 s) := by
  unfold finishSpare
  repeat' first
    | with_reducible assumption
    | with_reducible apply setBlock_steady
    | with_reducible apply setRegion_steady
    | refine fun x (hx : Steady s₀ x) a => ?_
    | refine fun x (hx : Steady s₀ x) => ?_
    | ((try lift_lets); intro x; refine (?_ : Steady s₀ x → _) ?_; focus (intro hx; clear_value x))
    | ((try lift_lets); intro x; try clear_value x)
    | split
    | with_reducible refine Steady.upd ?_ rfl rfl rfl rfl

theorem markDone_steady (x0) (x1) (h : Steady s₀ s) : Steady s₀ (markDone x0 x1 s) := by
  unfold markDone
  repeat' first
    | with_reducible assumption
    | with_reducible apply loadReady_steady
    | with_reducible apply setGen_steady
    | refine fun x (hx : Steady s₀ x) a => ?_
    | refine fun x (hx : Steady s₀ x) => ?_
    | with_reducible apply Steady.ite
    | ((try lift_lets); intro x; refine (?_ : Steady s₀ x → _) ?_; focus (intro hx; clear_value x))
    | ((try lift_lets); intro x; try clear_value x)
    | split
    | with_reducible refine Steady.upd ?_ rfl rfl rfl rfl

theorem switchModel_steady (h : Steady s₀ s) : Steady s₀ (switchModel s) := by
  unfold switchModel
  repeat' first
    | with_reducible assumption
    | with_reducible apply wr_steady
    | refine fun x (hx : Steady s₀ x) a => ?_
    | refine fun x (hx : Steady s₀ x) => ?_
    | with_reducible apply Steady.ite
    | ((try lift_lets); intro x; refine (?_ : Steady s₀ x → _) ?_; focus (intro hx; clear_value x))
    | ((try lift_lets); intro x; try clear_value x)
    | split
    | with_reducible refine Steady.upd ?_ rfl rfl rfl rfl

theorem keepDone_steady (h : Steady s₀ s) : Steady s₀ (keepDone s) := by
  unfold keepDone
  repeat' first
    | with_reducible assumption
    | with_reducible apply loadReady_steady
    | with_reducible apply switchModel_steady
    | refine fun x (hx : Steady s₀ x) a => ?_
    | refine fun x (hx : Steady s₀ x) => ?_
    | ((try lift_lets); intro x; refine (?_ : Steady s₀ x → _) ?_; focus (intro hx; clear_value x))
    | ((try lift_lets); intro x; try clear_value x)
    | split
    | with_reducible refine Steady.upd ?_ rfl rfl rfl rfl

theorem checkBlock_steady (x0) (x1) (h : Steady s₀ s) : Steady s₀ (checkBlock x0 x1 s).2 := by
  unfold checkBlock
  repeat' first
    | with_reducible assumption
    | with_reducible apply fullPass_steady
    | with_reducible apply setBlock_steady
    | with_reducible apply runSet_steady
    | with_reducible apply unwantBlock_steady
    | refine fun x (hx : Steady s₀ x) a => ?_
    | refine fun x (hx : Steady s₀ x) => ?_
    | with_reducible apply Steady.ite
    | ((try lift_lets); intro x; refine (?_ : Steady s₀ x → _) ?_; focus (intro hx; clear_value x))
    | ((try lift_lets); intro x; try clear_value x)
    | split
    | with_reducible refine Steady.upd ?_ rfl rfl rfl rfl

theorem programFailed_steady (x0) (x1) (x2) (x3) (h : Steady s₀ s) : Steady s₀ (programFailed x0 x1 x2 x3 s) := by
  unfold programFailed
  repeat' first
    | with_reducible assumption
    | with_reducible apply retireBlock_steady
    | with_reducible apply setBlock_steady
    | refine fun x (hx : Steady s₀ x) a => ?_
    | refine fun x (hx : Steady s₀ x) => ?_
    | with_reducible apply Steady.ite
    | ((try lift_lets); intro x; refine (?_ : Steady s₀ x → _) ?_; focus (intro hx; clear_value x))
    | ((try lift_lets); intro x; try clear_value x)
    | split
    | with_reducible refine Steady.upd ?_ rfl rfl rfl rfl

theorem programDone_steady (x0) (x1) (x2) (h : Steady s₀ s) : Steady s₀ (programDone x0 x1 x2 s) := by
  unfold programDone
  repeat' first
    | with_reducible assumption
    | with_reducible apply unwantBlock_steady
    | with_reducible apply setBlock_steady
    | with_reducible apply markDone_steady
    | with_reducible apply finishSpare_steady
    | with_reducible apply settle_steady
    | with_reducible apply keepDone_steady
    | refine fun x (hx : Steady s₀ x) a => ?_
    | refine fun x (hx : Steady s₀ x) => ?_
    | with_reducible apply Steady.ite
    | ((try lift_lets); intro x; refine (?_ : Steady s₀ x → _) ?_; focus (intro hx; clear_value x))
    | ((try lift_lets); intro x; try clear_value x)
    | split
    | with_reducible refine Steady.upd ?_ rfl rfl rfl rfl

end Sys2Proof.Machine
end

