-- ==== Sys2Proof/Laws/SteadyParcel.lean ====
section
/-! SUPPORT. The operations of Parcel.lean are steady (Steady.lean). -/

namespace Sys2Proof.Machine

variable {s₀ s : State}

theorem forwardFrame_steady (x0) (h : Steady s₀ s) : Steady s₀ (forwardFrame x0 s) := by
  unfold forwardFrame
  repeat' first
    | with_reducible assumption
    | with_reducible apply send_steady
    | with_reducible apply Steady.ite
    | ((try lift_lets); intro x; refine (?_ : Steady s₀ x → _) ?_; focus (intro hx; clear_value x))
    | ((try lift_lets); intro x; try clear_value x)
    | split
    | with_reducible refine Steady.upd ?_ rfl rfl rfl rfl

theorem reRequest_steady (x0) (x1) (x2) (h : Steady s₀ s) : Steady s₀ (reRequest x0 x1 x2 s) := by
  unfold reRequest
  repeat' first
    | with_reducible assumption
    | with_reducible apply endLoad_steady
    | with_reducible apply incHold_steady
    | with_reducible apply send_steady
    | with_reducible apply Steady.ite
    | ((try lift_lets); intro x; refine (?_ : Steady s₀ x → _) ?_; focus (intro hx; clear_value x))
    | ((try lift_lets); intro x; try clear_value x)
    | split
    | with_reducible refine Steady.upd ?_ rfl rfl rfl rfl

theorem chunkEarly_steady (x0) (x1) (h : Steady s₀ s) : Steady s₀ (chunkEarly x0 x1 s) := by
  unfold chunkEarly
  repeat' first
    | with_reducible assumption
    | with_reducible apply reRequest_steady
    | with_reducible apply Steady.ite
    | ((try lift_lets); intro x; refine (?_ : Steady s₀ x → _) ?_; focus (intro hx; clear_value x))
    | ((try lift_lets); intro x; try clear_value x)
    | split
    | with_reducible refine Steady.upd ?_ rfl rfl rfl rfl

theorem chunkKept_steady (x0) (x1) (x2) (h : Steady s₀ s) : Steady s₀ (chunkKept x0 x1 x2 s) := by
  unfold chunkKept
  repeat' first
    | with_reducible assumption
    | with_reducible apply chunkEarly_steady
    | with_reducible apply completeUp_steady
    | with_reducible apply loadChunk_steady
    | with_reducible apply reRequest_steady
    | with_reducible apply Steady.ite
    | split
    | with_reducible refine Steady.upd ?_ rfl rfl rfl rfl

theorem passUp_steady (x0) (h : Steady s₀ s) : Steady s₀ (passUp x0 s) := by
  unfold passUp
  repeat' first
    | with_reducible assumption
    | with_reducible apply send_steady
    | with_reducible refine Steady.upd ?_ rfl rfl rfl rfl

end Sys2Proof.Machine
end

