-- ==== Sys2Proof/Laws/SteadyCostumes.lean ====
section
/-! SUPPORT. The operations of Costumes.lean are steady (Steady.lean). -/

namespace Sys2Proof.Machine

variable {s₀ s : State}

theorem costumeFails_steady (x0) (h : Steady s₀ s) : Steady s₀ (costumeFails x0 s) := by
  unfold costumeFails
  repeat' first
    | with_reducible assumption
    | with_reducible apply wr_steady

theorem latchCostumes_steady (h : Steady s₀ s) : Steady s₀ (latchCostumes s) := by
  unfold latchCostumes
  repeat' first
    | with_reducible assumption
    | with_reducible apply freeVersions_steady
    | with_reducible apply setWardrobe_steady
    | refine fun x (hx : Steady s₀ x) a => ?_
    | refine fun x (hx : Steady s₀ x) => ?_
    | with_reducible apply Steady.foldl
    | split
    | with_reducible refine Steady.upd ?_ rfl rfl rfl rfl

theorem settleCostumes_steady (h : Steady s₀ s) : Steady s₀ (settleCostumes s) := by
  unfold settleCostumes
  repeat' first
    | with_reducible assumption
    | with_reducible apply latchCostumes_steady
    | with_reducible apply Steady.ite
    | split

theorem stageCostume_steady (x0) (x1) (h : Steady s₀ s) : Steady s₀ (stageCostume x0 x1 s) := by
  unfold stageCostume
  repeat' first
    | with_reducible assumption
    | with_reducible apply settleCostumes_steady
    | with_reducible apply freeVersions_steady
    | with_reducible apply setWardrobe_steady
    | refine fun x (hx : Steady s₀ x) a => ?_
    | refine fun x (hx : Steady s₀ x) => ?_
    | with_reducible refine Steady.upd ?_ rfl rfl rfl rfl

theorem costumeWrite_steady (x0) (h : Steady s₀ s) : Steady s₀ (costumeWrite x0 s) := by
  unfold costumeWrite
  repeat' first
    | with_reducible assumption
    | with_reducible apply guarded_steady
    | with_reducible apply wakePart_steady
    | with_reducible apply wr_steady
    | with_reducible apply wtake_steady
    | with_reducible apply costumeFails_steady
    | with_reducible apply stageCostume_steady
    | refine fun x (hx : Steady s₀ x) a => ?_
    | refine fun x (hx : Steady s₀ x) => ?_
    | with_reducible apply Steady.ite
    | ((try lift_lets); intro x; refine (?_ : Steady s₀ x → _) ?_; focus (intro hx; clear_value x))
    | ((try lift_lets); intro x; try clear_value x)
    | split
    | with_reducible refine Steady.upd ?_ rfl rfl rfl rfl

theorem logNanGroups_steady (x0) (h : Steady s₀ s) : Steady s₀ (logNanGroups x0 s) := by
  unfold logNanGroups
  repeat' first
    | with_reducible assumption
    | with_reducible apply formatEvent_steady
    | refine fun x (hx : Steady s₀ x) a => ?_
    | refine fun x (hx : Steady s₀ x) => ?_
    | with_reducible apply Steady.ite
    | with_reducible apply Steady.foldl
    | ((try lift_lets); intro x; refine (?_ : Steady s₀ x → _) ?_; focus (intro hx; clear_value x))
    | ((try lift_lets); intro x; try clear_value x)
    | split
    | with_reducible refine Steady.upd ?_ rfl rfl rfl rfl

theorem addVersion_steady (x0) (x1) (h : Steady s₀ s) : Steady s₀ (addVersion x0 x1 s) := by
  unfold addVersion
  repeat' first
    | with_reducible assumption
    | with_reducible apply setWardrobe_steady
    | with_reducible apply stageCostume_steady
    | with_reducible apply wr_steady
    | refine fun x (hx : Steady s₀ x) a => ?_
    | refine fun x (hx : Steady s₀ x) => ?_
    | ((try lift_lets); intro x; refine (?_ : Steady s₀ x → _) ?_; focus (intro hx; clear_value x))
    | ((try lift_lets); intro x; try clear_value x)
    | with_reducible refine Steady.upd ?_ rfl rfl rfl rfl

end Sys2Proof.Machine
end

