-- ==== Sys2Proof/Laws/SteadySteps.lean ====
section
/-! SUPPORT. The operations of Steps.lean are steady (Steady.lean). -/

namespace Sys2Proof.Machine

variable {s₀ s : State}

theorem updateQuality_steady (h : Steady s₀ s) : Steady s₀ (updateQuality s) := by
  unfold updateQuality
  repeat' first
    | with_reducible assumption
    | with_reducible apply wr_steady
    | refine fun x (hx : Steady s₀ x) a => ?_
    | refine fun x (hx : Steady s₀ x) => ?_
    | with_reducible apply Steady.ite
    | with_reducible apply Steady.foldl
    | ((try lift_lets); intro x; refine (?_ : Steady s₀ x → _) ?_; focus (intro hx; clear_value x))
    | ((try lift_lets); intro x; try clear_value x)
    | split

theorem advance_steady (n) (h : Steady s₀ s) : Steady (s₀.later n) (advance n s) := by
  have h' : ∀ f us op clocks, Steady (s₀.later n) (incHold f us
      { s with pwr := { s.pwr with operated := op }, now := s.now + n, evt := { s.evt with clocks := clocks } }) := fun f us op clocks =>
    incHold_steady _ _ ⟨h.queue, fun c => (h.canonical ⟨c.regs, c.scr, c.hdm, c.host, c.scrPoison, c.hdmPoison⟩ |> fun d =>
      ⟨d.regs, d.scr, d.hdm, d.host, d.scrPoison, d.hdmPoison⟩), congrArg (· + n) h.clock, h.serial, h.fwKeyHash, h.lcs, h.transition⟩
  unfold advance
  exact Steady.ite (updateQuality_steady (h' _ _ _ _)) (h' _ _ _ _)

theorem runStep_steady (x0) (h : Steady s₀ s) : Steady s₀ (runStep x0 s) := by
  unfold runStep
  repeat' first
    | with_reducible assumption
    | with_reducible apply wr_steady
    | with_reducible refine Steady.upd ?_ rfl rfl rfl rfl

theorem startNew_steady (x0) (x1) (h : Steady s₀ s) : Steady s₀ (startNew x0 x1 s) := by
  unfold startNew
  repeat' first
    | with_reducible assumption
    | with_reducible apply runStep_steady
    | with_reducible apply send_steady
    | refine fun x (hx : Steady s₀ x) a => ?_
    | refine fun x (hx : Steady s₀ x) => ?_
    | with_reducible apply Steady.ite
    | ((try lift_lets); intro x; refine (?_ : Steady s₀ x → _) ?_; focus (intro hx; clear_value x))
    | ((try lift_lets); intro x; try clear_value x)
    | split
    | with_reducible refine Steady.upd ?_ rfl rfl rfl rfl

theorem startReplay_steady (n) (h : Steady s₀ s) : Steady s₀ (startReplay n s) := by
  induction n generalizing s with
  | zero => unfold startReplay; exact h
  | succ n ih =>
    rw [startReplay.eq_def]
    generalize s.srv.voids = v
    cases v with
    | nil => exact h
    | cons t l =>
      dsimp only
      refine Steady.ite (ih ?_) (runStep_steady _ (incHold_steady _ _ ?_)) <;>
        with_reducible exact Steady.upd h rfl rfl rfl rfl

theorem startNext_steady (x0) (x1) (h : Steady s₀ s) : Steady s₀ (startNext x0 x1 s) := by
  unfold startNext
  repeat' first
    | with_reducible assumption
    | with_reducible apply startReplay_steady
    | with_reducible apply startNew_steady
    | with_reducible apply Steady.ite
    | ((try lift_lets); intro x; refine (?_ : Steady s₀ x → _) ?_; focus (intro hx; clear_value x))
    | ((try lift_lets); intro x; try clear_value x)
    | split

theorem noteNan_steady (x0) (x1) (h : Steady s₀ s) : Steady s₀ (noteNan x0 x1 s) := by
  unfold noteNan
  repeat' first
    | with_reducible assumption
    | with_reducible apply log_steady
    | with_reducible apply wr_steady

theorem drawPart_steady (x0) (x1) (h : Steady s₀ s) : Steady s₀ (drawPart x0 x1 s).2 := by
  unfold drawPart
  repeat' first
    | with_reducible assumption
    | with_reducible apply noteNan_steady
    | refine fun x (hx : Steady s₀ x) a => ?_
    | refine fun x (hx : Steady s₀ x) => ?_
    | with_reducible apply Steady.ite
    | with_reducible apply Steady.foldl
    | ((try lift_lets); intro x; refine (?_ : Steady s₀ x → _) ?_; focus (intro hx; clear_value x))
    | ((try lift_lets); intro x; try clear_value x)
    | split
    | with_reducible refine Steady.upd ?_ rfl rfl rfl rfl

theorem putDrawn_steady (x0) (x1) (x2) (x3) (h : Steady s₀ s) : Steady s₀ (putDrawn x0 x1 x2 x3 s) := by
  unfold putDrawn
  repeat' first
    | with_reducible assumption
    | with_reducible apply putEntry_steady
    | refine fun x (hx : Steady s₀ x) a => ?_
    | refine fun x (hx : Steady s₀ x) => ?_
    | with_reducible apply Steady.foldl
    | split
    | with_reducible refine Steady.upd ?_ rfl rfl rfl rfl

theorem releasePart_steady (x0) (x1) (h : Steady s₀ s) : Steady s₀ (releasePart x0 x1 s).2 := by
  unfold releasePart
  repeat' first
    | with_reducible assumption
    | with_reducible apply putDrawn_steady
    | with_reducible apply Steady.ite
    | split
    | with_reducible refine Steady.upd ?_ rfl rfl rfl rfl

theorem drawParts_steady (inp num) (l) (h : Steady s₀ s) : Steady s₀ (drawParts inp num l s).2 := by
  induction l generalizing s with
  | nil => exact h
  | cons p l ih => exact ih (releasePart_steady _ _ (drawPart_steady _ _ h))

theorem countGroup_steady (x0) (x1) (h : Steady s₀ s) : Steady s₀ (countGroup x0 x1 s).2 := by
  unfold countGroup
  repeat' first
    | with_reducible assumption
    | with_reducible apply formatEvent_steady
    | refine fun x (hx : Steady s₀ x) a => ?_
    | refine fun x (hx : Steady s₀ x) => ?_
    | with_reducible apply Steady.ite
    | ((try lift_lets); intro x; refine (?_ : Steady s₀ x → _) ?_; focus (intro hx; clear_value x))
    | ((try lift_lets); intro x; try clear_value x)
    | split
    | with_reducible refine Steady.upd ?_ rfl rfl rfl rfl

theorem countGroups_steady (t l) (h : Steady s₀ s) : Steady s₀ (countGroups t l s).2 := by
  unfold countGroups
  suffices ∀ a : List Count × State, Steady s₀ a.2 →
      Steady s₀ (l.foldl (fun a e => let c := countGroup t e a.2; (a.1 ++ c.1, c.2)) a).2 from this _ h
  induction l with
  | nil => exact fun a ha => ha
  | cons e l ih => exact fun a ha => ih _ (countGroup_steady _ _ ha)

theorem noteKvNan_steady (x0) (x1) (h : Steady s₀ s) : Steady s₀ (noteKvNan x0 x1 s) := by
  unfold noteKvNan
  repeat' first
    | with_reducible assumption
    | with_reducible apply formatEvent_steady
    | refine fun x (hx : Steady s₀ x) a => ?_
    | refine fun x (hx : Steady s₀ x) => ?_
    | with_reducible apply Steady.ite
    | ((try lift_lets); intro x; refine (?_ : Steady s₀ x → _) ?_; focus (intro hx; clear_value x))
    | ((try lift_lets); intro x; try clear_value x)
    | split
    | with_reducible refine Steady.upd ?_ rfl rfl rfl rfl
    | (simp only [id_eq]; with_reducible assumption)

theorem storeKv_steady (x0) (x1) (h : Steady s₀ s) : Steady s₀ (storeKv x0 x1 s) := by
  unfold storeKv
  repeat' first
    | with_reducible assumption
    | with_reducible apply noteKvNan_steady
    | refine fun x (hx : Steady s₀ x) a => ?_
    | refine fun x (hx : Steady s₀ x) => ?_
    | ((try lift_lets); intro x; refine (?_ : Steady s₀ x → _) ?_; focus (intro hx; clear_value x))
    | ((try lift_lets); intro x; try clear_value x)
    | with_reducible refine Steady.upd ?_ rfl rfl rfl rfl

theorem dropRows_steady (x0) (h : Steady s₀ s) : Steady s₀ (dropRows x0 s) := by
  unfold dropRows
  repeat' first
    | with_reducible assumption
    | refine fun x (hx : Steady s₀ x) a => ?_
    | refine fun x (hx : Steady s₀ x) => ?_
    | with_reducible refine Steady.upd ?_ rfl rfl rfl rfl

theorem sendProvisional_steady (x0) (h : Steady s₀ s) : Steady s₀ (sendProvisional x0 s) := by
  unfold sendProvisional
  repeat' first
    | with_reducible assumption
    | with_reducible apply send_steady
    | refine fun x (hx : Steady s₀ x) a => ?_
    | refine fun x (hx : Steady s₀ x) => ?_
    | with_reducible apply Steady.ite
    | with_reducible apply Steady.foldl
    | split
    | with_reducible refine Steady.upd ?_ rfl rfl rfl rfl

theorem finishRun_steady (x0) (x1) (h : Steady s₀ s) : Steady s₀ (finishRun x0 x1 s) := by
  unfold finishRun
  repeat' first
    | with_reducible assumption
    | with_reducible apply drawParts_steady
    | with_reducible apply countGroups_steady
    | with_reducible apply storeKv_steady
    | with_reducible apply sendProvisional_steady
    | with_reducible apply failRequest_steady
    | refine fun x (hx : Steady s₀ x) a => ?_
    | refine fun x (hx : Steady s₀ x) => ?_
    | with_reducible apply Steady.ite
    | with_reducible apply Steady.foldl
    | ((try lift_lets); intro x; refine (?_ : Steady s₀ x → _) ?_; focus (intro hx; clear_value x))
    | ((try lift_lets); intro x; try clear_value x)
    | split
    | with_reducible refine Steady.upd ?_ rfl rfl rfl rfl

theorem endRun_steady (x0) (h : Steady s₀ s) : Steady (s₀.later (runTime x0 s)) (endRun x0 s) := by
  unfold endRun
  split
  · next e =>
    rw [runTime, e]
    exact h
  next e =>
  rw [runTime, e]
  have h' : Steady (s₀.later (600 * x0.duration)) (advance (600 * x0.duration) s) := advance_steady _ h
  refine (?_ : Steady (s₀.later (600 * x0.duration)) _)
  repeat' first
    | with_reducible assumption
    | with_reducible apply finishRun_steady
    | with_reducible apply Steady.ite
    | ((try lift_lets); intro x; refine (?_ : Steady (s₀.later (600 * x0.duration)) x → _) ?_; focus (intro hx; clear_value x))
    | (intro x; try clear_value x)
    | split
    | with_reducible refine Steady.upd ?_ rfl rfl rfl rfl

theorem orphanShadows_steady (x0) (h : Steady s₀ s) : Steady s₀ (orphanShadows x0 s) := by
  unfold orphanShadows
  repeat' first
    | with_reducible assumption
    | refine fun x (hx : Steady s₀ x) a => ?_
    | refine fun x (hx : Steady s₀ x) => ?_
    | with_reducible apply Steady.ite
    | ((try lift_lets); intro x; refine (?_ : Steady s₀ x → _) ?_; focus (intro hx; clear_value x))
    | ((try lift_lets); intro x; try clear_value x)
    | split
    | with_reducible refine Steady.upd ?_ rfl rfl rfl rfl

theorem queueVoids_steady (h : Steady s₀ s) : Steady s₀ (queueVoids s) := by
  unfold queueVoids
  repeat' first
    | with_reducible assumption
    | with_reducible apply orphanShadows_steady
    | with_reducible apply dropRows_steady
    | with_reducible apply retractSteps_steady
    | with_reducible apply send_steady
    | refine fun x (hx : Steady s₀ x) a => ?_
    | refine fun x (hx : Steady s₀ x) => ?_
    | with_reducible apply Steady.ite
    | ((try lift_lets); intro x; refine (?_ : Steady s₀ x → _) ?_; focus (intro hx; clear_value x))
    | ((try lift_lets); intro x; try clear_value x)
    | split
    | with_reducible refine Steady.upd ?_ rfl rfl rfl rfl

theorem endSettlement_steady (x0) (x1) (h : Steady s₀ s) : Steady s₀ (endSettlement x0 x1 s) := by
  unfold endSettlement
  repeat' first
    | with_reducible assumption
    | with_reducible apply failRequest_steady
    | with_reducible apply incHold_steady
    | with_reducible apply wr_steady
    | with_reducible apply log_steady
    | with_reducible apply setStep_steady
    | refine fun x (hx : Steady s₀ x) a => ?_
    | refine fun x (hx : Steady s₀ x) => ?_
    | with_reducible apply Steady.foldl
    | ((try lift_lets); intro x; refine (?_ : Steady s₀ x → _) ?_; focus (intro hx; clear_value x))
    | ((try lift_lets); intro x; try clear_value x)
    | with_reducible refine Steady.upd ?_ rfl rfl rfl rfl

theorem countStage_steady (x0) (h : Steady s₀ s) : Steady s₀ (countStage x0 s) := by
  unfold countStage
  repeat' first
    | with_reducible assumption
    | with_reducible apply wr_steady
    | with_reducible apply incHold_steady
    | with_reducible apply Steady.ite
    | ((try lift_lets); intro x; refine (?_ : Steady s₀ x → _) ?_; focus (intro hx; clear_value x))
    | ((try lift_lets); intro x; try clear_value x)
    | split
    | with_reducible refine Steady.upd ?_ rfl rfl rfl rfl

theorem countSettled_steady (x0) (h : Steady s₀ s) : Steady s₀ (countSettled x0 s) := by
  unfold countSettled
  repeat' first
    | with_reducible assumption
    | with_reducible apply countStage_steady
    | with_reducible apply Steady.ite
    | split
    | with_reducible refine Steady.upd ?_ rfl rfl rfl rfl

theorem judgeHash_steady (x0) (x1) (x2) (h : Steady s₀ s) : Steady s₀ (judgeHash x0 x1 x2 s) := by
  unfold judgeHash
  repeat' first
    | with_reducible assumption
    | with_reducible apply countSettled_steady
    | with_reducible apply setStep_steady
    | with_reducible apply wr_steady
    | with_reducible apply endSettlement_steady
    | with_reducible apply send_steady
    | with_reducible apply voidFrom_steady
    | refine fun x (hx : Steady s₀ x) a => ?_
    | refine fun x (hx : Steady s₀ x) => ?_
    | with_reducible apply Steady.ite
    | ((try lift_lets); intro x; refine (?_ : Steady s₀ x → _) ?_; focus (intro hx; clear_value x))
    | ((try lift_lets); intro x; try clear_value x)
    | split
    | with_reducible refine Steady.upd ?_ rfl rfl rfl rfl

theorem offerHash_steady (h : Steady s₀ s) : Steady s₀ (offerHash s) := by
  unfold offerHash
  repeat' first
    | with_reducible assumption
    | with_reducible apply setStep_steady
    | with_reducible apply send_steady
    | with_reducible apply judgeHash_steady
    | refine fun x (hx : Steady s₀ x) a => ?_
    | refine fun x (hx : Steady s₀ x) => ?_
    | with_reducible apply Steady.ite
    | ((try lift_lets); intro x; refine (?_ : Steady s₀ x → _) ?_; focus (intro hx; clear_value x))
    | ((try lift_lets); intro x; try clear_value x)
    | split
    | with_reducible refine Steady.upd ?_ rfl rfl rfl rfl

theorem extendHistory_steady (x0) (x1) (h : Steady s₀ s) : Steady s₀ (extendHistory x0 x1 s) := by
  unfold extendHistory
  repeat' first
    | with_reducible assumption
    | with_reducible apply setSeq_steady
    | refine fun x (hx : Steady s₀ x) a => ?_
    | refine fun x (hx : Steady s₀ x) => ?_
    | with_reducible refine Steady.upd ?_ rfl rfl rfl rfl

theorem commitTokens_steady (x0) (x1) (x2) (h : Steady s₀ s) : Steady s₀ (commitTokens x0 x1 x2 s) := by
  unfold commitTokens
  repeat' first
    | with_reducible assumption
    | with_reducible apply putDrawn_steady
    | with_reducible apply extendHistory_steady
    | with_reducible apply setReq_steady
    | with_reducible apply endRequest_steady
    | with_reducible apply putResults_steady
    | refine fun x (hx : Steady s₀ x) a => ?_
    | refine fun x (hx : Steady s₀ x) => ?_
    | with_reducible apply Steady.ite
    | ((try lift_lets); intro x; refine (?_ : Steady s₀ x → _) ?_; focus (intro hx; clear_value x))
    | ((try lift_lets); intro x; try clear_value x)
    | split
    | with_reducible refine Steady.upd ?_ rfl rfl rfl rfl

theorem commitPart_steady (x0) (x1) (h : Steady s₀ s) : Steady s₀ (commitPart x0 x1 s) := by
  unfold commitPart
  repeat' first
    | with_reducible assumption
    | with_reducible apply setReq_steady
    | with_reducible apply failRequest_steady
    | with_reducible apply log_steady
    | with_reducible apply wr_steady
    | with_reducible apply commitTokens_steady
    | refine fun x (hx : Steady s₀ x) a => ?_
    | refine fun x (hx : Steady s₀ x) => ?_
    | with_reducible apply Steady.ite
    | ((try lift_lets); intro x; refine (?_ : Steady s₀ x → _) ?_; focus (intro hx; clear_value x))
    | ((try lift_lets); intro x; try clear_value x)
    | split
    | with_reducible refine Steady.upd ?_ rfl rfl rfl rfl

theorem addCount_steady (x0) (h : Steady s₀ s) : Steady s₀ (addCount x0 s) := by
  unfold addCount
  repeat' first
    | with_reducible assumption
    | with_reducible apply setRegion_steady
    | refine fun x (hx : Steady s₀ x) a => ?_
    | refine fun x (hx : Steady s₀ x) => ?_
    | ((try lift_lets); intro x; refine (?_ : Steady s₀ x → _) ?_; focus (intro hx; clear_value x))
    | ((try lift_lets); intro x; try clear_value x)
    | with_reducible refine Steady.upd ?_ rfl rfl rfl rfl

theorem commitRebuild_steady (x0) (h : Steady s₀ s) : Steady s₀ (commitRebuild x0 s) := by
  unfold commitRebuild
  repeat' first
    | with_reducible assumption
    | with_reducible apply setSeq_steady
    | refine fun x (hx : Steady s₀ x) a => ?_
    | refine fun x (hx : Steady s₀ x) => ?_
    | with_reducible refine Steady.upd ?_ rfl rfl rfl rfl

theorem commitRegs_steady (x0) (h : Steady s₀ s) : Steady s₀ (commitRegs x0 s) := by
  unfold commitRegs
  repeat' first
    | with_reducible assumption
    | with_reducible apply wr_steady
    | with_reducible apply log_steady
    | refine fun x (hx : Steady s₀ x) a => ?_
    | refine fun x (hx : Steady s₀ x) => ?_
    | with_reducible apply Steady.foldl
    | ((try lift_lets); intro x; refine (?_ : Steady s₀ x → _) ?_; focus (intro hx; clear_value x))
    | ((try lift_lets); intro x; try clear_value x)

theorem keepSaves_steady (x0) (h : Steady s₀ s) : Steady s₀ (keepSaves x0 s) := by
  unfold keepSaves
  repeat' first
    | with_reducible assumption
    | refine fun x (hx : Steady s₀ x) a => ?_
    | refine fun x (hx : Steady s₀ x) => ?_
    | with_reducible apply Steady.foldl
    | with_reducible refine Steady.upd ?_ rfl rfl rfl rfl

theorem commitStep_steady (x0) (h : Steady s₀ s) : Steady s₀ (commitStep x0 s) := by
  unfold commitStep
  repeat' first
    | with_reducible assumption
    | with_reducible apply keepSaves_steady
    | with_reducible apply evalWindows_steady
    | with_reducible apply commitPart_steady
    | with_reducible apply commitRebuild_steady
    | with_reducible apply addCount_steady
    | with_reducible apply commitRegs_steady
    | with_reducible apply send_steady
    | with_reducible apply freeVersions_steady
    | with_reducible apply freeDrained_steady
    | refine fun x (hx : Steady s₀ x) a => ?_
    | refine fun x (hx : Steady s₀ x) => ?_
    | with_reducible apply Steady.ite
    | with_reducible apply Steady.foldl
    | ((try lift_lets); intro x; refine (?_ : Steady s₀ x → _) ?_; focus (intro hx; clear_value x))
    | ((try lift_lets); intro x; try clear_value x)
    | split
    | with_reducible refine Steady.upd ?_ rfl rfl rfl rfl

theorem tryCommit_steady (h : Steady s₀ s) : Steady s₀ (tryCommit s) := by
  unfold tryCommit
  repeat' first
    | with_reducible assumption
    | with_reducible apply offerHash_steady
    | with_reducible apply commitStep_steady
    | with_reducible apply Steady.ite
    | ((try lift_lets); intro x; refine (?_ : Steady s₀ x → _) ?_; focus (intro hx; clear_value x))
    | ((try lift_lets); intro x; try clear_value x)
    | split
    | with_reducible refine Steady.upd ?_ rfl rfl rfl rfl

theorem exactReturn_steady (h : Steady s₀ s) : Steady s₀ (exactReturn s) := by
  unfold exactReturn
  repeat' first
    | with_reducible assumption
    | with_reducible apply Steady.ite
    | ((try lift_lets); intro x; refine (?_ : Steady s₀ x → _) ?_; focus (intro hx; clear_value x))
    | ((try lift_lets); intro x; try clear_value x)
    | split
    | with_reducible refine Steady.upd ?_ rfl rfl rfl rfl

theorem latchValues_steady (h : Steady s₀ s) : Steady s₀ (latchValues s) := by
  unfold latchValues
  repeat' first
    | with_reducible assumption
    | with_reducible refine Steady.upd ?_ rfl rfl rfl rfl

theorem stageAdvance_steady (x0) (x1) (h : Steady s₀ s) : Steady s₀ (stageAdvance x0 x1 s) := by
  unfold stageAdvance
  repeat' first
    | with_reducible assumption
    | with_reducible apply wr_steady
    | with_reducible apply log_steady
    | with_reducible apply Steady.ite
    | ((try lift_lets); intro x; refine (?_ : Steady s₀ x → _) ?_; focus (intro hx; clear_value x))
    | ((try lift_lets); intro x; try clear_value x)
    | split
    | with_reducible refine Steady.upd ?_ rfl rfl rfl rfl

theorem takePrediction_steady (x0) (h : Steady s₀ s) : Steady s₀ (takePrediction x0 s) := by
  unfold takePrediction
  repeat' first
    | with_reducible assumption
    | refine fun x (hx : Steady s₀ x) a => ?_
    | refine fun x (hx : Steady s₀ x) => ?_
    | with_reducible apply Steady.ite
    | split
    | with_reducible refine Steady.upd ?_ rfl rfl rfl rfl

theorem scheduleStep_steady (x0) (h : Steady s₀ s) : Steady s₀ (scheduleStep x0 s) := by
  unfold scheduleStep
  repeat' first
    | with_reducible assumption
    | with_reducible apply takePrediction_steady
    | with_reducible apply stageAdvance_steady
    | ((try lift_lets); intro x; refine (?_ : Steady s₀ x → _) ?_; focus (intro hx; clear_value x))
    | ((try lift_lets); intro x; try clear_value x)

theorem checkRing_steady (x0) (h : Steady s₀ s) : Steady s₀ (checkRing x0 s) := by
  unfold checkRing
  repeat' first
    | with_reducible assumption
    | with_reducible apply log_steady
    | with_reducible apply wr_steady
    | with_reducible apply Steady.ite
    | split

theorem serveRing_steady (x0) (h : Steady s₀ s) : Steady s₀ (serveRing x0 s) := by
  unfold serveRing
  repeat' first
    | with_reducible assumption
    | with_reducible apply flushHeld_steady
    | with_reducible apply checkRing_steady
    | with_reducible apply putResults_steady
    | with_reducible apply finish_steady
    | with_reducible apply Steady.ite
    | ((try lift_lets); intro x; refine (?_ : Steady s₀ x → _) ?_; focus (intro hx; clear_value x))
    | ((try lift_lets); intro x; try clear_value x)
    | split
    | with_reducible refine Steady.upd ?_ rfl rfl rfl rfl

theorem serveCancel_steady (x0) (h : Steady s₀ s) : Steady s₀ (serveCancel x0 s) := by
  unfold serveCancel
  repeat' first
    | with_reducible assumption
    | with_reducible apply finish_steady
    | with_reducible apply dropParts_steady
    | with_reducible apply Steady.ite
    | split
    | with_reducible refine Steady.upd ?_ rfl rfl rfl rfl

theorem serveFull_steady (x0) (h : Steady s₀ s) : Steady s₀ (serveFull x0 s) := by
  unfold serveFull
  repeat' first
    | with_reducible assumption
    | with_reducible apply endRequest_steady
    | with_reducible apply Steady.ite
    | split
    | with_reducible refine Steady.upd ?_ rfl rfl rfl rfl

theorem servePrompt_steady (x0) (h : Steady s₀ s) : Steady s₀ (servePrompt x0 s) := by
  unfold servePrompt
  repeat' first
    | with_reducible assumption
    | with_reducible apply failRequest_steady
    | with_reducible apply Steady.ite
    | ((try lift_lets); intro x; refine (?_ : Steady s₀ x → _) ?_; focus (intro hx; clear_value x))
    | ((try lift_lets); intro x; try clear_value x)
    | split
    | with_reducible refine Steady.upd ?_ rfl rfl rfl rfl

theorem serveRequests_steady (h : Steady s₀ s) : Steady s₀ (serveRequests s) := by
  unfold serveRequests
  repeat' first
    | with_reducible assumption
    | with_reducible apply serveCancel_steady
    | with_reducible apply serveRing_steady
    | with_reducible apply servePrompt_steady
    | with_reducible apply serveFull_steady
    | refine fun x (hx : Steady s₀ x) a => ?_
    | refine fun x (hx : Steady s₀ x) => ?_
    | with_reducible apply Steady.foldl
    | ((try lift_lets); intro x; refine (?_ : Steady s₀ x → _) ?_; focus (intro hx; clear_value x))
    | ((try lift_lets); intro x; try clear_value x)

theorem endReplayCover_steady (h : Steady s₀ s) : Steady s₀ (endReplayCover s) := by
  unfold endReplayCover
  repeat' first
    | with_reducible assumption
    | with_reducible apply mapBlocks_steady
    | refine fun x (hx : Steady s₀ x) a => ?_
    | refine fun x (hx : Steady s₀ x) => ?_
    | ((try lift_lets); intro x; refine (?_ : Steady s₀ x → _) ?_; focus (intro hx; clear_value x))
    | ((try lift_lets); intro x; try clear_value x)
    | with_reducible refine Steady.upd ?_ rfl rfl rfl rfl

theorem joinPair_steady (h : Steady s₀ s) : Steady s₀ (joinPair s) := by
  unfold joinPair
  repeat' first
    | with_reducible assumption
    | with_reducible apply wr_steady
    | refine fun x (hx : Steady s₀ x) a => ?_
    | refine fun x (hx : Steady s₀ x) => ?_
    | with_reducible apply Steady.ite
    | ((try lift_lets); intro x; refine (?_ : Steady s₀ x → _) ?_; focus (intro hx; clear_value x))
    | ((try lift_lets); intro x; try clear_value x)
    | split
    | with_reducible refine Steady.upd ?_ rfl rfl rfl rfl

theorem openStep_steady (x0) (h : Steady s₀ s) : Steady s₀ (openStep x0 s) := by
  unfold openStep
  repeat' first
    | with_reducible assumption
    | with_reducible apply latchValues_steady
    | with_reducible apply joinPair_steady
    | with_reducible apply scheduleStep_steady
    | with_reducible apply rattleAtBoundary_steady
    | with_reducible apply latchArrays_steady
    | with_reducible apply applyRecipes_steady
    | with_reducible apply latchCostumes_steady
    | with_reducible apply latchGens_steady
    | with_reducible apply leaveTinNow_steady
    | with_reducible apply serveRequests_steady
    | with_reducible apply exactReturn_steady
    | with_reducible apply admitAll_steady
    | with_reducible apply startNext_steady
    | with_reducible apply wrb_steady
    | refine fun x (hx : Steady s₀ x) a => ?_
    | refine fun x (hx : Steady s₀ x) => ?_
    | with_reducible apply Steady.ite
    | ((try lift_lets); intro x; refine (?_ : Steady s₀ x → _) ?_; focus (intro hx; clear_value x))
    | ((try lift_lets); intro x; try clear_value x)
    | split

theorem settleLast_steady (h : Steady s₀ s) : Steady s₀ (settleLast s) := by
  unfold settleLast
  repeat' first
    | with_reducible assumption
    | with_reducible apply tryCommit_steady
    | with_reducible apply openStep_steady
    | with_reducible apply Steady.ite
    | ((try lift_lets); intro x; refine (?_ : Steady s₀ x → _) ?_; focus (intro hx; clear_value x))
    | ((try lift_lets); intro x; try clear_value x)
    | split

theorem holdBoundary_steady (h : Steady s₀ s) : Steady s₀ (holdBoundary s) := by
  unfold holdBoundary
  repeat' first
    | with_reducible assumption
    | with_reducible apply incHold_steady
    | with_reducible apply Steady.ite
    | split
    | with_reducible refine Steady.upd ?_ rfl rfl rfl rfl

theorem commitEarlier_steady (h : Steady s₀ s) : Steady s₀ (commitEarlier s) := by
  unfold commitEarlier
  repeat' first
    | with_reducible assumption
    | with_reducible apply tryCommit_steady
    | with_reducible apply Steady.ite
    | split

theorem passBoundary_steady (x0) (h : Steady s₀ s) : Steady (s₀.later (runTime x0 s)) (passBoundary x0 s) := by
  have h' : Steady (s₀.later (runTime x0 s)) (endRun x0 { s with srv := { s.srv with holding := false } }) :=
    endRun_steady x0 (s := { s with srv := { s.srv with holding := false } }) (h.trans (.same rfl rfl rfl rfl rfl rfl rfl rfl rfl rfl rfl rfl))
  unfold passBoundary
  repeat' first
    | with_reducible assumption
    | with_reducible apply clearStep_steady
    | with_reducible apply queueVoids_steady
    | with_reducible apply commitEarlier_steady
    | with_reducible apply settleLast_steady
    | with_reducible apply openStep_steady
    | with_reducible apply endReplayCover_steady
    | with_reducible apply Steady.ite
    | ((try lift_lets); intro x; try clear_value x)
    | split
    | with_reducible refine Steady.upd ?_ rfl rfl rfl rfl

theorem commitIdle_steady (h : Steady s₀ s) : Steady s₀ (commitIdle s) := by
  unfold commitIdle
  repeat' first
    | with_reducible assumption
    | with_reducible apply queueVoids_steady
    | with_reducible apply tryCommit_steady
    | with_reducible apply settleLast_steady
    | with_reducible apply openStep_steady
    | with_reducible apply Steady.ite
    | ((try lift_lets); intro x; refine (?_ : Steady s₀ x → _) ?_; focus (intro hx; clear_value x))
    | ((try lift_lets); intro x; try clear_value x)
    | split

end Sys2Proof.Machine
end

