-- ==== Sys2Proof/Laws/SteadyMemory.lean ====
section
/-! SUPPORT. The operations of Memory.lean are steady (Steady.lean). -/

namespace Sys2Proof.Machine

variable {s₀ s : State}

theorem setHbm_steady (x0) (x1) (h : Steady s₀ s) : Steady s₀ (setHbm x0 x1 s) := by
  unfold setHbm
  repeat' first
    | with_reducible assumption
    | with_reducible refine Steady.upd ?_ rfl rfl rfl rfl

theorem activate_steady (h : Steady s₀ s) : Steady s₀ (activate s) := by
  unfold activate
  repeat' first
    | with_reducible assumption
    | with_reducible apply Steady.ite
    | split
    | with_reducible refine Steady.upd ?_ rfl rfl rfl rfl

theorem loseGenerations_steady (h : Steady s₀ s) : Steady s₀ (loseGenerations s) := by
  unfold loseGenerations
  repeat' first
    | with_reducible assumption
    | with_reducible apply endLoad_steady
    | with_reducible apply freeSlot_steady
    | with_reducible apply noActive_steady
    | refine fun x (hx : Steady s₀ x) a => ?_
    | refine fun x (hx : Steady s₀ x) => ?_
    | with_reducible apply Steady.ite
    | with_reducible apply Steady.foldl
    | ((try lift_lets); intro x; refine (?_ : Steady s₀ x → _) ?_; focus (intro hx; clear_value x))
    | ((try lift_lets); intro x; try clear_value x)
    | split
    | with_reducible refine Steady.upd ?_ rfl rfl rfl rfl

theorem failStack_steady (x0) (h : Steady s₀ s) : Steady s₀ (failStack x0 s) := by
  unfold failStack
  repeat' first
    | with_reducible assumption
    | with_reducible apply wr_steady
    | with_reducible apply raiseTin_steady
    | with_reducible apply loseGenerations_steady
    | with_reducible apply Steady.ite
    | ((try lift_lets); intro x; refine (?_ : Steady s₀ x → _) ?_; focus (intro hx; clear_value x))
    | ((try lift_lets); intro x; try clear_value x)
    | split

theorem repairRow_steady (x0) (x1) (x2) (x3) (h : Steady s₀ s) : Steady s₀ (repairRow x0 x1 x2 x3 s) := by
  unfold repairRow
  repeat' first
    | with_reducible assumption
    | with_reducible apply setHbm_steady
    | with_reducible apply log_steady
    | with_reducible apply wr_steady
    | with_reducible apply updateKvStat_steady
    | refine fun x (hx : Steady s₀ x) a => ?_
    | refine fun x (hx : Steady s₀ x) => ?_
    | with_reducible apply Steady.ite
    | ((try lift_lets); intro x; refine (?_ : Steady s₀ x → _) ?_; focus (intro hx; clear_value x))
    | ((try lift_lets); intro x; first | (have e : Nv := x; clear e; subst x) | (have e : Sec := x; clear e; subst x) | clear_value x)
    | split
    | with_reducible refine Steady.upd ?_ rfl rfl rfl rfl

theorem correctedLine_steady (x0) (x1) (x2) (x3) (x4) (h : Steady s₀ s) : Steady s₀ (correctedLine x0 x1 x2 x3 x4 s) := by
  unfold correctedLine
  repeat' first
    | with_reducible assumption
    | with_reducible apply setHbm_steady
    | with_reducible apply incHold_steady
    | with_reducible apply wr_steady
    | with_reducible apply log_steady
    | with_reducible apply repairRow_steady
    | refine fun x (hx : Steady s₀ x) a => ?_
    | refine fun x (hx : Steady s₀ x) => ?_
    | with_reducible apply Steady.ite
    | ((try lift_lets); intro x; refine (?_ : Steady s₀ x → _) ?_; focus (intro hx; clear_value x))
    | ((try lift_lets); intro x; try clear_value x)
    | split
    | with_reducible refine Steady.upd ?_ rfl rfl rfl rfl

theorem loseChunk_steady (x0) (x1) (h : Steady s₀ s) : Steady s₀ (loseChunk x0 x1 s) := by
  unfold loseChunk
  repeat' first
    | with_reducible assumption
    | with_reducible apply setGen_steady
    | with_reducible apply wr_steady
    | with_reducible apply askLost_steady
    | refine fun x (hx : Steady s₀ x) a => ?_
    | refine fun x (hx : Steady s₀ x) => ?_
    | with_reducible apply Steady.ite
    | ((try lift_lets); intro x; refine (?_ : Steady s₀ x → _) ?_; focus (intro hx; clear_value x))
    | ((try lift_lets); intro x; try clear_value x)
    | split
    | with_reducible refine Steady.upd ?_ rfl rfl rfl rfl

theorem damageSeq_steady (x0) (x1) (h : Steady s₀ s) : Steady s₀ (damageSeq x0 x1 s) := by
  unfold damageSeq
  repeat' first
    | with_reducible assumption
    | with_reducible apply setRunning_steady
    | with_reducible apply setSeq_steady
    | refine fun x (hx : Steady s₀ x) a => ?_
    | refine fun x (hx : Steady s₀ x) => ?_
    | with_reducible apply Steady.ite
    | ((try lift_lets); intro x; refine (?_ : Steady s₀ x → _) ?_; focus (intro hx; clear_value x))
    | ((try lift_lets); intro x; try clear_value x)
    | split
    | with_reducible refine Steady.upd ?_ rfl rfl rfl rfl
    | (simp only [id_eq]; with_reducible assumption)

theorem loseSeq_steady (x0) (h : Steady s₀ s) : Steady s₀ (loseSeq x0 s) := by
  unfold loseSeq
  repeat' first
    | with_reducible assumption
    | with_reducible apply startFetches_steady
    | with_reducible apply endSeq_steady
    | with_reducible apply failRequest_steady
    | refine fun x (hx : Steady s₀ x) a => ?_
    | refine fun x (hx : Steady s₀ x) => ?_
    | with_reducible apply Steady.foldl
    | ((try lift_lets); intro x; refine (?_ : Steady s₀ x → _) ?_; focus (intro hx; clear_value x))
    | ((try lift_lets); intro x; try clear_value x)

theorem areaEffect_steady (x0) (h : Steady s₀ s) : Steady s₀ (areaEffect x0 s) := by
  unfold areaEffect
  repeat' first
    | with_reducible assumption
    | with_reducible apply loseChunk_steady
    | with_reducible apply settle_steady
    | with_reducible apply wantRegion_steady
    | with_reducible apply loseSeq_steady
    | with_reducible apply voidRunning_steady
    | with_reducible apply damageSeq_steady
    | with_reducible apply Steady.ite
    | split
    | with_reducible refine Steady.upd ?_ rfl rfl rfl rfl
    | (with_reducible refine Steady.updMem ?_ rfl rfl rfl rfl ?_ ?_ ?_ ?_ ?_ ?_ <;> try first | exact id | (refine fun hw => ?_; first | exact putBytes_wf _ _ hw | exact putSome_wf _ _ hw | exact putView_wf _ _ _ hw | exact foldl_putByte_wf _ _ (SparseWf.nil _) | exact SparseWf.sset hw _ _ | exact SparseWf.filter hw _ | exact SparseWf.nil _))

theorem writeWord_steady (x0) (x1) (x2) (x3) (h : Steady s₀ s) : Steady s₀ (writeWord x0 x1 x2 x3 s) := by
  unfold writeWord
  repeat' first
    | with_reducible assumption
    | with_reducible apply Steady.ite
    | ((try lift_lets); intro x; refine (?_ : Steady s₀ x → _) ?_; focus (intro hx; clear_value x))
    | ((try lift_lets); intro x; try clear_value x)
    | split
    | with_reducible refine Steady.upd ?_ rfl rfl rfl rfl
    | (with_reducible refine Steady.updMem ?_ rfl rfl rfl rfl ?_ ?_ ?_ ?_ ?_ ?_ <;> try first | exact id | (refine fun hw => ?_; first | exact putBytes_wf _ _ hw | exact putSome_wf _ _ hw | exact putView_wf _ _ _ hw | exact foldl_putByte_wf _ _ (SparseWf.nil _) | exact SparseWf.sset hw _ _ | exact SparseWf.filter hw _ | exact SparseWf.nil _))

theorem scratchWrite_steady (x0) (x1) (x2) (x3) (x4) (h : Steady s₀ s) : Steady s₀ (scratchWrite x0 x1 x2 x3 x4 s) := by
  unfold scratchWrite
  repeat' first
    | with_reducible assumption
    | with_reducible apply viaBar_steady
    | with_reducible apply log_steady
    | with_reducible apply answer_steady
    | with_reducible apply logIgnored_steady
    | with_reducible apply writeWord_steady
    | refine fun x (hx : Steady s₀ x) a => ?_
    | refine fun x (hx : Steady s₀ x) => ?_
    | with_reducible apply Steady.ite
    | with_reducible apply Steady.foldl
    | ((try lift_lets); intro x; refine (?_ : Steady s₀ x → _) ?_; focus (intro hx; clear_value x))
    | ((try lift_lets); intro x; try clear_value x)
    | split

theorem scratchRead_steady (x0) (x1) (h : Steady s₀ s) : Steady s₀ (scratchRead x0 x1 s) := by
  unfold scratchRead
  repeat' first
    | with_reducible assumption
    | with_reducible apply logIgnored_steady
    | with_reducible apply answer_steady
    | refine fun x (hx : Steady s₀ x) a => ?_
    | refine fun x (hx : Steady s₀ x) => ?_
    | with_reducible apply Steady.ite
    | ((try lift_lets); intro x; refine (?_ : Steady s₀ x → _) ?_; focus (intro hx; clear_value x))
    | ((try lift_lets); intro x; try clear_value x)
    | split

theorem scratchAccess_steady (x0) (h : Steady s₀ s) : Steady s₀ (scratchAccess x0 s) := by
  unfold scratchAccess
  repeat' first
    | with_reducible assumption
    | with_reducible apply viaBar_steady
    | with_reducible apply scratchWrite_steady
    | with_reducible apply scratchRead_steady
    | with_reducible apply logIgnored_steady
    | with_reducible apply answer_steady
    | refine fun x (hx : Steady s₀ x) a => ?_
    | refine fun x (hx : Steady s₀ x) => ?_
    | ((try lift_lets); intro x; refine (?_ : Steady s₀ x → _) ?_; focus (intro hx; clear_value x))
    | ((try lift_lets); intro x; try clear_value x)
    | split
    | with_reducible refine Steady.upd ?_ rfl rfl rfl rfl

theorem ownWordLost_steady (x0) (h : Steady s₀ s) : Steady s₀ (ownWordLost x0 s) := by
  unfold ownWordLost
  repeat' first
    | with_reducible assumption
    | with_reducible apply voidRunning_steady
    | with_reducible apply putScr_steady
    | ((try lift_lets); intro x; refine (?_ : Steady s₀ x → _) ?_; focus (intro hx; clear_value x))
    | ((try lift_lets); intro x; try clear_value x)
    | split
    | with_reducible refine Steady.upd ?_ rfl rfl rfl rfl
    | (with_reducible refine Steady.updMem ?_ rfl rfl rfl rfl ?_ ?_ ?_ ?_ ?_ ?_ <;> try first | exact id | (refine fun hw => ?_; first | exact putBytes_wf _ _ hw | exact putSome_wf _ _ hw | exact putView_wf _ _ _ hw | exact foldl_putByte_wf _ _ (SparseWf.nil _) | exact SparseWf.sset hw _ _ | exact SparseWf.filter hw _ | exact SparseWf.nil _))

theorem scratchError_steady (x0) (x1) (h : Steady s₀ s) : Steady s₀ (scratchError x0 x1 s) := by
  unfold scratchError
  repeat' first
    | with_reducible assumption
    | with_reducible apply incHold_steady
    | with_reducible apply wr_steady
    | with_reducible apply log_steady
    | with_reducible apply ownWordLost_steady
    | with_reducible apply Steady.ite
    | ((try lift_lets); intro x; refine (?_ : Steady s₀ x → _) ?_; focus (intro hx; clear_value x))
    | ((try lift_lets); intro x; try clear_value x)
    | split
    | with_reducible refine Steady.upd ?_ rfl rfl rfl rfl
    | (with_reducible refine Steady.updMem ?_ rfl rfl rfl rfl ?_ ?_ ?_ ?_ ?_ ?_ <;> try first | exact id | (refine fun hw => ?_; first | exact putBytes_wf _ _ hw | exact putSome_wf _ _ hw | exact putView_wf _ _ _ hw | exact foldl_putByte_wf _ _ (SparseWf.nil _) | exact SparseWf.sset hw _ _ | exact SparseWf.filter hw _ | exact SparseWf.nil _))

theorem scratchStorm_steady (x0) (h : Steady s₀ s) : Steady s₀ (scratchStorm x0 s) := by
  unfold scratchStorm
  repeat' first
    | with_reducible assumption
    | with_reducible apply wr_steady
    | with_reducible apply Steady.ite
    | split

end Sys2Proof.Machine
end

