-- ==== Sys2Proof/Laws/SteadyEvents.lean ====
section
/-! SUPPORT. The operations of Events.lean are steady (Steady.lean). -/

namespace Sys2Proof.Machine

variable {s₀ s : State}

theorem takeSeq_steady (x0) (x1) (h : Steady s₀ s) : Steady s₀ (takeSeq x0 x1 s) := by
  unfold takeSeq
  repeat' first
    | with_reducible assumption
    | with_reducible refine Steady.upd ?_ rfl rfl rfl rfl

theorem setStaging_steady (x0) (h : Steady s₀ s) : Steady s₀ (setStaging x0 s) := by
  unfold setStaging
  repeat' first
    | with_reducible assumption
    | with_reducible apply Steady.ite
    | split
    | with_reducible refine Steady.upd ?_ rfl rfl rfl rfl

theorem mergeInto_steady (x0) (h : Steady s₀ s) : Steady s₀ (mergeInto x0 s) := by
  unfold mergeInto
  repeat' first
    | with_reducible assumption
    | with_reducible apply takeSeq_steady
    | with_reducible apply setStaging_steady
    | refine fun x (hx : Steady s₀ x) a => ?_
    | refine fun x (hx : Steady s₀ x) => ?_
    | with_reducible apply Steady.ite
    | split
    | with_reducible refine Steady.upd ?_ rfl rfl rfl rfl

theorem loseReport_steady (x0) (h : Steady s₀ s) : Steady s₀ (loseReport x0 s) := by
  unfold loseReport
  repeat' first
    | with_reducible assumption
    | with_reducible apply takeSeq_steady
    | with_reducible apply wr_steady
    | with_reducible apply Steady.ite
    | ((try lift_lets); intro x; refine (?_ : Steady s₀ x → _) ?_; focus (intro hx; clear_value x))
    | ((try lift_lets); intro x; try clear_value x)
    | split
    | with_reducible refine Steady.upd ?_ rfl rfl rfl rfl

theorem stageMarker_steady (x0) (h : Steady s₀ s) : Steady s₀ (stageMarker x0 s) := by
  unfold stageMarker
  repeat' first
    | with_reducible assumption
    | with_reducible apply takeSeq_steady
    | with_reducible apply setStaging_steady
    | ((try lift_lets); intro x; refine (?_ : Steady s₀ x → _) ?_; focus (intro hx; clear_value x))
    | ((try lift_lets); intro x; try clear_value x)
    | with_reducible refine Steady.upd ?_ rfl rfl rfl rfl

theorem stageReport_steady (x0) (h : Steady s₀ s) : Steady s₀ (stageReport x0 s) := by
  unfold stageReport
  repeat' first
    | with_reducible assumption
    | with_reducible apply takeSeq_steady
    | with_reducible apply setStaging_steady

theorem stageOrLose_steady (x0) (h : Steady s₀ s) : Steady s₀ (stageOrLose x0 s) := by
  unfold stageOrLose
  repeat' first
    | with_reducible assumption
    | with_reducible apply stageReport_steady
    | with_reducible apply loseReport_steady
    | with_reducible apply stageMarker_steady
    | with_reducible apply Steady.ite
    | ((try lift_lets); intro x; refine (?_ : Steady s₀ x → _) ?_; focus (intro hx; clear_value x))
    | ((try lift_lets); intro x; try clear_value x)
    | split

theorem traceReport_steady (x0) (h : Steady s₀ s) : Steady s₀ (traceReport x0 s) := by
  unfold traceReport
  repeat' first
    | with_reducible assumption
    | with_reducible apply incHold_steady
    | with_reducible apply setStaging_steady
    | with_reducible apply Steady.ite
    | ((try lift_lets); intro x; refine (?_ : Steady s₀ x → _) ?_; focus (intro hx; clear_value x))
    | ((try lift_lets); intro x; try clear_value x)
    | split

theorem takeReport_steady (x0) (h : Steady s₀ s) : Steady s₀ (takeReport x0 s) := by
  unfold takeReport
  repeat' first
    | with_reducible assumption
    | with_reducible apply traceReport_steady
    | with_reducible apply loseReport_steady
    | with_reducible apply mergeInto_steady
    | with_reducible apply stageOrLose_steady
    | with_reducible apply Steady.ite
    | split
    | with_reducible refine Steady.upd ?_ rfl rfl rfl rfl

theorem rollWindows_steady (h : Steady s₀ s) : Steady s₀ (rollWindows s) := by
  unfold rollWindows
  repeat' first
    | with_reducible assumption
    | with_reducible apply wr_steady
    | with_reducible apply Steady.ite
    | ((try lift_lets); intro x; refine (?_ : Steady s₀ x → _) ?_; focus (intro hx; clear_value x))
    | ((try lift_lets); intro x; try clear_value x)
    | split
    | with_reducible refine Steady.upd ?_ rfl rfl rfl rfl

theorem writeRing_steady (x0) (h : Steady s₀ s) : Steady s₀ (writeRing x0 s) := by
  unfold writeRing
  repeat' first
    | with_reducible assumption
    | with_reducible apply incWrap_steady
    | ((try lift_lets); intro x; refine (?_ : Steady s₀ x → _) ?_; focus (intro hx; clear_value x))
    | ((try lift_lets); intro x; try clear_value x)
    | with_reducible refine Steady.upd ?_ rfl rfl rfl rfl
    | (with_reducible refine Steady.updMem ?_ rfl rfl rfl rfl ?_ ?_ ?_ ?_ ?_ ?_ <;> try first | exact id | (refine fun hw => ?_; first | exact putBytes_wf _ _ hw | exact putSome_wf _ _ hw | exact putView_wf _ _ _ hw | exact foldl_putByte_wf _ _ (SparseWf.nil _) | exact SparseWf.sset hw _ _ | exact SparseWf.filter hw _ | exact SparseWf.nil _))

theorem drainMarkers_steady (h : Steady s₀ s) : Steady s₀ (drainMarkers s) := by
  unfold drainMarkers
  repeat' first
    | with_reducible assumption
    | with_reducible apply stageMarker_steady
    | refine fun x (hx : Steady s₀ x) a => ?_
    | refine fun x (hx : Steady s₀ x) => ?_
    | with_reducible apply Steady.ite
    | with_reducible apply Steady.foldl
    | split

theorem evtCfgWrite_steady (x0) (h : Steady s₀ s) : Steady s₀ (evtCfgWrite x0 s) := by
  unfold evtCfgWrite
  repeat' first
    | with_reducible assumption
    | with_reducible apply guarded_steady
    | with_reducible apply wr_steady
    | with_reducible apply wtake_steady
    | refine fun x (hx : Steady s₀ x) a => ?_
    | refine fun x (hx : Steady s₀ x) => ?_
    | with_reducible apply Steady.ite
    | ((try lift_lets); intro x; refine (?_ : Steady s₀ x → _) ?_; focus (intro hx; clear_value x))
    | ((try lift_lets); intro x; try clear_value x)
    | split
    | with_reducible refine Steady.upd ?_ rfl rfl rfl rfl

theorem evtTailWrite_steady (x0) (h : Steady s₀ s) : Steady s₀ (evtTailWrite x0 s) := by
  unfold evtTailWrite
  repeat' first
    | with_reducible assumption
    | with_reducible apply guarded_steady
    | with_reducible apply wr_steady
    | refine fun x (hx : Steady s₀ x) a => ?_
    | refine fun x (hx : Steady s₀ x) => ?_
    | with_reducible apply Steady.ite
    | ((try lift_lets); intro x; refine (?_ : Steady s₀ x → _) ?_; focus (intro hx; clear_value x))
    | ((try lift_lets); intro x; try clear_value x)
    | split

end Sys2Proof.Machine
end

