-- ==== Sys2Proof/Laws/SteadySecurity.lean ====
section
/-! SUPPORT. The operations of Security.lean are steady (Steady.lean). -/

namespace Sys2Proof.Machine

variable {s₀ s : State}

theorem zeroSecure_steady (h : Steady s₀ s) : Steady s₀ (zeroSecure s) := by
  unfold zeroSecure
  repeat' first
    | with_reducible assumption
    | refine fun x (hx : Steady s₀ x) a => ?_
    | refine fun x (hx : Steady s₀ x) => ?_
    | with_reducible refine Steady.upd ?_ rfl rfl rfl rfl
    | (with_reducible refine Steady.updMem ?_ rfl rfl rfl rfl ?_ ?_ ?_ ?_ ?_ ?_ <;> try first | exact id | (refine fun hw => ?_; first | exact putBytes_wf _ _ hw | exact putSome_wf _ _ hw | exact putView_wf _ _ _ hw | exact foldl_putByte_wf _ _ (SparseWf.nil _) | exact SparseWf.sset hw _ _ | exact SparseWf.filter hw _ | exact SparseWf.nil _))

theorem failReport_steady (x0) (h : Steady s₀ s) : Steady s₀ (failReport x0 s) := by
  unfold failReport
  repeat' first
    | with_reducible assumption
    | with_reducible apply wr_steady
    | with_reducible refine Steady.upd ?_ rfl rfl rfl rfl

theorem overtakeReport_steady (h : Steady s₀ s) : Steady s₀ (overtakeReport s) := by
  unfold overtakeReport
  repeat' first
    | with_reducible assumption
    | with_reducible apply failReport_steady
    | with_reducible apply Steady.ite
    | split
    | with_reducible refine Steady.upd ?_ rfl rfl rfl rfl

theorem startWipe_steady (x0) (h : Steady s₀ s) : Steady s₀ (startWipe x0 s) := by
  unfold startWipe
  repeat' first
    | with_reducible assumption
    | with_reducible apply wr_steady
    | with_reducible apply overtakeReport_steady
    | with_reducible apply zeroSecure_steady
    | with_reducible refine Steady.upd ?_ rfl rfl rfl rfl

theorem tamperTrigger_steady (x0) (h : Steady s₀ s) : Steady s₀ (tamperTrigger x0 s) := by
  unfold tamperTrigger
  repeat' first
    | with_reducible assumption
    | with_reducible apply startWipe_steady
    | with_reducible apply wr_steady
    | with_reducible refine Steady.upd ?_ rfl rfl rfl rfl

theorem newNonce_steady (h : Steady s₀ s) : Steady s₀ (newNonce s) :=
  Steady.upd (s := (draw s).2) (draw_steady h) rfl rfl rfl rfl

/-- A judged request is steady up to the transition it starts, which its target's rule allows (code 0). -/
theorem judgeLcs_steady (h : Steady s₀ s) :
    Steady s₀ (judgeLcs s) ∨ lcsCode (rd SEC_LCS_REQ.target s) (tokenAt s) s = 0 ∧ ∃ u, Steady s₀ u ∧
      Steady { u with sec := { u.sec with transition := some (rd SEC_LCS_REQ.target s) } } (judgeLcs s) := by
  have hu := newNonce_steady (wr_steady SEC_LCS_REQ.code (lcsCode (rd SEC_LCS_REQ.target s) (tokenAt s) s) h)
  rw [judgeLcs]
  split
  · exact .inr ⟨‹_›, _, hu, wr_steady _ _ (.refl _)⟩
  · exact .inl (wr_steady _ _ hu)

/-- A write of SEC_LCS_REQ is steady up to the transition that it starts. -/
theorem lcsReqWrite_steady (w) (h : Steady s₀ s) :
    Steady s₀ (lcsReqWrite w s) ∨ ∃ v u, Steady s₀ v ∧ Steady s₀ u ∧ lcsCode (rd SEC_LCS_REQ.target v) (tokenAt v) v = 0 ∧
      Steady { u with sec := { u.sec with transition := some (rd SEC_LCS_REQ.target v) } } (lcsReqWrite w s) := by
  unfold lcsReqWrite guarded byWriter viaBar
  split
  · exact .inl (answer_steady _ h)
  split
  · have hv : Steady s₀ (wtake SEC_LCS_REQ.tok w (wtake SEC_LCS_REQ.target w
        (wclear SEC_LCS_REQ.done w (wclear SEC_LCS_REQ.err w s)))) :=
      wtake_steady _ _ (wtake_steady _ _ (wclear_steady _ _ (wclear_steady _ _ h)))
    dsimp only
    split
    · rcases judgeLcs_steady hv with hj | ⟨hc, u, hu, hj⟩
      · exact .inl hj
      · exact .inr ⟨_, u, hv, hu, hc, hj⟩
    · exact .inl hv
  · exact .inl (logIgnored_steady _ _ _ h)

theorem provision_steady (h : Steady s₀ s) : Steady s₀ (provision s) := by
  unfold provision
  have h1 : Steady s₀ (if s.nv.cfgKeyHash.isNone then
      { s with nv := { s.nv with cfgKeyHash := some s.boot.config.signer, tinKeyHash := some s.boot.config.tinKey } } else s) :=
    Steady.ite (Steady.upd h rfl rfl rfl rfl) h
  dsimp only
  exact Steady.ite (Steady.upd (s := (draw _).2) (draw_steady h1) rfl rfl rfl rfl) h1

theorem lcsEffect_steady (x0) (x1) (h : Steady s₀ s) : Steady s₀ (lcsEffect x0 x1 s) := by
  unfold lcsEffect
  repeat' first
    | with_reducible assumption
    | with_reducible apply provision_steady
    | with_reducible apply Steady.ite
    | split
    | with_reducible refine Steady.upd ?_ rfl rfl rfl rfl

theorem scrap_steady (h : Steady s₀ s) : Steady s₀ (scrap s) := by
  unfold scrap
  repeat' first
    | with_reducible assumption
    | with_reducible apply haltPart_steady
    | with_reducible apply endLoad_steady
    | with_reducible apply abandonSteps_steady
    | with_reducible apply leavePair_steady
    | refine fun x (hx : Steady s₀ x) a => ?_
    | refine fun x (hx : Steady s₀ x) => ?_

/-- A committed transition is steady but for the life-cycle state, which becomes the target; no transition is left. -/
theorem commitLcs_steady (target) (h : Steady s₀ s) :
    ∃ u, Steady s₀ u ∧ Steady { u with nv := { u.nv with lcs := target }, sec := { u.sec with transition := none } }
      (commitLcs target s) := by
  refine ⟨_, lcsEffect_steady s.nv.lcs target h, ?_⟩
  unfold commitLcs
  dsimp only
  have hw := wr_steady SEC_LCS_REQ.busy 0 (wr_steady SEC_LCS_REQ.done 1 (startWipe_steady 6
    (.refl { lcsEffect s.nv.lcs target s with
      nv := { (lcsEffect s.nv.lcs target s).nv with lcs := target }
      sec := { (lcsEffect s.nv.lcs target s).sec with transition := none } })))
  split
  · exact scrap_steady (Steady.ite (endDebug_steady hw) hw)
  · exact Steady.ite (endDebug_steady hw) hw

theorem startReport_steady (h : Steady s₀ s) : Steady s₀ (startReport s) := by
  unfold startReport
  repeat' first
    | with_reducible assumption
    | with_reducible apply failReport_steady
    | with_reducible apply wr_steady
    | with_reducible apply Steady.ite
    | ((try lift_lets); intro x; refine (?_ : Steady s₀ x → _) ?_; focus (intro hx; clear_value x))
    | ((try lift_lets); intro x; first | (have e : Nv := x; clear e; subst x) | (have e : Sec := x; clear e; subst x) | clear_value x)
    | split
    | with_reducible refine Steady.upd ?_ rfl rfl rfl rfl

theorem attestCmdWrite_steady (x0) (h : Steady s₀ s) : Steady s₀ (attestCmdWrite x0 s) := by
  unfold attestCmdWrite
  repeat' first
    | with_reducible assumption
    | with_reducible apply guarded_steady
    | with_reducible apply wclear_steady
    | with_reducible apply logIgnored_steady
    | with_reducible apply startReport_steady
    | refine fun x (hx : Steady s₀ x) a => ?_
    | refine fun x (hx : Steady s₀ x) => ?_
    | with_reducible apply Steady.ite
    | ((try lift_lets); intro x; refine (?_ : Steady s₀ x → _) ?_; focus (intro hx; clear_value x))
    | ((try lift_lets); intro x; try clear_value x)
    | split

end Sys2Proof.Machine
end

