-- ==== Sys2Proof/Laws/SteadyBoot.lean ====
section
/-! SUPPORT. The operations of Boot.lean are steady (Steady.lean). -/

namespace Sys2Proof.Machine

variable {s₀ s : State}

theorem resetArrays_steady (x0) (x1) (h : Steady s₀ s) : Steady s₀ (resetArrays x0 x1 s) := by
  unfold resetArrays
  repeat' first
    | with_reducible assumption
    | refine fun x (hx : Steady s₀ x) a => ?_
    | refine fun x (hx : Steady s₀ x) => ?_
    | with_reducible apply Steady.foldl
    | with_reducible refine Steady.upd ?_ rfl rfl rfl rfl

theorem rebuildSlot_steady (x0) (x2) (h : Steady s₀ s) : Steady s₀ (rebuildSlot x0 s x2) := by
  unfold rebuildSlot
  repeat' first
    | with_reducible assumption
    | with_reducible apply freeSlot_steady
    | with_reducible apply wr_steady
    | with_reducible apply setGenState_steady
    | with_reducible apply setGen_steady
    | with_reducible apply Steady.ite
    | ((try lift_lets); intro x; refine (?_ : Steady s₀ x → _) ?_; focus (intro hx; clear_value x))
    | ((try lift_lets); intro x; try clear_value x)
    | split
    | with_reducible refine Steady.upd ?_ rfl rfl rfl rfl

theorem rebuildSlots_steady (x0) (h : Steady s₀ s) : Steady s₀ (rebuildSlots x0 s) := by
  unfold rebuildSlots
  repeat' first
    | with_reducible assumption
    | with_reducible apply rebuildSlot_steady
    | refine fun x (hx : Steady s₀ x) a => ?_
    | refine fun x (hx : Steady s₀ x) => ?_
    | with_reducible apply Steady.ite
    | with_reducible apply Steady.foldl
    | ((try lift_lets); intro x; refine (?_ : Steady s₀ x → _) ?_; focus (intro hx; clear_value x))
    | ((try lift_lets); intro x; try clear_value x)
    | split
    | with_reducible refine Steady.upd ?_ rfl rfl rfl rfl

theorem carryRetired_steady (old : State) (h : Steady s₀ s) : Steady s₀ (carryRetired old s) :=
  Steady.foldl h fun _ hx _ => Steady.ite (wr_steady _ _ hx) hx

theorem resetRegs_steady (keep fields) (h : Steady s₀ s) : Steady s₀ (resetRegs keep fields s) :=
  carryRetired_steady _ (Steady.foldl
    (Steady.updMem h rfl rfl rfl rfl (fun hw => SparseWf.filter hw _) id id id id id)
    fun _ hx _ => Steady.ite hx (wr_steady _ _ hx))

theorem causesAfterReset_steady (h : Steady s₀ s) : Steady s₀ (causesAfterReset s) := by
  unfold causesAfterReset
  repeat' first
    | with_reducible assumption
    | with_reducible apply wr_steady
    | with_reducible apply Steady.ite
    | split

theorem repairsAfterPor_steady (h : Steady s₀ s) : Steady s₀ (repairsAfterPor s) := by
  unfold repairsAfterPor
  repeat' first
    | with_reducible assumption
    | with_reducible apply wr_steady
    | refine fun x (hx : Steady s₀ x) a => ?_
    | refine fun x (hx : Steady s₀ x) => ?_
    | with_reducible apply Steady.ite
    | with_reducible apply Steady.foldl
    | split

theorem porState_steady (h : Steady s₀ s) : Steady s₀ (porState s) :=
  Steady.upd (repairsAfterPor_steady (causesAfterReset_steady (rebuildSlots_steady _ (resetArrays_steady _ _ (resetRegs_steady _ _
    (h.trans ⟨rfl, fun c => ⟨c.regs, SparseWf.nil _, SparseWf.nil _, c.host, SparseWf.nil _, SparseWf.nil _⟩, rfl,
      rfl, rfl, rfl, .inr rfl⟩)))))) rfl rfl rfl rfl

theorem applyEntry_steady (x1) (h : Steady s₀ s) : Steady s₀ (applyEntry s x1) := by
  unfold applyEntry
  repeat' first
    | with_reducible assumption
    | with_reducible apply wr_steady
    | refine fun x (hx : Steady s₀ x) a => ?_
    | refine fun x (hx : Steady s₀ x) => ?_
    | with_reducible apply Steady.foldl
    | split
    | with_reducible refine Steady.upd ?_ rfl rfl rfl rfl

theorem takeRecord_steady (x0) (h : Steady s₀ s) : Steady s₀ (takeRecord x0 s) := by
  unfold takeRecord
  repeat' first
    | with_reducible assumption
    | with_reducible apply applyEntry_steady
    | with_reducible apply wr_steady
    | refine fun x (hx : Steady s₀ x) a => ?_
    | refine fun x (hx : Steady s₀ x) => ?_
    | with_reducible apply Steady.foldl
    | ((try lift_lets); intro x; refine (?_ : Steady s₀ x → _) ?_; focus (intro hx; clear_value x))
    | ((try lift_lets); intro x; try clear_value x)
    | with_reducible refine Steady.upd ?_ rfl rfl rfl rfl

theorem readRecord_steady (h : Steady s₀ s) : Steady s₀ (readRecord s) := by
  unfold readRecord
  repeat' first
    | with_reducible assumption
    | with_reducible apply wr_steady
    | with_reducible apply putTinBit_steady
    | with_reducible apply takeRecord_steady
    | with_reducible apply Steady.ite
    | ((try lift_lets); intro x; refine (?_ : Steady s₀ x → _) ?_; focus (intro hx; clear_value x))
    | ((try lift_lets); intro x; try clear_value x)
    | split
    | with_reducible refine Steady.upd ?_ rfl rfl rfl rfl

theorem keepsToProgram_steady (h : Steady s₀ s) : Steady s₀ (keepsToProgram s) := by
  unfold keepsToProgram
  repeat' first
    | with_reducible assumption
    | with_reducible apply keepDone_steady
    | refine fun x (hx : Steady s₀ x) a => ?_
    | refine fun x (hx : Steady s₀ x) => ?_
    | with_reducible refine Steady.upd ?_ rfl rfl rfl rfl

theorem takeContainer_steady (x0) (h : Steady s₀ s) : Steady s₀ (takeContainer x0 s) := by
  unfold takeContainer
  repeat' first
    | with_reducible assumption
    | with_reducible apply keepsToProgram_steady
    | with_reducible apply Steady.ite
    | split
    | with_reducible refine Steady.upd ?_ rfl rfl rfl rfl

theorem readContainer_steady (x0) (h : Steady s₀ s) : Steady s₀ (readContainer x0 s) := by
  unfold readContainer
  repeat' first
    | with_reducible assumption
    | with_reducible apply takeContainer_steady
    | with_reducible apply wr_steady
    | with_reducible apply Steady.ite
    | ((try lift_lets); intro x; refine (?_ : Steady s₀ x → _) ?_; focus (intro hx; clear_value x))
    | ((try lift_lets); intro x; try clear_value x)
    | split
    | with_reducible refine Steady.upd ?_ rfl rfl rfl rfl

theorem settleModel_steady (h : Steady s₀ s) : Steady s₀ (settleModel s) := by
  unfold settleModel
  repeat' first
    | with_reducible assumption
    | with_reducible apply wrb_steady
    | ((try lift_lets); intro x; refine (?_ : Steady s₀ x → _) ?_; focus (intro hx; clear_value x))
    | ((try lift_lets); intro x; try clear_value x)
    | with_reducible refine Steady.upd ?_ rfl rfl rfl rfl

theorem loadScan_steady (h : Steady s₀ s) : Steady s₀ (loadScan s) := by
  unfold loadScan
  repeat' first
    | with_reducible assumption
    | with_reducible apply kickScan_steady
    | with_reducible apply setReg_steady
    | refine fun x (hx : Steady s₀ x) a => ?_
    | refine fun x (hx : Steady s₀ x) => ?_
    | with_reducible apply Steady.foldl

theorem placeTables_steady (h : Steady s₀ s) : Steady s₀ (placeTables s) := by
  unfold placeTables
  repeat' first
    | with_reducible assumption
    | refine fun x (hx : Steady s₀ x) a => ?_
    | refine fun x (hx : Steady s₀ x) => ?_
    | ((try lift_lets); intro x; refine (?_ : Steady s₀ x → _) ?_; focus (intro hx; clear_value x))
    | ((try lift_lets); intro x; try clear_value x)
    | with_reducible refine Steady.upd ?_ rfl rfl rfl rfl
    | (with_reducible refine Steady.updMem ?_ rfl rfl rfl rfl ?_ ?_ ?_ ?_ ?_ ?_ <;> try first | exact id | (refine fun hw => ?_; first | exact putBytes_wf _ _ hw | exact putSome_wf _ _ hw | exact putView_wf _ _ _ hw | exact foldl_putByte_wf _ _ (SparseWf.nil _) | exact SparseWf.sset hw _ _ | exact SparseWf.filter hw _ | exact SparseWf.nil _))

theorem bootOnward_steady (h : Steady s₀ s) : Steady s₀ (bootOnward s) := by
  unfold bootOnward
  repeat' first
    | with_reducible assumption
    | with_reducible apply wr_steady
    | with_reducible apply readRecord_steady
    | with_reducible apply settleModel_steady
    | with_reducible apply readContainer_steady
    | with_reducible apply updateKvStat_steady
    | with_reducible apply placeTables_steady
    | with_reducible apply loadScan_steady
    | with_reducible apply setRefbuf_steady
    | with_reducible apply bootSettled_steady
    | with_reducible apply Steady.ite
    | ((try lift_lets); intro x; refine (?_ : Steady s₀ x → _) ?_; focus (intro hx; clear_value x))
    | ((try lift_lets); intro x; try clear_value x)
    | split

theorem runImage_steady (x0) (x1) (h : Steady s₀ s) : Steady s₀ (runImage x0 x1 s) := by
  unfold runImage
  repeat' first
    | with_reducible assumption
    | with_reducible apply bootOnward_steady
    | with_reducible apply wr_steady
    | ((try lift_lets); intro x; refine (?_ : Steady s₀ x → _) ?_; focus (intro hx; clear_value x))
    | ((try lift_lets); intro x; try clear_value x)
    | with_reducible refine Steady.upd ?_ rfl rfl rfl rfl

theorem openNvm_steady (h : Steady s₀ s) : Steady s₀ (openNvm s) := by
  unfold openNvm
  repeat' first
    | with_reducible assumption
    | with_reducible apply wrb_steady
    | with_reducible apply wr_steady
    | with_reducible apply Steady.ite
    | ((try lift_lets); intro x; refine (?_ : Steady s₀ x → _) ?_; focus (intro hx; clear_value x))
    | ((try lift_lets); intro x; try clear_value x)
    | split

theorem startHbm_steady (h : Steady s₀ s) : Steady s₀ (startHbm s) := by
  unfold startHbm
  repeat' first
    | with_reducible assumption
    | with_reducible apply activate_steady
    | with_reducible apply leaveSelfRefresh_steady
    | with_reducible apply wr_steady
    | refine fun x (hx : Steady s₀ x) a => ?_
    | refine fun x (hx : Steady s₀ x) => ?_
    | with_reducible apply Steady.ite
    | with_reducible apply Steady.foldl
    | split

theorem failLost_steady (x0) (h : Steady s₀ s) : Steady s₀ (failLost x0 s) := by
  unfold failLost
  repeat' first
    | with_reducible assumption
    | with_reducible apply failSlot_steady
    | refine fun x (hx : Steady s₀ x) a => ?_
    | refine fun x (hx : Steady s₀ x) => ?_
    | with_reducible apply Steady.ite
    | with_reducible apply Steady.foldl
    | ((try lift_lets); intro x; refine (?_ : Steady s₀ x → _) ?_; focus (intro hx; clear_value x))
    | ((try lift_lets); intro x; try clear_value x)
    | split

theorem enterRecovery_steady (x0) (h : Steady s₀ s) : Steady s₀ (enterRecovery x0 s) := by
  unfold enterRecovery
  repeat' first
    | with_reducible assumption
    | with_reducible apply wr_steady
    | with_reducible apply settleModel_steady
    | with_reducible apply readContainer_steady
    | with_reducible apply setGlb_steady
    | with_reducible apply setRefbuf_steady
    | with_reducible apply loadScan_steady
    | with_reducible apply failLost_steady
    | with_reducible apply Steady.ite
    | ((try lift_lets); intro x; refine (?_ : Steady s₀ x → _) ?_; focus (intro hx; clear_value x))
    | ((try lift_lets); intro x; try clear_value x)
    | split

theorem eraseAll_steady (h : Steady s₀ s) : Steady s₀ (eraseAll s) := by
  unfold eraseAll
  repeat' first
    | with_reducible assumption
    | with_reducible refine Steady.upd ?_ rfl rfl rfl rfl

theorem beginErase_steady (h : Steady s₀ s) : Steady s₀ (beginErase s) := by
  unfold beginErase
  repeat' first
    | with_reducible assumption
    | with_reducible apply freeSlot_steady
    | with_reducible apply mapBlocks_steady
    | refine fun x (hx : Steady s₀ x) a => ?_
    | refine fun x (hx : Steady s₀ x) => ?_
    | with_reducible apply Steady.ite
    | with_reducible apply Steady.foldl
    | ((try lift_lets); intro x; refine (?_ : Steady s₀ x → _) ?_; focus (intro hx; clear_value x))
    | ((try lift_lets); intro x; first | (have e : Nv := x; clear e; subst x) | (have e : Sec := x; clear e; subst x) | clear_value x)
    | split
    | with_reducible refine Steady.upd ?_ rfl rfl rfl rfl

theorem seedShadow_steady (h : Steady s₀ s) : Steady s₀ (seedShadow s) := by
  unfold seedShadow
  repeat' first
    | with_reducible assumption
    | refine fun x (hx : Steady s₀ x) a => ?_
    | refine fun x (hx : Steady s₀ x) => ?_
    | with_reducible refine Steady.upd ?_ rfl rfl rfl rfl

theorem bootRom_steady (h : Steady s₀ s) : Steady s₀ (bootRom s) := by
  unfold bootRom
  lift_lets
  intro src s0 x y
  have hx : Steady s₀ x := seedShadow_steady (Steady.upd h rfl rfl rfl rfl)
  have hy : Steady s₀ y := startHbm_steady (openNvm_steady (Steady.ite (beginErase_steady hx) hx))
  clear_value x y
  refine Steady.ite (haltPart_steady _ (Steady.ite (eraseAll_steady hx) hx)) ?_
  split
  · exact enterRecovery_steady _ hy
  · exact runImage_steady _ _ (wr_steady _ _ hy)

theorem lockPll_steady (h : Steady s₀ s) : Steady s₀ (lockPll s) := by
  unfold lockPll
  repeat' first
    | with_reducible assumption
    | with_reducible apply draw_steady
    | with_reducible apply wr_steady
    | ((try lift_lets); intro x; refine (?_ : Steady s₀ x → _) ?_; focus (intro hx; clear_value x))
    | ((try lift_lets); intro x; try clear_value x)
    | with_reducible refine Steady.upd ?_ rfl rfl rfl rfl

theorem scratchAfterReset_steady (h : Steady s₀ s) : Steady s₀ (scratchAfterReset s) :=
  Steady.updMem (s := (draw (zeroSecure s)).2) (draw_steady (zeroSecure_steady h)) rfl rfl rfl rfl id
    (fun _ => foldl_putByte_wf _ _ (SparseWf.nil _)) id id id id

theorem servingAfterReset_steady (h : Steady s₀ s) : Steady s₀ (servingAfterReset s) := by
  unfold servingAfterReset
  repeat' first
    | with_reducible assumption
    | with_reducible apply dropRows_steady
    | with_reducible apply trimSeq_steady
    | with_reducible apply wr_steady
    | refine fun x (hx : Steady s₀ x) a => ?_
    | refine fun x (hx : Steady s₀ x) => ?_
    | with_reducible apply Steady.foldl
    | ((try lift_lets); intro x; refine (?_ : Steady s₀ x → _) ?_; focus (intro hx; clear_value x))
    | ((try lift_lets); intro x; try clear_value x)
    | with_reducible refine Steady.upd ?_ rfl rfl rfl rfl

theorem parkHbm_steady (h : Steady s₀ s) : Steady s₀ (parkHbm s) := by
  unfold parkHbm
  repeat' first
    | with_reducible assumption
    | with_reducible apply wr_steady
    | refine fun x (hx : Steady s₀ x) a => ?_
    | refine fun x (hx : Steady s₀ x) => ?_
    | with_reducible apply Steady.ite
    | with_reducible apply Steady.foldl
    | split
    | with_reducible refine Steady.upd ?_ rfl rfl rfl rfl

theorem unitsAfterReset_steady (h : Steady s₀ s) : Steady s₀ (unitsAfterReset s) :=
  h.trans ⟨rfl, fun c => ⟨c.regs, c.scr, c.hdm, c.host, c.scrPoison, c.hdmPoison⟩, rfl, rfl, rfl, rfl, .inr rfl⟩

theorem powerAfterReset_steady (h : Steady s₀ s) : Steady s₀ (powerAfterReset s) := by
  unfold powerAfterReset
  repeat' first
    | with_reducible assumption
    | with_reducible apply wr_steady

theorem enterWarmReset_steady (h : Steady s₀ s) : Steady s₀ (enterWarmReset s) := by
  unfold enterWarmReset
  repeat' first
    | with_reducible assumption
    | with_reducible apply abandonSteps_steady
    | with_reducible apply leavePair_steady
    | with_reducible apply parkHbm_steady
    | with_reducible apply setGlb_steady
    | with_reducible apply servingAfterReset_steady
    | with_reducible apply resetRegs_steady
    | with_reducible apply rebuildSlots_steady
    | with_reducible apply resetArrays_steady
    | with_reducible apply scratchAfterReset_steady
    | with_reducible apply unitsAfterReset_steady
    | with_reducible apply powerAfterReset_steady
    | with_reducible apply causesAfterReset_steady
    | with_reducible apply wr_steady
    | with_reducible apply updateSuspect_steady
    | refine fun x (hx : Steady s₀ x) a => ?_
    | refine fun x (hx : Steady s₀ x) => ?_
    | ((try lift_lets); intro x; refine (?_ : Steady s₀ x → _) ?_; focus (intro hx; clear_value x))
    | ((try lift_lets); intro x; try clear_value x)
    | with_reducible refine Steady.upd ?_ rfl rfl rfl rfl

theorem bootWarm_steady (h : Steady s₀ s) : Steady s₀ (bootWarm s) := by
  unfold bootWarm
  repeat' first
    | with_reducible assumption
    | with_reducible apply bootRom_steady
    | with_reducible refine Steady.upd ?_ rfl rfl rfl rfl

theorem warmResetCommand_steady (h : Steady s₀ s) : Steady s₀ (warmResetCommand s) := by
  unfold warmResetCommand
  repeat' first
    | with_reducible assumption
    | with_reducible apply enterWarmReset_steady
    | with_reducible apply bootWarm_steady
    | with_reducible apply Steady.ite
    | ((try lift_lets); intro x; refine (?_ : Steady s₀ x → _) ?_; focus (intro hx; clear_value x))
    | ((try lift_lets); intro x; try clear_value x)
    | split

theorem causesAtCal_steady (h : Steady s₀ s) : Steady s₀ (causesAtCal s) := by
  unfold causesAtCal
  repeat' first
    | with_reducible assumption
    | with_reducible apply putTinBit_steady
    | refine fun x (hx : Steady s₀ x) a => ?_
    | refine fun x (hx : Steady s₀ x) => ?_
    | with_reducible apply Steady.ite
    | ((try lift_lets); intro x; refine (?_ : Steady s₀ x → _) ?_; focus (intro hx; clear_value x))
    | ((try lift_lets); intro x; try clear_value x)
    | split

theorem resumeService_steady (h : Steady s₀ s) : Steady s₀ (resumeService s) := by
  unfold resumeService
  repeat' first
    | with_reducible assumption
    | with_reducible apply failLost_steady
    | with_reducible apply admitAll_steady
    | with_reducible apply scanAll_steady
    | refine fun x (hx : Steady s₀ x) a => ?_
    | refine fun x (hx : Steady s₀ x) => ?_
    | with_reducible apply Steady.foldl
    | ((try lift_lets); intro x; refine (?_ : Steady s₀ x → _) ?_; focus (intro hx; clear_value x))
    | ((try lift_lets); intro x; try clear_value x)

theorem leaveCal_steady (h : Steady s₀ s) : Steady s₀ (leaveCal s) := by
  unfold leaveCal
  repeat' first
    | with_reducible assumption
    | with_reducible apply wr_steady
    | with_reducible apply causesAtCal_steady
    | with_reducible apply setGlb_steady
    | with_reducible apply haltNoKeep_steady
    | with_reducible apply noteTin_steady
    | with_reducible apply resumeService_steady
    | with_reducible apply Steady.ite
    | ((try lift_lets); intro x; refine (?_ : Steady s₀ x → _) ?_; focus (intro hx; clear_value x))
    | ((try lift_lets); intro x; try clear_value x)
    | split

theorem recovResult_steady (x0) (x1) (h : Steady s₀ s) : Steady s₀ (recovResult x0 x1 s) := by
  unfold recovResult
  repeat' first
    | with_reducible assumption
    | with_reducible apply wr_steady

theorem tryImage_steady (x0) (h : Steady s₀ s) : Steady s₀ (tryImage x0 s) := by
  unfold tryImage
  repeat' first
    | with_reducible assumption
    | with_reducible apply recovResult_steady
    | with_reducible apply runImage_steady
    | with_reducible apply Steady.ite
    | ((try lift_lets); intro x; refine (?_ : Steady s₀ x → _) ?_; focus (intro hx; clear_value x))
    | ((try lift_lets); intro x; try clear_value x)
    | split

theorem recovCtlWrite_steady (x0) (x1) (h : Steady s₀ s) : Steady s₀ (recovCtlWrite x0 x1 s) := by
  unfold recovCtlWrite
  repeat' first
    | with_reducible assumption
    | with_reducible apply guarded_steady
    | with_reducible apply logIgnored_steady
    | with_reducible apply wtake_steady
    | with_reducible apply recovResult_steady
    | with_reducible apply tryImage_steady
    | with_reducible apply wr_steady
    | refine fun x (hx : Steady s₀ x) a => ?_
    | refine fun x (hx : Steady s₀ x) => ?_
    | with_reducible apply Steady.ite
    | ((try lift_lets); intro x; refine (?_ : Steady s₀ x → _) ?_; focus (intro hx; clear_value x))
    | ((try lift_lets); intro x; try clear_value x)
    | split
    | with_reducible refine Steady.upd ?_ rfl rfl rfl rfl

end Sys2Proof.Machine
end

