-- ==== Sys2Proof/Laws/SteadyCxl.lean ====
section
/-! SUPPORT. The operations of Cxl.lean are steady (Steady.lean). -/

namespace Sys2Proof.Machine

variable {s₀ s : State}

theorem logLink_steady (h : Steady s₀ s) : Steady s₀ (logLink s) := by
  unfold logLink
  repeat' first
    | with_reducible assumption
    | with_reducible apply log_steady

theorem linkLost_steady (h : Steady s₀ s) : Steady s₀ (linkLost s) := by
  unfold linkLost
  repeat' first
    | with_reducible assumption
    | with_reducible apply logLink_steady
    | with_reducible apply Steady.ite
    | split
    | with_reducible refine Steady.upd ?_ rfl rfl rfl rfl

theorem resetConfig_steady (h : Steady s₀ s) : Steady s₀ (resetConfig s) := by
  unfold resetConfig
  repeat' first
    | with_reducible assumption
    | with_reducible refine Steady.upd ?_ rfl rfl rfl rfl

theorem hostMem_steady (x0) (h : Steady s₀ s) : Steady s₀ (hostMem x0 s) := by
  unfold hostMem
  repeat' first
    | with_reducible assumption
    | with_reducible apply scanAll_steady
    | with_reducible apply wakePart_steady
    | with_reducible apply admitAll_steady
    | with_reducible apply serveMem_steady
    | with_reducible apply Steady.ite
    | ((try lift_lets); intro x; refine (?_ : Steady s₀ x → _) ?_; focus (intro hx; clear_value x))
    | ((try lift_lets); intro x; try clear_value x)
    | split
    | with_reducible refine Steady.upd ?_ rfl rfl rfl rfl

theorem changeSaved_steady (x0) (x1) (h : Steady s₀ s) : Steady s₀ (changeSaved x0 x1 s) := by
  unfold changeSaved
  repeat' first
    | with_reducible assumption
    | refine fun x (hx : Steady s₀ x) a => ?_
    | refine fun x (hx : Steady s₀ x) => ?_
    | with_reducible apply Steady.ite
    | ((try lift_lets); intro x; refine (?_ : Steady s₀ x → _) ?_; focus (intro hx; clear_value x))
    | ((try lift_lets); intro x; try clear_value x)
    | split
    | with_reducible refine Steady.upd ?_ rfl rfl rfl rfl

theorem refuseAccess_steady (x0) (h : Steady s₀ s) : Steady s₀ (refuseAccess x0 s) := by
  unfold refuseAccess
  repeat' first
    | with_reducible assumption
    | with_reducible apply logIgnored_steady
    | with_reducible apply answer_steady
    | refine fun x (hx : Steady s₀ x) a => ?_
    | refine fun x (hx : Steady s₀ x) => ?_
    | with_reducible apply Steady.ite
    | ((try lift_lets); intro x; refine (?_ : Steady s₀ x → _) ?_; focus (intro hx; clear_value x))
    | ((try lift_lets); intro x; try clear_value x)
    | split

theorem savesAccess_steady (x0) (h : Steady s₀ s) : Steady s₀ (savesAccess x0 s) := by
  unfold savesAccess
  repeat' first
    | with_reducible assumption
    | with_reducible apply refuseAccess_steady
    | with_reducible apply changeSaved_steady
    | with_reducible apply answer_steady
    | refine fun x (hx : Steady s₀ x) a => ?_
    | refine fun x (hx : Steady s₀ x) => ?_
    | with_reducible apply Steady.ite
    | ((try lift_lets); intro x; refine (?_ : Steady s₀ x → _) ?_; focus (intro hx; clear_value x))
    | ((try lift_lets); intro x; try clear_value x)
    | split

theorem hostAccess_steady (x0) (h : Steady s₀ s) : Steady s₀ (hostAccess x0 s) := by
  unfold hostAccess
  repeat' first
    | with_reducible assumption
    | with_reducible apply answer_steady
    | with_reducible apply Steady.ite
    | split
    | with_reducible refine Steady.upd ?_ rfl rfl rfl rfl
    | (with_reducible refine Steady.updMem ?_ rfl rfl rfl rfl ?_ ?_ ?_ ?_ ?_ ?_ <;> try first | exact id | (refine fun hw => ?_; first | exact putBytes_wf _ _ hw | exact putSome_wf _ _ hw | exact putView_wf _ _ _ hw | exact foldl_putByte_wf _ _ (SparseWf.nil _) | exact SparseWf.sset hw _ _ | exact SparseWf.filter hw _ | exact SparseWf.nil _))

end Sys2Proof.Machine
end

