-- ==== Sys2Proof/Laws/SteadyPair.lean ====
section
/-! SUPPORT. The operations of Pair.lean are steady (Steady.lean). -/

namespace Sys2Proof.Machine

variable {s₀ s : State}

theorem finalise_steady (x0) (h : Steady s₀ s) : Steady s₀ (finalise x0 s) := by
  unfold finalise
  repeat' first
    | with_reducible assumption
    | refine fun x (hx : Steady s₀ x) a => ?_
    | refine fun x (hx : Steady s₀ x) => ?_
    | ((try lift_lets); intro x; refine (?_ : Steady s₀ x → _) ?_; focus (intro hx; clear_value x))
    | ((try lift_lets); intro x; try clear_value x)
    | with_reducible refine Steady.upd ?_ rfl rfl rfl rfl
    | (simp only [id_eq]; with_reducible assumption)

theorem adoptOne_steady (x0) (h : Steady s₀ s) : Steady s₀ (adoptOne x0 s) := by
  unfold adoptOne
  repeat' first
    | with_reducible assumption
    | with_reducible apply wr_steady
    | with_reducible apply log_steady
    | refine fun x (hx : Steady s₀ x) a => ?_
    | refine fun x (hx : Steady s₀ x) => ?_
    | with_reducible apply Steady.ite
    | split
    | with_reducible refine Steady.upd ?_ rfl rfl rfl rfl
    | (simp only [id_eq]; with_reducible assumption)

theorem adoptAll_steady (h : Steady s₀ s) : Steady s₀ (adoptAll s) := by
  unfold adoptAll
  repeat' first
    | with_reducible assumption
    | with_reducible apply updateKvStat_steady
    | with_reducible apply adoptOne_steady
    | with_reducible apply wr_steady
    | refine fun x (hx : Steady s₀ x) a => ?_
    | refine fun x (hx : Steady s₀ x) => ?_
    | with_reducible apply Steady.foldl
    | ((try lift_lets); intro x; refine (?_ : Steady s₀ x → _) ?_; focus (intro hx; clear_value x))
    | ((try lift_lets); intro x; try clear_value x)
    | (simp only [id_eq]; with_reducible assumption)

theorem settleAlone_steady (h : Steady s₀ s) : Steady s₀ (settleAlone s) := by
  unfold settleAlone
  repeat' first
    | with_reducible assumption
    | with_reducible apply countStage_steady
    | with_reducible apply Steady.ite
    | split
    | with_reducible refine Steady.upd ?_ rfl rfl rfl rfl

theorem partnerLost_steady (x0) (h : Steady s₀ s) : Steady s₀ (partnerLost x0 s) := by
  unfold partnerLost
  repeat' first
    | with_reducible assumption
    | with_reducible apply adoptAll_steady
    | with_reducible apply settleAlone_steady
    | with_reducible apply wr_steady
    | with_reducible apply dropPartner_steady
    | with_reducible apply log_steady
    | with_reducible apply Steady.ite
    | ((try lift_lets); intro x; refine (?_ : Steady s₀ x → _) ?_; focus (intro hx; clear_value x))
    | ((try lift_lets); intro x; try clear_value x)
    | split

theorem pairLinkDown_steady (x0) (h : Steady s₀ s) : Steady s₀ (pairLinkDown x0 s) := by
  unfold pairLinkDown
  repeat' first
    | with_reducible assumption
    | with_reducible apply partnerLost_steady
    | with_reducible apply wr_steady
    | with_reducible apply Steady.ite
    | ((try lift_lets); intro x; refine (?_ : Steady s₀ x → _) ?_; focus (intro hx; clear_value x))
    | ((try lift_lets); intro x; try clear_value x)
    | split

theorem notePartner_steady (x0) (h : Steady s₀ s) : Steady s₀ (notePartner x0 s) := by
  unfold notePartner
  repeat' first
    | with_reducible assumption
    | with_reducible apply wrb_steady
    | with_reducible apply wr_steady
    | ((try lift_lets); intro x; refine (?_ : Steady s₀ x → _) ?_; focus (intro hx; clear_value x))
    | ((try lift_lets); intro x; try clear_value x)
    | with_reducible refine Steady.upd ?_ rfl rfl rfl rfl

theorem acceptPartner_steady (x0) (x1) (h : Steady s₀ s) : Steady s₀ (acceptPartner x0 x1 s) := by
  unfold acceptPartner
  repeat' first
    | with_reducible assumption
    | with_reducible apply wr_steady
    | with_reducible apply send_steady
    | with_reducible apply joinPair_steady
    | refine fun x (hx : Steady s₀ x) a => ?_
    | refine fun x (hx : Steady s₀ x) => ?_
    | with_reducible apply Steady.ite
    | ((try lift_lets); intro x; refine (?_ : Steady s₀ x → _) ?_; focus (intro hx; clear_value x))
    | ((try lift_lets); intro x; try clear_value x)
    | split
    | with_reducible refine Steady.upd ?_ rfl rfl rfl rfl
    | (simp only [id_eq]; with_reducible assumption)

theorem handshake_steady (x0) (x1) (h : Steady s₀ s) : Steady s₀ (handshake x0 x1 s) := by
  unfold handshake
  repeat' first
    | with_reducible assumption
    | with_reducible apply notePartner_steady
    | with_reducible apply dropPartner_steady
    | with_reducible apply acceptPartner_steady
    | with_reducible apply wr_steady
    | with_reducible apply Steady.ite
    | ((try lift_lets); intro x; refine (?_ : Steady s₀ x → _) ?_; focus (intro hx; clear_value x))
    | ((try lift_lets); intro x; try clear_value x)
    | split

theorem pairTrained_steady (x0) (x1) (h : Steady s₀ s) : Steady s₀ (pairTrained x0 x1 s) := by
  unfold pairTrained
  repeat' first
    | with_reducible assumption
    | with_reducible apply wr_steady
    | with_reducible apply wakePart_steady
    | with_reducible apply notePartner_steady
    | with_reducible apply handshake_steady
    | with_reducible apply send_steady
    | with_reducible apply Steady.ite
    | ((try lift_lets); intro x; refine (?_ : Steady s₀ x → _) ?_; focus (intro hx; clear_value x))
    | ((try lift_lets); intro x; try clear_value x)
    | split

theorem leaveWrite_steady (h : Steady s₀ s) : Steady s₀ (leaveWrite s) := by
  unfold leaveWrite
  repeat' first
    | with_reducible assumption
    | with_reducible apply wr_steady
    | with_reducible apply dropPartner_steady
    | with_reducible apply send_steady
    | with_reducible apply leavePair_steady
    | with_reducible apply Steady.ite
    | ((try lift_lets); intro x; refine (?_ : Steady s₀ x → _) ?_; focus (intro hx; clear_value x))
    | ((try lift_lets); intro x; try clear_value x)
    | split

theorem rejoinWrite_steady (x0) (h : Steady s₀ s) : Steady s₀ (rejoinWrite x0 s) := by
  unfold rejoinWrite
  repeat' first
    | with_reducible assumption
    | with_reducible apply wr_steady
    | with_reducible apply send_steady
    | with_reducible apply handshake_steady
    | with_reducible apply Steady.ite
    | ((try lift_lets); intro x; refine (?_ : Steady s₀ x → _) ?_; focus (intro hx; clear_value x))
    | ((try lift_lets); intro x; try clear_value x)
    | split
    | with_reducible refine Steady.upd ?_ rfl rfl rfl rfl

theorem pairCtlWrite_steady (x0) (x1) (h : Steady s₀ s) : Steady s₀ (pairCtlWrite x0 x1 s) := by
  unfold pairCtlWrite
  repeat' first
    | with_reducible assumption
    | with_reducible apply guarded_steady
    | with_reducible apply wtakeLocked_steady
    | with_reducible apply leaveWrite_steady
    | with_reducible apply rejoinWrite_steady
    | refine fun x (hx : Steady s₀ x) a => ?_
    | refine fun x (hx : Steady s₀ x) => ?_
    | with_reducible apply Steady.ite
    | ((try lift_lets); intro x; refine (?_ : Steady s₀ x → _) ?_; focus (intro hx; clear_value x))
    | ((try lift_lets); intro x; try clear_value x)
    | split

theorem takeNamed_steady (x0) (h : Steady s₀ s) : Steady s₀ (takeNamed x0 s) := by
  unfold takeNamed
  repeat' first
    | with_reducible assumption
    | with_reducible apply takeSlot_steady
    | with_reducible apply wr_steady
    | with_reducible apply failSlot_steady
    | with_reducible apply Steady.ite
    | ((try lift_lets); intro x; refine (?_ : Steady s₀ x → _) ?_; focus (intro hx; clear_value x))
    | ((try lift_lets); intro x; try clear_value x)
    | split

theorem slotDiffers_steady (x0) (h : Steady s₀ s) : Steady s₀ (slotDiffers x0 s) := by
  unfold slotDiffers
  repeat' first
    | with_reducible assumption
    | with_reducible apply wr_steady
    | with_reducible apply failSlot_steady
    | with_reducible apply finish_steady
    | with_reducible apply failRequest_steady
    | ((try lift_lets); intro x; refine (?_ : Steady s₀ x → _) ?_; focus (intro hx; clear_value x))
    | ((try lift_lets); intro x; try clear_value x)
    | split
    | with_reducible refine Steady.upd ?_ rfl rfl rfl rfl

theorem checkNamed_steady (x0) (h : Steady s₀ s) : Steady s₀ (checkNamed x0 s) := by
  unfold checkNamed
  repeat' first
    | with_reducible assumption
    | with_reducible apply takeNamed_steady
    | with_reducible apply slotDiffers_steady
    | with_reducible apply send_steady
    | with_reducible apply Steady.ite
    | ((try lift_lets); intro x; refine (?_ : Steady s₀ x → _) ?_; focus (intro hx; clear_value x))
    | ((try lift_lets); intro x; try clear_value x)
    | split

theorem takePartnerReport_steady (x0) (h : Steady s₀ s) : Steady s₀ (takePartnerReport x0 s) := by
  unfold takePartnerReport
  repeat' first
    | with_reducible assumption
    | with_reducible apply partnerFlag_steady
    | with_reducible apply slotDiffers_steady
    | refine fun x (hx : Steady s₀ x) a => ?_
    | refine fun x (hx : Steady s₀ x) => ?_
    | with_reducible apply Steady.foldl
    | ((try lift_lets); intro x; refine (?_ : Steady s₀ x → _) ?_; focus (intro hx; clear_value x))
    | ((try lift_lets); intro x; try clear_value x)
    | with_reducible refine Steady.upd ?_ rfl rfl rfl rfl

theorem chargeUnit_steady (x0) (h : Steady s₀ s) : Steady s₀ (chargeUnit x0 s) := by
  unfold chargeUnit
  repeat' first
    | with_reducible assumption
    | with_reducible apply suspectBlock_steady
    | with_reducible apply wantBlock_steady
    | with_reducible apply suspectEngine_steady
    | with_reducible apply wantRegion_steady
    | split
    | with_reducible refine Steady.upd ?_ rfl rfl rfl rfl

theorem startStage_steady (x0) (x1) (x2) (h : Steady s₀ s) : Steady s₀ (startStage x0 x1 x2 s) := by
  unfold startStage
  repeat' first
    | with_reducible assumption
    | with_reducible apply wr_steady
    | with_reducible apply log_steady
    | with_reducible apply chargeUnit_steady
    | refine fun x (hx : Steady s₀ x) a => ?_
    | refine fun x (hx : Steady s₀ x) => ?_
    | with_reducible apply Steady.ite
    | with_reducible apply Steady.foldl
    | ((try lift_lets); intro x; refine (?_ : Steady s₀ x → _) ?_; focus (intro hx; clear_value x))
    | ((try lift_lets); intro x; try clear_value x)
    | split
    | with_reducible refine Steady.upd ?_ rfl rfl rfl rfl

theorem protocolFault_steady (x0) (h : Steady s₀ s) : Steady s₀ (protocolFault x0 s) := by
  unfold protocolFault
  repeat' first
    | with_reducible assumption
    | with_reducible apply log_steady
    | with_reducible apply wr_steady

theorem discardFrom_steady (x0) (h : Steady s₀ s) : Steady s₀ (discardFrom x0 s) := by
  unfold discardFrom
  repeat' first
    | with_reducible assumption
    | refine fun x (hx : Steady s₀ x) a => ?_
    | refine fun x (hx : Steady s₀ x) => ?_
    | with_reducible refine Steady.upd ?_ rfl rfl rfl rfl

theorem staleSteps_steady (x0) (h : Steady s₀ s) : Steady s₀ (staleSteps x0 s) := by
  unfold staleSteps
  repeat' first
    | with_reducible assumption
    | with_reducible apply protocolFault_steady
    | with_reducible apply discardFrom_steady
    | refine fun x (hx : Steady s₀ x) a => ?_
    | refine fun x (hx : Steady s₀ x) => ?_
    | with_reducible apply Steady.foldl
    | ((try lift_lets); intro x; refine (?_ : Steady s₀ x → _) ?_; focus (intro hx; clear_value x))
    | ((try lift_lets); intro x; try clear_value x)
    | split
    | with_reducible refine Steady.upd ?_ rfl rfl rfl rfl

theorem dropMirror_steady (x0) (h : Steady s₀ s) : Steady s₀ (dropMirror x0 s) := by
  unfold dropMirror
  repeat' first
    | with_reducible assumption
    | refine fun x (hx : Steady s₀ x) a => ?_
    | refine fun x (hx : Steady s₀ x) => ?_
    | with_reducible refine Steady.upd ?_ rfl rfl rfl rfl
    | (simp only [id_eq]; with_reducible assumption)

end Sys2Proof.Machine
end

