-- ==== Sys2Proof/Laws/SteadyMailbox.lean ====
section
/-! SUPPORT. The operations of Mailbox.lean are steady (Steady.lean). -/

namespace Sys2Proof.Machine

variable {s₀ s : State}

theorem putMbx_steady (w l n) (h : Steady s₀ s) : Steady s₀ (putMbx w l n s) := by
  induction n generalizing s w l with
  | zero => exact h
  | succ n ih => exact ih _ _ (setReg_steady _ _ h)

theorem clearMbx_steady (h : Steady s₀ s) : Steady s₀ (clearMbx s) := by
  unfold clearMbx
  repeat' first
    | with_reducible assumption
    | refine fun x (hx : Steady s₀ x) a => ?_
    | refine fun x (hx : Steady s₀ x) => ?_
    | with_reducible refine Steady.upd ?_ rfl rfl rfl rfl
    | (with_reducible refine Steady.updMem ?_ rfl rfl rfl rfl ?_ ?_ ?_ ?_ ?_ ?_ <;> try first | exact id | (refine fun hw => ?_; first | exact putBytes_wf _ _ hw | exact putSome_wf _ _ hw | exact putView_wf _ _ _ hw | exact foldl_putByte_wf _ _ (SparseWf.nil _) | exact SparseWf.sset hw _ _ | exact SparseWf.filter hw _ | exact SparseWf.nil _))

theorem mbxComplete_steady (x0) (x1) (h : Steady s₀ s) : Steady s₀ (mbxComplete x0 x1 s) := by
  unfold mbxComplete
  repeat' first
    | with_reducible assumption
    | with_reducible apply putMbx_steady
    | with_reducible apply clearMbx_steady
    | with_reducible apply wr_steady
    | with_reducible apply incWrap_steady
    | ((try lift_lets); intro x; refine (?_ : Steady s₀ x → _) ?_; focus (intro hx; clear_value x))
    | ((try lift_lets); intro x; try clear_value x)

theorem mbxGuard_steady (x0) (x1) (x2) (k : State → State) (hk : ∀ x, Steady s₀ x → Steady s₀ (k x)) (h : Steady s₀ s) : Steady s₀ (mbxGuard x0 x1 x2 s k) := by
  unfold mbxGuard
  repeat' first
    | with_reducible assumption
    | with_reducible apply byWriter_steady
    | with_reducible apply logIgnored_steady
    | with_reducible apply wr_steady
    | with_reducible apply hk
    | refine fun x (hx : Steady s₀ x) a => ?_
    | refine fun x (hx : Steady s₀ x) => ?_
    | with_reducible apply Steady.ite
    | split

theorem wakeWriter_steady (x0) (h : Steady s₀ s) : Steady s₀ (wakeWriter x0 s) := by
  unfold wakeWriter
  repeat' first
    | with_reducible assumption
    | with_reducible apply wakePart_steady
    | with_reducible apply Steady.ite
    | split

theorem mbxStart_steady (x0) (x1) (h : Steady s₀ s) : Steady s₀ (mbxStart x0 x1 s) := by
  unfold mbxStart
  repeat' first
    | with_reducible assumption
    | with_reducible apply wr_steady
    | with_reducible apply Steady.ite
    | ((try lift_lets); intro x; refine (?_ : Steady s₀ x → _) ?_; focus (intro hx; clear_value x))
    | ((try lift_lets); intro x; try clear_value x)
    | split

theorem mbxRun_steady (x0) (x1) (x2) (k) (hk : ∀ x, Steady s₀ x → Steady s₀ (k x).2.2) (h : Steady s₀ s) : Steady s₀ (mbxRun x0 x1 x2 k s) := by
  unfold mbxRun
  repeat' first
    | with_reducible assumption
    | with_reducible apply wr_steady
    | with_reducible apply mbxComplete_steady
    | with_reducible apply hk
    | with_reducible apply Steady.ite
    | ((try lift_lets); intro x; refine (?_ : Steady s₀ x → _) ?_; focus (intro hx; clear_value x))
    | ((try lift_lets); intro x; try clear_value x)
    | split

theorem mbxCommand_steady (x0) (x1) (x2) (k) (hk : ∀ x, Steady s₀ x → Steady s₀ (k x).2.2) (h : Steady s₀ s) : Steady s₀ (mbxCommand x0 x1 x2 k s) := by
  unfold mbxCommand
  repeat' first
    | with_reducible assumption
    | with_reducible apply mbxRun_steady
    | with_reducible apply mbxGuard_steady
    | with_reducible apply wakeWriter_steady
    | with_reducible apply mbxStart_steady
    | with_reducible apply hk
    | refine fun x (hx : Steady s₀ x) a => ?_
    | refine fun x (hx : Steady s₀ x) => ?_
    | with_reducible apply Steady.ite
    | split

theorem mbxCmdWrite_steady (x0) (h : Steady s₀ s) : Steady s₀ (mbxCmdWrite x0 s) := by
  unfold mbxCmdWrite
  repeat' first
    | with_reducible assumption
    | with_reducible apply wakeWriter_steady
    | with_reducible apply mbxGuard_steady
    | with_reducible apply mbxStart_steady
    | with_reducible apply mbxRun_steady
    | refine fun x (hx : Steady s₀ x) a => ?_
    | refine fun x (hx : Steady s₀ x) => ?_
    | with_reducible apply Steady.ite
    | ((try lift_lets); intro x; refine (?_ : Steady s₀ x → _) ?_; focus (intro hx; clear_value x))
    | ((try lift_lets); intro x; try clear_value x)
    | split
    | (simp only [id_eq]; with_reducible assumption)

theorem mbxDataWrite_steady (x0) (x1) (h : Steady s₀ s) : Steady s₀ (mbxDataWrite x0 x1 s) := by
  unfold mbxDataWrite
  repeat' first
    | with_reducible assumption
    | with_reducible apply mbxGuard_steady
    | with_reducible apply wtake_steady
    | refine fun x (hx : Steady s₀ x) a => ?_
    | refine fun x (hx : Steady s₀ x) => ?_

theorem getInfo_steady (x0) (h : Steady s₀ s) : Steady s₀ (getInfo x0 s).2.2 := by
  unfold getInfo
  repeat' first
    | with_reducible assumption
    | with_reducible apply Steady.ite
    | split

theorem recipeSet_steady (x0) (h : Steady s₀ s) : Steady s₀ (recipeSet x0 s).2.2 := by
  unfold recipeSet
  repeat' first
    | with_reducible assumption
    | with_reducible apply stageRecipe_steady
    | refine fun x (hx : Steady s₀ x) a => ?_
    | refine fun x (hx : Steady s₀ x) => ?_
    | with_reducible apply Steady.ite
    | with_reducible apply Steady.foldl
    | ((try lift_lets); intro x; refine (?_ : Steady s₀ x → _) ?_; focus (intro hx; clear_value x))
    | ((try lift_lets); intro x; try clear_value x)
    | split

theorem countPages_steady (x0) (h : Steady s₀ s) : Steady s₀ (countPages x0 s) := by
  unfold countPages
  repeat' first
    | with_reducible assumption
    | with_reducible apply incWrap_steady

theorem setNvm_steady (x0) (h : Steady s₀ s) : Steady s₀ (setNvm x0 s) := by
  unfold setNvm
  repeat' first
    | with_reducible assumption
    | with_reducible refine Steady.upd ?_ rfl rfl rfl rfl

theorem nvmBegin_steady (x0) (h : Steady s₀ s) : Steady s₀ (nvmBegin x0 s).2.2 := by
  unfold nvmBegin
  repeat' first
    | with_reducible assumption
    | with_reducible apply countPages_steady
    | with_reducible apply wr_steady
    | with_reducible apply setNvm_steady
    | with_reducible apply Steady.ite
    | ((try lift_lets); intro x; refine (?_ : Steady s₀ x → _) ?_; focus (intro hx; clear_value x))
    | ((try lift_lets); intro x; try clear_value x)
    | split
    | with_reducible refine Steady.upd ?_ rfl rfl rfl rfl

theorem nvmData_steady (x0) (x1) (h : Steady s₀ s) : Steady s₀ (nvmData x0 x1 s).2.2 := by
  unfold nvmData
  repeat' first
    | with_reducible assumption
    | with_reducible apply countPages_steady
    | with_reducible apply setNvm_steady
    | with_reducible apply Steady.ite
    | ((try lift_lets); intro x; refine (?_ : Steady s₀ x → _) ?_; focus (intro hx; clear_value x))
    | ((try lift_lets); intro x; try clear_value x)
    | split
    | with_reducible refine Steady.upd ?_ rfl rfl rfl rfl

theorem storeItem_steady (x0) (x1) (x2) (h : Steady s₀ s) : Steady s₀ (storeItem x0 x1 x2 s) := by
  unfold storeItem
  repeat' first
    | with_reducible assumption
    | with_reducible apply setNvm_steady
    | with_reducible apply takeContainer_steady
    | refine fun x (hx : Steady s₀ x) a => ?_
    | refine fun x (hx : Steady s₀ x) => ?_
    | with_reducible apply Steady.ite
    | ((try lift_lets); intro x; refine (?_ : Steady s₀ x → _) ?_; focus (intro hx; clear_value x))
    | ((try lift_lets); intro x; try clear_value x)
    | split
    | with_reducible refine Steady.upd ?_ rfl rfl rfl rfl

theorem nvmEnd_steady (x0) (x1) (x2) (h : Steady s₀ s) : Steady s₀ (nvmEnd x0 x1 x2 s).2.2 := by
  unfold nvmEnd
  repeat' first
    | with_reducible assumption
    | with_reducible apply wr_steady
    | with_reducible apply countPages_steady
    | with_reducible apply storeItem_steady
    | with_reducible apply Steady.ite
    | ((try lift_lets); intro x; refine (?_ : Steady s₀ x → _) ?_; focus (intro hx; clear_value x))
    | ((try lift_lets); intro x; try clear_value x)
    | split
    | with_reducible refine Steady.upd ?_ rfl rfl rfl rfl

theorem recovBegin_steady (x0) (h : Steady s₀ s) : Steady s₀ (recovBegin x0 s).2.2 := by
  unfold recovBegin
  repeat' first
    | with_reducible assumption
    | with_reducible apply recovResult_steady
    | with_reducible apply wr_steady
    | with_reducible apply Steady.ite
    | split
    | with_reducible refine Steady.upd ?_ rfl rfl rfl rfl

theorem recovData_steady (x0) (h : Steady s₀ s) : Steady s₀ (recovData x0 s).2.2 := by
  unfold recovData
  repeat' first
    | with_reducible assumption
    | with_reducible apply wr_steady
    | with_reducible apply Steady.ite
    | ((try lift_lets); intro x; refine (?_ : Steady s₀ x → _) ?_; focus (intro hx; clear_value x))
    | ((try lift_lets); intro x; try clear_value x)
    | split
    | with_reducible refine Steady.upd ?_ rfl rfl rfl rfl

theorem recovRun_steady (x0) (h : Steady s₀ s) : Steady s₀ (recovRun x0 s).2.2 := by
  unfold recovRun
  repeat' first
    | with_reducible assumption
    | with_reducible apply wr_steady
    | with_reducible apply tryImage_steady
    | with_reducible apply Steady.ite
    | ((try lift_lets); intro x; refine (?_ : Steady s₀ x → _) ?_; focus (intro hx; clear_value x))
    | ((try lift_lets); intro x; try clear_value x)
    | split
    | with_reducible refine Steady.upd ?_ rfl rfl rfl rfl

end Sys2Proof.Machine
end

