-- ==== Sys2Proof/Laws/SteadyAccess.lean ====
section
/-! SUPPORT. The operations of Access.lean are steady (Steady.lean). -/

namespace Sys2Proof.Machine

variable {s₀ s : State}

theorem plainWrite_steady (x0) (x1) (h : Steady s₀ s) : Steady s₀ (plainWrite x0 x1 s) := by
  unfold plainWrite
  repeat' first
    | with_reducible assumption
    | with_reducible apply logIgnored_steady
    | with_reducible apply setReg_steady
    | with_reducible apply Steady.ite
    | ((try lift_lets); intro x; refine (?_ : Steady s₀ x → _) ?_; focus (intro hx; clear_value x))
    | ((try lift_lets); intro x; try clear_value x)
    | split
    | with_reducible refine Steady.upd ?_ rfl rfl rfl rfl

theorem writeWhile_steady (x0) (x1) (x2) (h : Steady s₀ s) : Steady s₀ (writeWhile x0 x1 x2 s) := by
  unfold writeWhile
  repeat' first
    | with_reducible assumption
    | with_reducible apply plainWrite_steady
    | with_reducible apply logIgnored_steady
    | with_reducible apply Steady.ite
    | split

theorem glbCmdWrite_steady (x0) (h : Steady s₀ s) : Steady s₀ (glbCmdWrite x0 s) := by
  unfold glbCmdWrite
  repeat' first
    | with_reducible assumption
    | with_reducible apply warmResetCommand_steady
    | with_reducible apply enterCommand_steady
    | with_reducible apply leaveCommand_steady
    | with_reducible apply haltCommand_steady
    | with_reducible apply glbCommand_steady
    | refine fun x (hx : Steady s₀ x) a => ?_
    | refine fun x (hx : Steady s₀ x) => ?_
    | with_reducible apply Steady.ite
    | ((try lift_lets); intro x; refine (?_ : Steady s₀ x → _) ?_; focus (intro hx; clear_value x))
    | ((try lift_lets); intro x; try clear_value x)
    | split

theorem wldCmdWrite_steady (x0) (h : Steady s₀ s) : Steady s₀ (wldCmdWrite x0 s) := by
  unfold wldCmdWrite
  repeat' first
    | with_reducible assumption
    | with_reducible apply wldCommand_steady
    | with_reducible apply loadCommand_steady
    | with_reducible apply retireCommand_steady
    | with_reducible apply unloadCommand_steady
    | with_reducible apply abortCommand_steady
    | with_reducible apply reloadCommand_steady
    | with_reducible apply logIgnored_steady
    | refine fun x (hx : Steady s₀ x) a => ?_
    | refine fun x (hx : Steady s₀ x) => ?_
    | ((try lift_lets); intro x; refine (?_ : Steady s₀ x → _) ?_; focus (intro hx; clear_value x))
    | ((try lift_lets); intro x; try clear_value x)
    | split
    | with_reducible refine Steady.upd ?_ rfl rfl rfl rfl

theorem mcvScanWrite_steady (x0) (x1) (h : Steady s₀ s) : Steady s₀ (mcvScanWrite x0 x1 s) := by
  unfold mcvScanWrite
  repeat' first
    | with_reducible assumption
    | with_reducible apply guarded_steady
    | with_reducible apply logIgnored_steady
    | with_reducible apply plainWrite_steady
    | with_reducible apply kickScan_steady
    | with_reducible apply disableHost_steady
    | refine fun x (hx : Steady s₀ x) a => ?_
    | refine fun x (hx : Steady s₀ x) => ?_
    | with_reducible apply Steady.ite
    | ((try lift_lets); intro x; refine (?_ : Steady s₀ x → _) ?_; focus (intro hx; clear_value x))
    | ((try lift_lets); intro x; first | (have e : Nv := x; clear e; subst x) | (have e : Sec := x; clear e; subst x) | clear_value x)
    | split
    | with_reducible refine Steady.upd ?_ rfl rfl rfl rfl

theorem mcvStatWrite_steady (x0) (h : Steady s₀ s) : Steady s₀ (mcvStatWrite x0 s) := by
  unfold mcvStatWrite
  repeat' first
    | with_reducible assumption
    | with_reducible apply guarded_steady
    | with_reducible apply plainWrite_steady
    | with_reducible apply wr_steady
    | refine fun x (hx : Steady s₀ x) a => ?_
    | refine fun x (hx : Steady s₀ x) => ?_
    | with_reducible apply Steady.ite
    | ((try lift_lets); intro x; refine (?_ : Steady s₀ x → _) ?_; focus (intro hx; clear_value x))
    | ((try lift_lets); intro x; try clear_value x)
    | split

theorem recovFieldsWrite_steady (x0) (x1) (h : Steady s₀ s) : Steady s₀ (recovFieldsWrite x0 x1 s) := by
  unfold recovFieldsWrite
  repeat' first
    | with_reducible assumption
    | with_reducible apply guarded_steady
    | with_reducible apply writeWhile_steady
    | refine fun x (hx : Steady s₀ x) a => ?_
    | refine fun x (hx : Steady s₀ x) => ?_

theorem srvCtlWrite_steady (x0) (h : Steady s₀ s) : Steady s₀ (srvCtlWrite x0 s) := by
  unfold srvCtlWrite
  repeat' first
    | with_reducible assumption
    | with_reducible apply guarded_steady
    | with_reducible apply plainWrite_steady
    | with_reducible apply wakePart_steady
    | refine fun x (hx : Steady s₀ x) a => ?_
    | refine fun x (hx : Steady s₀ x) => ?_

theorem pwrFloorWrite_steady (x0) (h : Steady s₀ s) : Steady s₀ (pwrFloorWrite x0 s) := by
  unfold pwrFloorWrite
  repeat' first
    | with_reducible assumption
    | with_reducible apply guarded_steady
    | with_reducible apply plainWrite_steady
    | with_reducible apply wakePart_steady
    | refine fun x (hx : Steady s₀ x) a => ?_
    | refine fun x (hx : Steady s₀ x) => ?_
    | with_reducible apply Steady.ite
    | ((try lift_lets); intro x; refine (?_ : Steady s₀ x → _) ?_; focus (intro hx; clear_value x))
    | ((try lift_lets); intro x; try clear_value x)
    | split

theorem tableWrite_steady (x0) (x1) (x2) (h : Steady s₀ s) : Steady s₀ (tableWrite x0 x1 x2 s) := by
  unfold tableWrite
  repeat' first
    | with_reducible assumption
    | with_reducible apply guarded_steady
    | with_reducible apply writeWhile_steady
    | refine fun x (hx : Steady s₀ x) a => ?_
    | refine fun x (hx : Steady s₀ x) => ?_

theorem toyboxWrite_steady (x0) (x1) (h : Steady s₀ s) : Steady s₀ (toyboxWrite x0 x1 s) := by
  unfold toyboxWrite
  repeat' first
    | with_reducible assumption
    | with_reducible apply guarded_steady
    | with_reducible apply writeWhile_steady
    | refine fun x (hx : Steady s₀ x) a => ?_
    | refine fun x (hx : Steady s₀ x) => ?_

theorem smpCtlWrite_steady (x0) (h : Steady s₀ s) : Steady s₀ (smpCtlWrite x0 s) := by
  unfold smpCtlWrite
  repeat' first
    | with_reducible assumption
    | with_reducible apply guarded_steady
    | with_reducible apply wtake_steady
    | with_reducible apply logIgnored_steady
    | with_reducible apply plainWrite_steady
    | refine fun x (hx : Steady s₀ x) a => ?_
    | refine fun x (hx : Steady s₀ x) => ?_
    | with_reducible apply Steady.ite
    | ((try lift_lets); intro x; refine (?_ : Steady s₀ x → _) ?_; focus (intro hx; clear_value x))
    | ((try lift_lets); intro x; try clear_value x)
    | split

theorem evtRingWrite_steady (x0) (x1) (h : Steady s₀ s) : Steady s₀ (evtRingWrite x0 x1 s) := by
  unfold evtRingWrite
  repeat' first
    | with_reducible assumption
    | with_reducible apply guarded_steady
    | with_reducible apply writeWhile_steady
    | refine fun x (hx : Steady s₀ x) a => ?_
    | refine fun x (hx : Steady s₀ x) => ?_

theorem refreshModeWrite_steady (x0) (h : Steady s₀ s) : Steady s₀ (refreshModeWrite x0 s) := by
  unfold refreshModeWrite
  repeat' first
    | with_reducible assumption
    | with_reducible apply guarded_steady
    | with_reducible apply refreshRise_steady
    | with_reducible apply plainWrite_steady
    | refine fun x (hx : Steady s₀ x) a => ?_
    | refine fun x (hx : Steady s₀ x) => ?_

theorem regionWrite_steady (x0) (x1) (h : Steady s₀ s) : Steady s₀ (regionWrite x0 x1 s) := by
  unfold regionWrite
  repeat' first
    | with_reducible assumption
    | with_reducible apply rgnCtlWrite_steady
    | with_reducible apply recipeFlagWrite_steady
    | with_reducible apply debugCtlWrite_steady
    | with_reducible apply guarded_steady
    | with_reducible apply plainWrite_steady
    | refine fun x (hx : Steady s₀ x) a => ?_
    | refine fun x (hx : Steady s₀ x) => ?_
    | ((try lift_lets); intro x; refine (?_ : Steady s₀ x → _) ?_; focus (intro hx; clear_value x))
    | ((try lift_lets); intro x; try clear_value x)
    | split
    | with_reducible refine Steady.upd ?_ rfl rfl rfl rfl

theorem icuWrite_steady (x0) (x1) (h : Steady s₀ s) : Steady s₀ (icuWrite x0 x1 s) := by
  unfold icuWrite
  repeat' first
    | with_reducible assumption
    | with_reducible apply srcCfgWrite_steady
    | with_reducible apply pendSetWrite_steady
    | with_reducible apply clearPendWrite_steady
    | with_reducible apply tgtCfgWrite_steady
    | with_reducible apply completeWrite_steady
    | with_reducible apply guarded_steady
    | with_reducible apply plainWrite_steady
    | refine fun x (hx : Steady s₀ x) a => ?_
    | refine fun x (hx : Steady s₀ x) => ?_
    | split
    | with_reducible refine Steady.upd ?_ rfl rfl rfl rfl

theorem arrayWrite_steady (x0) (x1) (h : Steady s₀ s) : Steady s₀ (arrayWrite x0 x1 s) := by
  unfold arrayWrite
  repeat' first
    | with_reducible assumption
    | with_reducible apply tableWrite_steady
    | with_reducible apply mcvScanWrite_steady
    | with_reducible apply mbxDataWrite_steady
    | with_reducible apply guarded_steady
    | with_reducible apply plainWrite_steady
    | refine fun x (hx : Steady s₀ x) a => ?_
    | refine fun x (hx : Steady s₀ x) => ?_
    | split
    | with_reducible refine Steady.upd ?_ rfl rfl rfl rfl

/-- Every register write but one of SEC_LCS_REQ. -/
theorem regWrite_steady (off w) (ho : off ≠ SEC_LCS_REQ) (h : Steady s₀ s) : Steady s₀ (regWrite off w s) := by
  unfold regWrite
  rw [if_neg ho]
  repeat' first
    | with_reducible assumption
    | with_reducible apply glbCmdWrite_steady
    | with_reducible apply evtCfgWrite_steady
    | with_reducible apply evtTailWrite_steady
    | with_reducible apply evtRingWrite_steady
    | with_reducible apply pwrFloorWrite_steady
    | with_reducible apply mcvCtlWrite_steady
    | with_reducible apply mcvCmdWrite_steady
    | with_reducible apply mcvStatWrite_steady
    | with_reducible apply refbufWrite_steady
    | with_reducible apply calCtlWrite_steady
    | with_reducible apply attestCmdWrite_steady
    | with_reducible apply recovFieldsWrite_steady
    | with_reducible apply srvCtlWrite_steady
    | with_reducible apply toyboxWrite_steady
    | with_reducible apply smpCtlWrite_steady
    | with_reducible apply wldCmdWrite_steady
    | with_reducible apply wldActiveWrite_steady
    | with_reducible apply costumeWrite_steady
    | with_reducible apply pairCtlWrite_steady
    | with_reducible apply refreshModeWrite_steady
    | with_reducible apply mbxCmdWrite_steady
    | with_reducible apply regionWrite_steady
    | with_reducible apply icuWrite_steady
    | with_reducible apply arrayWrite_steady
    | with_reducible apply Steady.ite

theorem poisonedWrite_steady (h : Steady s₀ s) : Steady s₀ (poisonedWrite s) := by
  unfold poisonedWrite
  repeat' first
    | with_reducible assumption
    | with_reducible apply log_steady
    | with_reducible refine Steady.upd ?_ rfl rfl rfl rfl

end Sys2Proof.Machine
end

