-- ==== Sys2Proof/Laws/SteadyExec.lean ====
section
/-! SUPPORT. Every command's meaning is steady (Steady.lean), but for LCS_REQUEST and LCS_COMMIT, whose steady parts stand in
SteadySecurity.lean. -/

namespace Sys2Proof.Machine

variable {s₀ s t : State}

theorem execIcuClaim_steady (x0) (x1) (h : Steady s₀ s) (e : execIcuClaim x0 x1 s = .next t) : Steady s₀ t := by
  unfold execIcuClaim at e
  refine Steady.next ?_ e
  clear e
  repeat' first
    | with_reducible assumption
    | with_reducible apply viaBar_steady
    | with_reducible apply claimSource_steady
    | with_reducible apply answer_steady
    | refine fun x (hx : Steady s₀ x) a => ?_
    | refine fun x (hx : Steady s₀ x) => ?_
    | with_reducible apply Steady.ite
    | split
    | with_reducible refine Steady.upd ?_ rfl rfl rfl rfl

theorem execIcuComplete_steady (x0) (x1) (x2) (x3) (h : Steady s₀ s) (e : execIcuComplete x0 x1 x2 x3 s = .next t) :
    Steady s₀ t := by
  unfold execIcuComplete at e
  refine Steady.next ?_ e
  clear e
  repeat' first
    | with_reducible assumption
    | with_reducible apply completeWrite_steady

theorem execIcuPendSet_steady (x0) (x1) (x2) (x3) (h : Steady s₀ s) (e : execIcuPendSet x0 x1 x2 x3 s = .next t) :
    Steady s₀ t := by
  unfold execIcuPendSet at e
  refine Steady.next ?_ e
  clear e
  repeat' first
    | with_reducible assumption
    | with_reducible apply pendSetWrite_steady

theorem execIcuClearPending_steady (x0) (x1) (x2) (x3) (h : Steady s₀ s) (e : execIcuClearPending x0 x1 x2 x3 s = .next t) :
    Steady s₀ t := by
  unfold execIcuClearPending at e
  refine Steady.next ?_ e
  clear e
  repeat' first
    | with_reducible assumption
    | with_reducible apply clearPendWrite_steady

theorem execIcuSrcCfgWrite_steady (x0) (x1) (h : Steady s₀ s) (e : execIcuSrcCfgWrite x0 x1 s = .next t) : Steady s₀ t := by
  unfold execIcuSrcCfgWrite at e
  refine Steady.next ?_ e
  clear e
  repeat' first
    | with_reducible assumption
    | with_reducible apply srcCfgWrite_steady

theorem execSourceInputChange_steady (x0) (h : Steady s₀ s) (e : execSourceInputChange x0 s = .next t) : Steady s₀ t := by
  unfold execSourceInputChange at e
  refine Steady.next ?_ e
  clear e
  repeat' first
    | with_reducible assumption
    | with_reducible apply setLatch_steady
    | with_reducible apply wakeCores_steady
    | with_reducible apply Steady.ite
    | ((try lift_lets); intro x; refine (?_ : Steady s₀ x → _) ?_; focus (intro hx; clear_value x))
    | ((try lift_lets); intro x; try clear_value x)
    | split
    | with_reducible refine Steady.upd ?_ rfl rfl rfl rfl

theorem execOpRun_steady (x0) (x1) (h : Steady s₀ s) (e : execOpRun x0 x1 s = .next t) : Steady s₀ t := by
  unfold execOpRun at e
  refine Steady.next ?_ e
  clear e
  repeat' first
    | with_reducible assumption
    | with_reducible apply admitAll_steady
    | with_reducible apply Steady.ite
    | split
    | with_reducible refine Steady.upd ?_ rfl rfl rfl rfl

theorem execOpPause_steady (x0) (x1) (h : Steady s₀ s) (e : execOpPause x0 x1 s = .next t) : Steady s₀ t := by
  unfold execOpPause at e
  refine Steady.next ?_ e
  clear e
  repeat' first
    | with_reducible assumption
    | with_reducible apply finish_steady
    | with_reducible apply startCopy_steady
    | with_reducible apply wr_steady
    | with_reducible apply Steady.ite
    | split
    | with_reducible refine Steady.upd ?_ rfl rfl rfl rfl

theorem execOpRelease_steady (x0) (x1) (h : Steady s₀ s) (e : execOpRelease x0 x1 s = .next t) : Steady s₀ t := by
  unfold execOpRelease at e
  refine Steady.next ?_ e
  clear e
  repeat' first
    | with_reducible assumption
    | with_reducible apply startFetches_steady
    | with_reducible apply endSeq_steady
    | with_reducible apply finish_steady
    | with_reducible apply Steady.ite
    | split
    | with_reducible refine Steady.upd ?_ rfl rfl rfl rfl

theorem execToyboxCopyComplete_steady (x0) (h : Steady s₀ s) (e : execToyboxCopyComplete x0 s = .next t) : Steady s₀ t := by
  unfold execToyboxCopyComplete at e
  refine Steady.next ?_ e
  clear e
  repeat' first
    | with_reducible assumption
    | with_reducible apply setSeq_steady
    | with_reducible apply startFetches_steady
    | with_reducible apply finish_steady
    | refine fun x (hx : Steady s₀ x) a => ?_
    | refine fun x (hx : Steady s₀ x) => ?_
    | with_reducible apply Steady.ite
    | ((try lift_lets); intro x; refine (?_ : Steady s₀ x → _) ?_; focus (intro hx; clear_value x))
    | ((try lift_lets); intro x; try clear_value x)
    | split
    | with_reducible refine Steady.upd ?_ rfl rfl rfl rfl

theorem execToyboxFetchComplete_steady (x0) (h : Steady s₀ s) (e : execToyboxFetchComplete x0 s = .next t) : Steady s₀ t := by
  unfold execToyboxFetchComplete at e
  refine Steady.next ?_ e
  clear e
  repeat' first
    | with_reducible assumption
    | with_reducible apply wr_steady
    | with_reducible apply setSeq_steady
    | with_reducible apply admitAll_steady
    | refine fun x (hx : Steady s₀ x) a => ?_
    | refine fun x (hx : Steady s₀ x) => ?_
    | with_reducible apply Steady.ite
    | ((try lift_lets); intro x; refine (?_ : Steady s₀ x → _) ?_; focus (intro hx; clear_value x))
    | ((try lift_lets); intro x; try clear_value x)
    | split
    | with_reducible refine Steady.upd ?_ rfl rfl rfl rfl
    | (simp only [id_eq]; with_reducible assumption)

theorem execTtlExpiry_steady (x0) (h : Steady s₀ s) (e : execTtlExpiry x0 s = .next t) : Steady s₀ t := by
  unfold execTtlExpiry at e
  refine Steady.next ?_ e
  clear e
  repeat' first
    | with_reducible assumption
    | with_reducible apply expireSeq_steady
    | with_reducible apply Steady.ite
    | split
    | with_reducible refine Steady.upd ?_ rfl rfl rfl rfl
    | (simp only [id_eq]; with_reducible assumption)

theorem execTileClear_steady (x0) (x1) (x2) (x3) (x4) (x5) (x6) (x7) (h : Steady s₀ s) (e : execTileClear x0 x1 x2 x3 x4 x5 x6 x7 s = .next t) :
    Steady s₀ t := by
  unfold execTileClear at e
  refine Steady.next ?_ e
  clear e
  repeat' first
    | with_reducible assumption
    | with_reducible apply scoreboard_steady
    | with_reducible apply clearTile_steady
    | refine fun x (hx : Steady s₀ x) a => ?_
    | refine fun x (hx : Steady s₀ x) => ?_

theorem execTileRestore_steady (x0) (x1) (x2) (x3) (h : Steady s₀ s) (e : execTileRestore x0 x1 x2 x3 s = .next t) :
    Steady s₀ t := by
  unfold execTileRestore at e
  refine Steady.next ?_ e
  clear e
  repeat' first
    | with_reducible assumption
    | with_reducible apply scoreboard_steady
    | with_reducible apply restoreTile_steady
    | refine fun x (hx : Steady s₀ x) a => ?_
    | refine fun x (hx : Steady s₀ x) => ?_

theorem execTileSave_steady (x0) (x1) (x2) (x3) (h : Steady s₀ s) (e : execTileSave x0 x1 x2 x3 s = .next t) : Steady s₀ t := by
  unfold execTileSave at e
  refine Steady.next ?_ e
  clear e
  repeat' first
    | with_reducible assumption
    | with_reducible apply scoreboard_steady
    | with_reducible apply saveTile_steady
    | refine fun x (hx : Steady s₀ x) a => ?_
    | refine fun x (hx : Steady s₀ x) => ?_

theorem execTileRelease_steady (x0) (x1) (x2) (h : Steady s₀ s) (e : execTileRelease x0 x1 x2 s = .next t) : Steady s₀ t := by
  unfold execTileRelease at e
  refine Steady.next ?_ e
  clear e
  repeat' first
    | with_reducible assumption
    | with_reducible apply scoreboard_steady
    | with_reducible apply releaseTile_steady
    | refine fun x (hx : Steady s₀ x) a => ?_
    | refine fun x (hx : Steady s₀ x) => ?_

theorem execTileReadOut_steady (x0) (x1) (x2) (x3) (x4) (x5) (x6) (h : Steady s₀ s) (e : execTileReadOut x0 x1 x2 x3 x4 x5 x6 s = .next t) :
    Steady s₀ t := by
  unfold execTileReadOut at e
  refine Steady.next ?_ e
  clear e
  repeat' first
    | with_reducible assumption
    | with_reducible apply scoreboard_steady
    | with_reducible apply readTile_steady
    | refine fun x (hx : Steady s₀ x) a => ?_
    | refine fun x (hx : Steady s₀ x) => ?_

theorem execElementWrite_steady (x0) (x1) (x2) (x3) (h : Steady s₀ s) (e : execElementWrite x0 x1 x2 x3 s = .next t) :
    Steady s₀ t := by
  unfold execElementWrite at e
  refine Steady.next ?_ e
  clear e
  repeat' first
    | with_reducible assumption
    | with_reducible apply scoreboard_steady
    | with_reducible apply writeElems_steady
    | refine fun x (hx : Steady s₀ x) a => ?_
    | refine fun x (hx : Steady s₀ x) => ?_

theorem execTileAdd_steady (x0) (x1) (x2) (x3) (x4) (h : Steady s₀ s) (e : execTileAdd x0 x1 x2 x3 x4 s = .next t) :
    Steady s₀ t := by
  unfold execTileAdd at e
  refine Steady.next ?_ e
  clear e
  repeat' first
    | with_reducible assumption
    | with_reducible apply tileAddOp_steady

theorem execReduceOperation_steady (x0) (x1) (x2) (x3) (x4) (h : Steady s₀ s) (e : execReduceOperation x0 x1 x2 x3 x4 s = .next t) :
    Steady s₀ t := by
  unfold execReduceOperation at e
  refine Steady.next ?_ e
  clear e
  repeat' first
    | with_reducible assumption
    | with_reducible apply reduceOp_steady

theorem execCostumeAddition_steady (x0) (x1) (x2) (x3) (x4) (x5) (x6) (x7) (x8) (x9) (h : Steady s₀ s) (e : execCostumeAddition x0 x1 x2 x3 x4 x5 x6 x7 x8 x9 s = .next t) :
    Steady s₀ t := by
  unfold execCostumeAddition at e
  refine Steady.next ?_ e
  clear e
  repeat' first
    | with_reducible assumption
    | with_reducible apply costumeOp_steady

theorem execMvmCommand_steady (x0) (h : Steady s₀ s) (e : execMvmCommand x0 s = .next t) : Steady s₀ t := by
  unfold execMvmCommand at e
  refine Steady.next ?_ e
  clear e
  repeat' first
    | with_reducible assumption
    | with_reducible apply mvmOp_steady

theorem execBlockMessage_steady (x0) (x1) (x2) (h : Steady s₀ s) (e : execBlockMessage x0 x1 x2 s = .next t) : Steady s₀ t := by
  unfold execBlockMessage at e
  refine Steady.next ?_ e
  clear e
  repeat' first
    | with_reducible assumption
    | with_reducible apply takeMessage_steady
    | split
    | with_reducible refine Steady.upd ?_ rfl rfl rfl rfl

theorem execAccumulateDrained_steady (x0) (x1) (x2) (h : Steady s₀ s) (e : execAccumulateDrained x0 x1 x2 s = .next t) :
    Steady s₀ t := by
  unfold execAccumulateDrained at e
  refine Steady.next ?_ e
  clear e
  repeat' first
    | with_reducible assumption
    | with_reducible apply releaseWaiting_steady
    | with_reducible apply drainTile_steady
    | with_reducible apply Steady.ite
    | split

theorem execSequencedModeEnd_steady (x0) (x1) (x2) (h : Steady s₀ s) (e : execSequencedModeEnd x0 x1 x2 s = .next t) :
    Steady s₀ t := by
  unfold execSequencedModeEnd at e
  refine Steady.next ?_ e
  clear e
  repeat' first
    | with_reducible assumption
    | with_reducible apply setRegion_steady
    | refine fun x (hx : Steady s₀ x) a => ?_
    | refine fun x (hx : Steady s₀ x) => ?_
    | with_reducible refine Steady.upd ?_ rfl rfl rfl rfl

theorem execDebugArm_steady (x0) (x1) (h : Steady s₀ s) (e : execDebugArm x0 x1 s = .next t) : Steady s₀ t := by
  unfold execDebugArm at e
  refine Steady.next ?_ e
  clear e
  repeat' first
    | with_reducible assumption
    | with_reducible apply debugCtlWrite_steady

theorem execDebugCancel_steady (x0) (x1) (h : Steady s₀ s) (e : execDebugCancel x0 x1 s = .next t) : Steady s₀ t := by
  unfold execDebugCancel at e
  refine Steady.next ?_ e
  clear e
  repeat' first
    | with_reducible assumption
    | with_reducible apply debugCtlWrite_steady

theorem execDebugDataRead_steady (x0) (x1) (x2) (h : Steady s₀ s) (e : execDebugDataRead x0 x1 x2 s = .next t) : Steady s₀ t := by
  unfold execDebugDataRead at e
  refine Steady.next ?_ e
  clear e
  repeat' first
    | with_reducible assumption
    | with_reducible apply debugDataRead_steady

theorem execEnterTinSoldier_steady (x0) (x1) (h : Steady s₀ s) (e : execEnterTinSoldier x0 x1 s = .next t) : Steady s₀ t := by
  unfold execEnterTinSoldier at e
  refine Steady.next ?_ e
  clear e
  repeat' first
    | with_reducible assumption
    | with_reducible apply glbCommand_steady
    | with_reducible apply enterCommand_steady
    | refine fun x (hx : Steady s₀ x) a => ?_
    | refine fun x (hx : Steady s₀ x) => ?_

theorem execLeaveTinSoldier_steady (x0) (x1) (h : Steady s₀ s) (e : execLeaveTinSoldier x0 x1 s = .next t) : Steady s₀ t := by
  unfold execLeaveTinSoldier at e
  refine Steady.next ?_ e
  clear e
  repeat' first
    | with_reducible assumption
    | with_reducible apply glbCommand_steady
    | with_reducible apply leaveCommand_steady
    | refine fun x (hx : Steady s₀ x) a => ?_
    | refine fun x (hx : Steady s₀ x) => ?_

theorem execHalt_steady (x0) (x1) (h : Steady s₀ s) (e : execHalt x0 x1 s = .next t) : Steady s₀ t := by
  unfold execHalt at e
  refine Steady.next ?_ e
  clear e
  repeat' first
    | with_reducible assumption
    | with_reducible apply glbCommand_steady
    | with_reducible apply haltCommand_steady
    | refine fun x (hx : Steady s₀ x) a => ?_
    | refine fun x (hx : Steady s₀ x) => ?_

theorem execSupplyOutOfRange_steady (x0) (h : Steady s₀ s) (e : execSupplyOutOfRange x0 s = .next t) : Steady s₀ t := by
  unfold execSupplyOutOfRange at e
  refine Steady.next ?_ e
  clear e
  repeat' first
    | with_reducible assumption
    | with_reducible apply raiseTin_steady
    | with_reducible apply Steady.ite
    | split
    | with_reducible refine Steady.upd ?_ rfl rfl rfl rfl

theorem execSupplyInRange_steady (h : Steady s₀ s) (e : execSupplyInRange s = .next t) : Steady s₀ t := by
  unfold execSupplyInRange at e
  refine Steady.next ?_ e
  clear e
  repeat' first
    | with_reducible assumption
    | with_reducible refine Steady.upd ?_ rfl rfl rfl rfl

theorem execRefreshFall_steady (x0) (h : Steady s₀ s) (e : execRefreshFall x0 s = .next t) : Steady s₀ t := by
  unfold execRefreshFall at e
  refine Steady.next ?_ e
  clear e
  repeat' first
    | with_reducible assumption
    | with_reducible apply noteHold_steady
    | with_reducible apply wr_steady
    | with_reducible apply Steady.ite
    | ((try lift_lets); intro x; refine (?_ : Steady s₀ x → _) ?_; focus (intro hx; clear_value x))
    | ((try lift_lets); intro x; try clear_value x)
    | split

theorem execStackTemperatureCrossing_steady (x0) (x1) (h : Steady s₀ s) (e : execStackTemperatureCrossing x0 x1 s = .next t) :
    Steady s₀ t := by
  unfold execStackTemperatureCrossing at e
  refine Steady.next ?_ e
  clear e
  repeat' first
    | with_reducible assumption
    | with_reducible apply refreshRise_steady
    | with_reducible apply wrs_steady

theorem execThrottleStepUp_steady (h : Steady s₀ s) (e : execThrottleStepUp s = .next t) : Steady s₀ t := by
  unfold execThrottleStepUp at e
  refine Steady.next ?_ e
  clear e
  repeat' first
    | with_reducible assumption
    | with_reducible apply levelUp_steady
    | with_reducible apply Steady.ite
    | split

theorem execThrottleStepDown_steady (h : Steady s₀ s) (e : execThrottleStepDown s = .next t) : Steady s₀ t := by
  unfold execThrottleStepDown at e
  refine Steady.next ?_ e
  clear e
  repeat' first
    | with_reducible assumption
    | with_reducible apply setLevel_steady
    | with_reducible apply Steady.ite
    | split

theorem execSensorStale_steady (x0) (h : Steady s₀ s) (e : execSensorStale x0 s = .next t) : Steady s₀ t := by
  unfold execSensorStale at e
  refine Steady.next ?_ e
  clear e
  repeat' first
    | with_reducible assumption
    | with_reducible apply markSuspect_steady
    | with_reducible apply wr_steady
    | with_reducible apply Steady.ite
    | split

theorem execSensorSuspect_steady (x0) (h : Steady s₀ s) (e : execSensorSuspect x0 s = .next t) : Steady s₀ t := by
  unfold execSensorSuspect at e
  refine Steady.next ?_ e
  clear e
  repeat' first
    | with_reducible assumption
    | with_reducible apply markSuspect_steady
    | with_reducible apply Steady.ite
    | split
    | with_reducible refine Steady.upd ?_ rfl rfl rfl rfl

theorem execSensorCleared_steady (x0) (h : Steady s₀ s) (e : execSensorCleared x0 s = .next t) : Steady s₀ t := by
  unfold execSensorCleared at e
  refine Steady.next ?_ e
  clear e
  repeat' first
    | with_reducible assumption
    | with_reducible apply wr_steady
    | with_reducible apply setReg_steady
    | with_reducible apply temperaturesChanged_steady
    | with_reducible apply log_steady
    | with_reducible apply Steady.ite
    | ((try lift_lets); intro x; refine (?_ : Steady s₀ x → _) ?_; focus (intro hx; clear_value x))
    | ((try lift_lets); intro x; try clear_value x)
    | split
    | with_reducible refine Steady.upd ?_ rfl rfl rfl rfl

theorem execTempCauseClear_steady (h : Steady s₀ s) (e : execTempCauseClear s = .next t) : Steady s₀ t := by
  unfold execTempCauseClear at e
  refine Steady.next ?_ e
  clear e
  repeat' first
    | with_reducible assumption
    | with_reducible apply tryLeaveTin_steady
    | with_reducible apply putTinBit_steady
    | with_reducible apply Steady.ite
    | split

theorem execThermalTrip_steady (x0) (h : Steady s₀ s) (e : execThermalTrip x0 s = .next t) : Steady s₀ t := by
  unfold execThermalTrip at e
  refine Steady.next ?_ e
  clear e
  repeat' first
    | with_reducible assumption
    | with_reducible apply leavePair_steady
    | with_reducible apply wakePart_steady
    | with_reducible apply wr_steady
    | with_reducible apply haltPart_steady
    | with_reducible apply stopPhases_steady
    | refine fun x (hx : Steady s₀ x) a => ?_
    | refine fun x (hx : Steady s₀ x) => ?_
    | with_reducible apply Steady.ite
    | with_reducible apply Steady.foldl
    | ((try lift_lets); intro x; refine (?_ : Steady s₀ x → _) ?_; focus (intro hx; clear_value x))
    | ((try lift_lets); intro x; try clear_value x)
    | split
    | with_reducible refine Steady.upd ?_ rfl rfl rfl rfl

theorem execPs4WakeComparator_steady (x0) (h : Steady s₀ s) (e : execPs4WakeComparator x0 s = .next t) : Steady s₀ t := by
  unfold execPs4WakeComparator at e
  refine Steady.next ?_ e
  clear e
  repeat' first
    | with_reducible assumption
    | with_reducible apply wakePart_steady
    | with_reducible apply Steady.ite
    | split

theorem execConversionResult_steady (x0) (x1) (h : Steady s₀ s) (e : execConversionResult x0 x1 s = .next t) : Steady s₀ t := by
  unfold execConversionResult at e
  refine Steady.next ?_ e
  clear e
  repeat' first
    | with_reducible assumption
    | with_reducible apply setMcv_steady
    | with_reducible apply setReg_steady
    | with_reducible apply pushFifo_steady
    | with_reducible apply sampleTemp_steady
    | with_reducible apply advanceScan_steady
    | refine fun x (hx : Steady s₀ x) a => ?_
    | refine fun x (hx : Steady s₀ x) => ?_
    | with_reducible apply Steady.ite
    | ((try lift_lets); intro x; refine (?_ : Steady s₀ x → _) ?_; focus (intro hx; clear_value x))
    | ((try lift_lets); intro x; first | (have e : Nv := x; clear e; subst x) | (have e : Sec := x; clear e; subst x) | clear_value x)
    | split
    | with_reducible refine Steady.upd ?_ rfl rfl rfl rfl

theorem execSelfCalibration_steady (x0) (h : Steady s₀ s) (e : execSelfCalibration x0 s = .next t) : Steady s₀ t := by
  unfold execSelfCalibration at e
  refine Steady.next ?_ e
  clear e
  repeat' first
    | with_reducible assumption
    | with_reducible apply mcvCmdWrite_steady

theorem execScanRestart_steady (x0) (h : Steady s₀ s) (e : execScanRestart x0 s = .next t) : Steady s₀ t := by
  unfold execScanRestart at e
  refine Steady.next ?_ e
  clear e
  repeat' first
    | with_reducible assumption
    | with_reducible apply mcvCmdWrite_steady

theorem execSelfCalComplete_steady (x0) (x1) (x2) (h : Steady s₀ s) (e : execSelfCalComplete x0 x1 x2 s = .next t) :
    Steady s₀ t := by
  unfold execSelfCalComplete at e
  refine Steady.next ?_ e
  clear e
  repeat' first
    | with_reducible assumption
    | with_reducible apply wr_steady
    | with_reducible apply selfCalPassed_steady
    | with_reducible apply selfCalFailed_steady
    | with_reducible apply restartScan_steady
    | with_reducible apply bootCalibrated_steady
    | with_reducible apply Steady.ite
    | ((try lift_lets); intro x; refine (?_ : Steady s₀ x → _) ?_; focus (intro hx; clear_value x))
    | ((try lift_lets); intro x; try clear_value x)
    | split

theorem execRefbufEnable_steady (x0) (h : Steady s₀ s) (e : execRefbufEnable x0 s = .next t) : Steady s₀ t := by
  unfold execRefbufEnable at e
  refine Steady.next ?_ e
  clear e
  repeat' first
    | with_reducible assumption
    | with_reducible apply refbufWrite_steady

theorem execRefbufSettled_steady (h : Steady s₀ s) (e : execRefbufSettled s = .next t) : Steady s₀ t := by
  unfold execRefbufSettled at e
  refine Steady.next ?_ e
  clear e
  repeat' first
    | with_reducible assumption
    | with_reducible apply wr_steady
    | with_reducible apply bootSettled_steady
    | with_reducible apply stopScan_steady
    | with_reducible apply Steady.ite
    | ((try lift_lets); intro x; refine (?_ : Steady s₀ x → _) ?_; focus (intro hx; clear_value x))
    | ((try lift_lets); intro x; try clear_value x)
    | split

theorem execFifoFlush_steady (x0) (h : Steady s₀ s) (e : execFifoFlush x0 s = .next t) : Steady s₀ t := by
  unfold execFifoFlush at e
  refine Steady.next ?_ e
  clear e
  repeat' first
    | with_reducible assumption
    | with_reducible apply mcvCtlWrite_steady

theorem execFifoRead_steady (x0) (x1) (h : Steady s₀ s) (e : execFifoRead x0 x1 s = .next t) : Steady s₀ t := by
  unfold execFifoRead at e
  refine Steady.next ?_ e
  clear e
  repeat' first
    | with_reducible assumption
    | with_reducible apply fifoRead_steady

theorem execReferenceCheck_steady (h : Steady s₀ s) (e : execReferenceCheck s = .next t) : Steady s₀ t := by
  unfold execReferenceCheck at e
  refine Steady.next ?_ e
  clear e
  repeat' first
    | with_reducible assumption
    | with_reducible apply wr_steady
    | with_reducible apply wrs_steady
    | with_reducible apply wrb_steady
    | with_reducible apply log_steady
    | with_reducible apply raiseTin_steady
    | with_reducible apply Steady.ite
    | ((try lift_lets); intro x; refine (?_ : Steady s₀ x → _) ?_; focus (intro hx; clear_value x))
    | ((try lift_lets); intro x; try clear_value x)
    | split

theorem execScan_steady (h : Steady s₀ s) (e : execScan s = .next t) : Steady s₀ t := by
  unfold execScan at e
  refine Steady.next ?_ e
  clear e
  repeat' first
    | with_reducible assumption
    | with_reducible apply scanAll_steady
    | with_reducible apply wakeForPosted_steady
    | with_reducible apply admitAll_steady
    | with_reducible apply powerAtScan_steady
    | with_reducible apply Steady.ite
    | ((try lift_lets); intro x; refine (?_ : Steady s₀ x → _) ?_; focus (intro hx; clear_value x))
    | ((try lift_lets); intro x; try clear_value x)
    | split

theorem execScheduledWake_steady (h : Steady s₀ s) (e : execScheduledWake s = .next t) : Steady s₀ t := by
  unfold execScheduledWake at e
  refine Steady.next ?_ e
  clear e
  repeat' first
    | with_reducible assumption
    | with_reducible apply wakePart_steady
    | with_reducible apply wr_steady
    | with_reducible apply Steady.ite
    | split
    | with_reducible refine Steady.upd ?_ rfl rfl rfl rfl

theorem execWakeEvent_steady (x0) (h : Steady s₀ s) (e : execWakeEvent x0 s = .next t) : Steady s₀ t := by
  unfold execWakeEvent at e
  refine Steady.next ?_ e
  clear e
  repeat' first
    | with_reducible assumption
    | with_reducible apply wakePart_steady
    | with_reducible apply Steady.ite
    | split

theorem execDueTime_steady (x0) (h : Steady s₀ s) (e : execDueTime x0 s = .next t) : Steady s₀ t := by
  unfold execDueTime at e
  refine Steady.next ?_ e
  clear e
  repeat' first
    | with_reducible assumption
    | with_reducible apply wakePart_steady
    | with_reducible apply wr_steady
    | refine fun x (hx : Steady s₀ x) a => ?_
    | refine fun x (hx : Steady s₀ x) => ?_
    | with_reducible apply Steady.ite
    | ((try lift_lets); intro x; refine (?_ : Steady s₀ x → _) ?_; focus (intro hx; clear_value x))
    | ((try lift_lets); intro x; try clear_value x)
    | split
    | with_reducible refine Steady.upd ?_ rfl rfl rfl rfl

theorem execDueWindowClose_steady (h : Steady s₀ s) (e : execDueWindowClose s = .next t) : Steady s₀ t := by
  unfold execDueWindowClose at e
  refine Steady.next ?_ e
  clear e
  repeat' first
    | with_reducible assumption
    | with_reducible apply wrb_steady
    | refine fun x (hx : Steady s₀ x) a => ?_
    | refine fun x (hx : Steady s₀ x) => ?_
    | ((try lift_lets); intro x; refine (?_ : Steady s₀ x → _) ?_; focus (intro hx; clear_value x))
    | ((try lift_lets); intro x; try clear_value x)
    | with_reducible refine Steady.upd ?_ rfl rfl rfl rfl

theorem execCalibrationSlot_steady (x0) (x1) (h : Steady s₀ s) (e : execCalibrationSlot x0 x1 s = .next t) : Steady s₀ t := by
  unfold execCalibrationSlot at e
  refine Steady.next ?_ e
  clear e
  repeat' first
    | with_reducible assumption
    | with_reducible apply calSlot_steady

theorem execRecalPassStart_steady (x0) (x1) (h : Steady s₀ s) (e : execRecalPassStart x0 x1 s = .next t) : Steady s₀ t := by
  unfold execRecalPassStart at e
  refine Steady.next ?_ e
  clear e
  repeat' first
    | with_reducible assumption
    | with_reducible apply schedulePass_steady
    | with_reducible apply startPass_steady
    | with_reducible apply Steady.ite
    | ((try lift_lets); intro x; refine (?_ : Steady s₀ x → _) ?_; focus (intro hx; clear_value x))
    | ((try lift_lets); intro x; try clear_value x)
    | split
    | with_reducible refine Steady.upd ?_ rfl rfl rfl rfl

theorem execRecalPassComplete_steady (x0) (x1) (h : Steady s₀ s) (e : execRecalPassComplete x0 x1 s = .next t) : Steady s₀ t := by
  unfold execRecalPassComplete at e
  refine Steady.next ?_ e
  clear e
  repeat' first
    | with_reducible assumption
    | with_reducible apply endPass_steady
    | with_reducible apply Steady.ite
    | split
    | with_reducible refine Steady.upd ?_ rfl rfl rfl rfl

theorem execPassRequest_steady (x0) (h : Steady s₀ s) (e : execPassRequest x0 s = .next t) : Steady s₀ t := by
  unfold execPassRequest at e
  refine Steady.next ?_ e
  clear e
  repeat' first
    | with_reducible assumption
    | with_reducible apply calCtlWrite_steady

theorem execDriftAgeLimit_steady (x0) (x1) (x2) (h : Steady s₀ s) (e : execDriftAgeLimit x0 x1 x2 s = .next t) : Steady s₀ t := by
  unfold execDriftAgeLimit at e
  refine Steady.next ?_ e
  clear e
  repeat' first
    | with_reducible assumption
    | with_reducible apply fallDue_steady
    | with_reducible apply Steady.ite
    | split

theorem execAbacusVectorSet_steady (x0) (x1) (h : Steady s₀ s) (e : execAbacusVectorSet x0 x1 s = .next t) : Steady s₀ t := by
  unfold execAbacusVectorSet at e
  refine Steady.next ?_ e
  clear e
  repeat' first
    | with_reducible assumption
    | with_reducible apply setBlock_steady
    | with_reducible apply vectorSet_steady
    | refine fun x (hx : Steady s₀ x) a => ?_
    | refine fun x (hx : Steady s₀ x) => ?_
    | with_reducible apply Steady.ite
    | ((try lift_lets); intro x; refine (?_ : Steady s₀ x → _) ?_; focus (intro hx; clear_value x))
    | ((try lift_lets); intro x; try clear_value x)
    | split
    | with_reducible refine Steady.upd ?_ rfl rfl rfl rfl

theorem execDeepPassComplete_steady (x0) (h : Steady s₀ s) (e : execDeepPassComplete x0 s = .next t) : Steady s₀ t := by
  unfold execDeepPassComplete at e
  refine Steady.next ?_ e
  clear e
  repeat' first
    | with_reducible assumption
    | with_reducible apply fullSet_steady
    | with_reducible apply driftAll_steady
    | with_reducible apply settle_steady
    | with_reducible apply unwantRegion_steady
    | with_reducible apply setRegion_steady
    | refine fun x (hx : Steady s₀ x) a => ?_
    | refine fun x (hx : Steady s₀ x) => ?_
    | with_reducible apply Steady.ite
    | with_reducible apply Steady.foldl
    | ((try lift_lets); intro x; refine (?_ : Steady s₀ x → _) ?_; focus (intro hx; clear_value x))
    | ((try lift_lets); intro x; try clear_value x)
    | split
    | with_reducible refine Steady.upd ?_ rfl rfl rfl rfl

theorem execRewriteComplete_steady (x0) (x1) (h : Steady s₀ s) (e : execRewriteComplete x0 x1 s = .next t) : Steady s₀ t := by
  unfold execRewriteComplete at e
  refine Steady.next ?_ e
  clear e
  repeat' first
    | with_reducible assumption
    | with_reducible apply endRewrite_steady
    | with_reducible apply Steady.ite
    | ((try lift_lets); intro x; refine (?_ : Steady s₀ x → _) ?_; focus (intro hx; clear_value x))
    | ((try lift_lets); intro x; try clear_value x)
    | split
    | with_reducible refine Steady.upd ?_ rfl rfl rfl rfl

theorem execSweepComplete_steady (x0) (x1) (x2) (h : Steady s₀ s) (e : execSweepComplete x0 x1 x2 s = .next t) : Steady s₀ t := by
  unfold execSweepComplete at e
  refine Steady.next ?_ e
  clear e
  repeat' first
    | with_reducible assumption
    | with_reducible apply sweepBlock_steady
    | with_reducible apply setBlock_steady
    | with_reducible apply wr_steady
    | with_reducible apply settle_steady
    | refine fun x (hx : Steady s₀ x) a => ?_
    | refine fun x (hx : Steady s₀ x) => ?_
    | with_reducible apply Steady.ite
    | ((try lift_lets); intro x; refine (?_ : Steady s₀ x → _) ?_; focus (intro hx; clear_value x))
    | ((try lift_lets); intro x; try clear_value x)
    | split
    | with_reducible refine Steady.upd ?_ rfl rfl rfl rfl

theorem execWarmupEnd_steady (x0) (x1) (h : Steady s₀ s) (e : execWarmupEnd x0 x1 s = .next t) : Steady s₀ t := by
  unfold execWarmupEnd at e
  refine Steady.next ?_ e
  clear e
  repeat' first
    | with_reducible assumption
    | with_reducible apply settle_steady
    | with_reducible apply setBlock_steady
    | refine fun x (hx : Steady s₀ x) a => ?_
    | refine fun x (hx : Steady s₀ x) => ?_
    | with_reducible apply Steady.ite
    | split
    | with_reducible refine Steady.upd ?_ rfl rfl rfl rfl

theorem execShadowComparison_steady (x0) (x1) (h : Steady s₀ s) (e : execShadowComparison x0 x1 s = .next t) : Steady s₀ t := by
  unfold execShadowComparison at e
  refine Steady.next ?_ e
  clear e
  repeat' first
    | with_reducible assumption
    | with_reducible apply compareShadow_steady
    | split
    | with_reducible refine Steady.upd ?_ rfl rfl rfl rfl

theorem execSuspectWindowEnd_steady (x0) (x1) (h : Steady s₀ s) (e : execSuspectWindowEnd x0 x1 s = .next t) : Steady s₀ t := by
  unfold execSuspectWindowEnd at e
  refine Steady.next ?_ e
  clear e
  repeat' first
    | with_reducible assumption
    | with_reducible apply updateSuspect_steady
    | with_reducible apply setBlock_steady
    | with_reducible apply setRegion_steady
    | refine fun x (hx : Steady s₀ x) a => ?_
    | refine fun x (hx : Steady s₀ x) => ?_
    | split
    | with_reducible refine Steady.upd ?_ rfl rfl rfl rfl

theorem execEngineTestEnd_steady (x0) (x1) (h : Steady s₀ s) (e : execEngineTestEnd x0 x1 s = .next t) : Steady s₀ t := by
  unfold execEngineTestEnd at e
  refine Steady.next ?_ e
  clear e
  repeat' first
    | with_reducible assumption
    | with_reducible apply settle_steady
    | with_reducible apply unwantRegion_steady
    | with_reducible apply setRegion_steady
    | with_reducible apply retireRegion_steady
    | refine fun x (hx : Steady s₀ x) a => ?_
    | refine fun x (hx : Steady s₀ x) => ?_
    | with_reducible apply Steady.ite
    | split
    | with_reducible refine Steady.upd ?_ rfl rfl rfl rfl

theorem execRattleTestStart_steady (h : Steady s₀ s) (e : execRattleTestStart s = .next t) : Steady s₀ t := by
  unfold execRattleTestStart at e
  refine Steady.next ?_ e
  clear e
  repeat' first
    | with_reducible assumption
    | with_reducible apply tryRattle_steady
    | split
    | with_reducible refine Steady.upd ?_ rfl rfl rfl rfl

theorem execRattleTestEnd_steady (x0) (h : Steady s₀ s) (e : execRattleTestEnd x0 s = .next t) : Steady s₀ t := by
  unfold execRattleTestEnd at e
  refine Steady.next ?_ e
  clear e
  repeat' first
    | with_reducible assumption
    | with_reducible apply settle_steady
    | with_reducible apply endRattle_steady
    | with_reducible apply repairRegion_steady
    | with_reducible apply retireRegion_steady
    | with_reducible apply Steady.ite
    | ((try lift_lets); intro x; refine (?_ : Steady s₀ x → _) ?_; focus (intro hx; clear_value x))
    | ((try lift_lets); intro x; try clear_value x)
    | split
    | with_reducible refine Steady.upd ?_ rfl rfl rfl rfl

theorem execRattleRequest_steady (x0) (x1) (h : Steady s₀ s) (e : execRattleRequest x0 x1 s = .next t) : Steady s₀ t := by
  unfold execRattleRequest at e
  refine Steady.next ?_ e
  clear e
  repeat' first
    | with_reducible assumption
    | with_reducible apply rgnCtlWrite_steady

theorem execRegionResetRequest_steady (x0) (x1) (h : Steady s₀ s) (e : execRegionResetRequest x0 x1 s = .next t) :
    Steady s₀ t := by
  unfold execRegionResetRequest at e
  refine Steady.next ?_ e
  clear e
  repeat' first
    | with_reducible assumption
    | with_reducible apply rgnCtlWrite_steady

theorem execSramEccError_steady (x0) (x1) (h : Steady s₀ s) (e : execSramEccError x0 x1 s = .next t) : Steady s₀ t := by
  unfold execSramEccError at e
  refine Steady.next ?_ e
  clear e
  repeat' first
    | with_reducible assumption
    | with_reducible apply settle_steady
    | with_reducible apply resetRegion_steady
    | with_reducible apply log_steady
    | with_reducible apply Steady.ite
    | split

theorem execRegionResetComplete_steady (x0) (h : Steady s₀ s) (e : execRegionResetComplete x0 s = .next t) : Steady s₀ t := by
  unfold execRegionResetComplete at e
  refine Steady.next ?_ e
  clear e
  repeat' first
    | with_reducible assumption
    | with_reducible apply settle_steady
    | with_reducible apply queueRegion_steady
    | with_reducible apply unwantRegion_steady
    | with_reducible apply fullSets_steady
    | with_reducible apply Steady.ite
    | split

theorem execSpareQualified_steady (x0) (x1) (x2) (h : Steady s₀ s) (e : execSpareQualified x0 x1 x2 s = .next t) :
    Steady s₀ t := by
  unfold execSpareQualified at e
  refine Steady.next ?_ e
  clear e
  repeat' first
    | with_reducible assumption
    | with_reducible apply settle_steady
    | with_reducible apply qualify_steady
    | with_reducible apply failSpare_steady
    | with_reducible apply setRegion_steady
    | with_reducible apply retireBlock_steady
    | refine fun x (hx : Steady s₀ x) a => ?_
    | refine fun x (hx : Steady s₀ x) => ?_
    | with_reducible apply Steady.ite
    | with_reducible apply Steady.foldl
    | ((try lift_lets); intro x; refine (?_ : Steady s₀ x → _) ?_; focus (intro hx; clear_value x))
    | ((try lift_lets); intro x; try clear_value x)
    | split
    | with_reducible refine Steady.upd ?_ rfl rfl rfl rfl

theorem execConfigScrub_steady (x0) (x1) (h : Steady s₀ s) (e : execConfigScrub x0 x1 s = .next t) : Steady s₀ t := by
  unfold execConfigScrub at e
  refine Steady.next ?_ e
  clear e
  repeat' first
    | with_reducible assumption
    | with_reducible apply incWrap_steady
    | with_reducible apply voteFix_steady
    | with_reducible apply settle_steady
    | with_reducible apply resetRegion_steady
    | refine fun x (hx : Steady s₀ x) a => ?_
    | refine fun x (hx : Steady s₀ x) => ?_
    | with_reducible apply Steady.ite
    | with_reducible apply Steady.foldl
    | ((try lift_lets); intro x; refine (?_ : Steady s₀ x → _) ?_; focus (intro hx; clear_value x))
    | ((try lift_lets); intro x; try clear_value x)
    | split

theorem execRecipeWindowEval_steady (x0) (h : Steady s₀ s) (e : execRecipeWindowEval x0 s = .next t) : Steady s₀ t := by
  unfold execRecipeWindowEval at e
  refine Steady.next ?_ e
  clear e
  repeat' first
    | with_reducible assumption
    | with_reducible apply evalWindow_steady

theorem execRecipeFlagPop_steady (x0) (x1) (h : Steady s₀ s) (e : execRecipeFlagPop x0 x1 s = .next t) : Steady s₀ t := by
  unfold execRecipeFlagPop at e
  refine Steady.next ?_ e
  clear e
  repeat' first
    | with_reducible assumption
    | with_reducible apply recipeFlagWrite_steady

theorem execRecipeRevert_steady (x0) (x1) (h : Steady s₀ s) (e : execRecipeRevert x0 x1 s = .next t) : Steady s₀ t := by
  unfold execRecipeRevert at e
  refine Steady.next ?_ e
  clear e
  repeat' first
    | with_reducible assumption
    | with_reducible apply stageRecipe_steady
    | with_reducible apply Steady.ite
    | split
    | with_reducible refine Steady.upd ?_ rfl rfl rfl rfl

theorem execZeroCntRead_steady (x0) (x1) (x2) (h : Steady s₀ s) (e : execZeroCntRead x0 x1 x2 s = .next t) : Steady s₀ t := by
  unfold execZeroCntRead at e
  refine Steady.next ?_ e
  clear e
  repeat' first
    | with_reducible assumption
    | with_reducible apply viaBar_steady
    | with_reducible apply zeroCntRead_steady
    | refine fun x (hx : Steady s₀ x) a => ?_
    | refine fun x (hx : Steady s₀ x) => ?_

theorem execStageReturn_steady (h : Steady s₀ s) (e : execStageReturn s = .next t) : Steady s₀ t := by
  unfold execStageReturn at e
  refine Steady.next ?_ e
  clear e
  repeat' first
    | with_reducible assumption
    | with_reducible apply wr_steady
    | with_reducible apply log_steady
    | with_reducible apply Steady.ite
    | ((try lift_lets); intro x; refine (?_ : Steady s₀ x → _) ?_; focus (intro hx; clear_value x))
    | ((try lift_lets); intro x; try clear_value x)
    | split
    | with_reducible refine Steady.upd ?_ rfl rfl rfl rfl

theorem execLoad_steady (x0) (x1) (x2) (x3) (x4) (x5) (h : Steady s₀ s) (e : execLoad x0 x1 x2 x3 x4 x5 s = .next t) :
    Steady s₀ t := by
  unfold execLoad at e
  refine Steady.next ?_ e
  clear e
  repeat' first
    | with_reducible assumption
    | with_reducible apply wldCommand_steady
    | with_reducible apply loadCommand_steady
    | refine fun x (hx : Steady s₀ x) a => ?_
    | refine fun x (hx : Steady s₀ x) => ?_
    | ((try lift_lets); intro x; refine (?_ : Steady s₀ x → _) ?_; focus (intro hx; clear_value x))
    | ((try lift_lets); intro x; try clear_value x)

theorem execRetire_steady (x0) (x1) (x2) (h : Steady s₀ s) (e : execRetire x0 x1 x2 s = .next t) : Steady s₀ t := by
  unfold execRetire at e
  refine Steady.next ?_ e
  clear e
  repeat' first
    | with_reducible assumption
    | with_reducible apply wldCommand_steady
    | with_reducible apply retireCommand_steady
    | refine fun x (hx : Steady s₀ x) a => ?_
    | refine fun x (hx : Steady s₀ x) => ?_
    | ((try lift_lets); intro x; refine (?_ : Steady s₀ x → _) ?_; focus (intro hx; clear_value x))
    | ((try lift_lets); intro x; try clear_value x)

theorem execUnload_steady (x0) (x1) (h : Steady s₀ s) (e : execUnload x0 x1 s = .next t) : Steady s₀ t := by
  unfold execUnload at e
  refine Steady.next ?_ e
  clear e
  repeat' first
    | with_reducible assumption
    | with_reducible apply wldCommand_steady
    | with_reducible apply unloadCommand_steady
    | refine fun x (hx : Steady s₀ x) a => ?_
    | refine fun x (hx : Steady s₀ x) => ?_
    | ((try lift_lets); intro x; refine (?_ : Steady s₀ x → _) ?_; focus (intro hx; clear_value x))
    | ((try lift_lets); intro x; try clear_value x)

theorem execAbort_steady (x0) (x1) (h : Steady s₀ s) (e : execAbort x0 x1 s = .next t) : Steady s₀ t := by
  unfold execAbort at e
  refine Steady.next ?_ e
  clear e
  repeat' first
    | with_reducible assumption
    | with_reducible apply wldCommand_steady
    | with_reducible apply abortCommand_steady
    | refine fun x (hx : Steady s₀ x) a => ?_
    | refine fun x (hx : Steady s₀ x) => ?_
    | ((try lift_lets); intro x; refine (?_ : Steady s₀ x → _) ?_; focus (intro hx; clear_value x))
    | ((try lift_lets); intro x; try clear_value x)

theorem execReload_steady (x0) (x1) (h : Steady s₀ s) (e : execReload x0 x1 s = .next t) : Steady s₀ t := by
  unfold execReload at e
  refine Steady.next ?_ e
  clear e
  repeat' first
    | with_reducible assumption
    | with_reducible apply wldCommand_steady
    | with_reducible apply reloadCommand_steady
    | refine fun x (hx : Steady s₀ x) a => ?_
    | refine fun x (hx : Steady s₀ x) => ?_
    | ((try lift_lets); intro x; refine (?_ : Steady s₀ x → _) ?_; focus (intro hx; clear_value x))
    | ((try lift_lets); intro x; try clear_value x)

theorem execManifestFetched_steady (x0) (x1) (x2) (h : Steady s₀ s) (e : execManifestFetched x0 x1 x2 s = .next t) :
    Steady s₀ t := by
  unfold execManifestFetched at e
  refine Steady.next ?_ e
  clear e
  repeat' first
    | with_reducible assumption
    | with_reducible apply manifestArrives_steady
    | with_reducible apply Steady.ite
    | split
    | with_reducible refine Steady.upd ?_ rfl rfl rfl rfl

theorem execChunkFetched_steady (x0) (x1) (h : Steady s₀ s) (e : execChunkFetched x0 x1 s = .next t) : Steady s₀ t := by
  unfold execChunkFetched at e
  refine Steady.next ?_ e
  clear e
  repeat' first
    | with_reducible assumption
    | with_reducible apply reloadArrives_steady
    | with_reducible apply loadChunk_steady
    | with_reducible apply endLoad_steady
    | with_reducible apply Steady.ite
    | split
    | with_reducible refine Steady.upd ?_ rfl rfl rfl rfl

theorem execChunkReverified_steady (x0) (x1) (h : Steady s₀ s) (e : execChunkReverified x0 x1 s = .next t) : Steady s₀ t := by
  unfold execChunkReverified at e
  refine Steady.next ?_ e
  clear e
  repeat' first
    | with_reducible assumption
    | with_reducible apply setGen_steady
    | with_reducible apply incHold_steady
    | with_reducible apply answerQueued_steady
    | with_reducible apply askLost_steady
    | with_reducible apply lastReverified_steady
    | with_reducible apply reverified_steady
    | refine fun x (hx : Steady s₀ x) a => ?_
    | refine fun x (hx : Steady s₀ x) => ?_
    | with_reducible apply Steady.ite
    | ((try lift_lets); intro x; refine (?_ : Steady s₀ x → _) ?_; focus (intro hx; clear_value x))
    | ((try lift_lets); intro x; try clear_value x)
    | split
    | with_reducible refine Steady.upd ?_ rfl rfl rfl rfl

theorem execWldActiveWrite_steady (x0) (h : Steady s₀ s) (e : execWldActiveWrite x0 s = .next t) : Steady s₀ t := by
  unfold execWldActiveWrite at e
  refine Steady.next ?_ e
  clear e
  repeat' first
    | with_reducible assumption
    | with_reducible apply wldActiveWrite_steady

theorem execDrainDeadline_steady (x0) (h : Steady s₀ s) (e : execDrainDeadline x0 s = .next t) : Steady s₀ t := by
  unfold execDrainDeadline at e
  refine Steady.next ?_ e
  clear e
  repeat' first
    | with_reducible assumption
    | with_reducible apply settleGens_steady
    | with_reducible apply Steady.ite
    | split
    | with_reducible refine Steady.upd ?_ rfl rfl rfl rfl

theorem execBlockProgramStart_steady (x0) (x1) (h : Steady s₀ s) (e : execBlockProgramStart x0 x1 s = .next t) : Steady s₀ t := by
  unfold execBlockProgramStart at e
  refine Steady.next ?_ e
  clear e
  repeat' first
    | with_reducible assumption
    | with_reducible apply startSpare_steady
    | with_reducible apply startKeepBlock_steady
    | with_reducible apply startLoadBlock_steady
    | refine fun x (hx : Steady s₀ x) a => ?_
    | refine fun x (hx : Steady s₀ x) => ?_
    | with_reducible apply Steady.ite
    | ((try lift_lets); intro x; refine (?_ : Steady s₀ x → _) ?_; focus (intro hx; clear_value x))
    | ((try lift_lets); intro x; try clear_value x)
    | split

theorem execRowProgrammed_steady (x0) (x1) (x2) (x3) (x4) (h : Steady s₀ s) (e : execRowProgrammed x0 x1 x2 x3 x4 s = .next t) :
    Steady s₀ t := by
  unfold execRowProgrammed at e
  refine Steady.next ?_ e
  clear e
  repeat' first
    | with_reducible assumption
    | with_reducible apply writeRow_steady
    | with_reducible apply setGen_steady
    | with_reducible apply dropRetired_steady
    | with_reducible apply remapColumns_steady
    | refine fun x (hx : Steady s₀ x) a => ?_
    | refine fun x (hx : Steady s₀ x) => ?_
    | with_reducible apply Steady.ite
    | split
    | ((try lift_lets); intro x; refine (?_ : Steady s₀ x → _) ?_; focus (intro hx; clear_value x))
    | ((try lift_lets); intro x; try clear_value x)
    | with_reducible refine Steady.upd ?_ rfl rfl rfl rfl

theorem execBlockProgramComplete_steady (x0) (x1) (h : Steady s₀ s) (e : execBlockProgramComplete x0 x1 s = .next t) :
    Steady s₀ t := by
  unfold execBlockProgramComplete at e
  cases e
  have hx := checkBlock_steady x0.val x1.val h
  split
  · exact h
  dsimp only
  refine Steady.ite h (Steady.ite (dropRetired_steady _ _ _ hx) (Steady.ite (programDone_steady _ _ _ hx) ?_))
  exact dropRetired_steady _ _ _ (programFailed_steady _ _ _ _ hx)

theorem execTinMasterCopyComplete_steady (h : Steady s₀ s) (e : execTinMasterCopyComplete s = .next t) : Steady s₀ t := by
  unfold execTinMasterCopyComplete at e
  refine Steady.next ?_ e
  clear e
  repeat' first
    | with_reducible assumption
    | with_reducible apply Steady.ite
    | split
    | with_reducible refine Steady.upd ?_ rfl rfl rfl rfl

theorem execParcelManifestFrame_steady (x0) (x1) (h : Steady s₀ s) (e : execParcelManifestFrame x0 x1 s = .next t) :
    Steady s₀ t := by
  unfold execParcelManifestFrame at e
  refine Steady.next ?_ e
  clear e
  repeat' first
    | with_reducible assumption
    | with_reducible apply forwardFrame_steady
    | with_reducible apply wr_steady
    | with_reducible apply manifestArrives_steady
    | with_reducible apply reRequest_steady
    | with_reducible apply Steady.ite
    | ((try lift_lets); intro x; refine (?_ : Steady s₀ x → _) ?_; focus (intro hx; clear_value x))
    | ((try lift_lets); intro x; try clear_value x)
    | split
    | with_reducible refine Steady.upd ?_ rfl rfl rfl rfl

theorem execParcelChunkFrame_steady (x0) (h : Steady s₀ s) (e : execParcelChunkFrame x0 s = .next t) : Steady s₀ t := by
  unfold execParcelChunkFrame at e
  refine Steady.next ?_ e
  clear e
  repeat' first
    | with_reducible assumption
    | with_reducible apply forwardFrame_steady
    | with_reducible apply reloadArrives_steady
    | with_reducible apply chunkKept_steady
    | refine fun x (hx : Steady s₀ x) a => ?_
    | refine fun x (hx : Steady s₀ x) => ?_
    | with_reducible apply Steady.ite
    | ((try lift_lets); intro x; refine (?_ : Steady s₀ x → _) ?_; focus (intro hx; clear_value x))
    | ((try lift_lets); intro x; try clear_value x)
    | split
    | with_reducible refine Steady.upd ?_ rfl rfl rfl rfl

theorem execParcelReRequest_steady (x0) (h : Steady s₀ s) (e : execParcelReRequest x0 s = .next t) : Steady s₀ t := by
  unfold execParcelReRequest at e
  refine Steady.next ?_ e
  clear e
  repeat' first
    | with_reducible assumption
    | with_reducible apply resend_steady
    | with_reducible apply passUp_steady
    | with_reducible apply Steady.ite
    | ((try lift_lets); intro x; refine (?_ : Steady s₀ x → _) ?_; focus (intro hx; clear_value x))
    | ((try lift_lets); intro x; try clear_value x)
    | split
    | with_reducible refine Steady.upd ?_ rfl rfl rfl rfl

theorem execParcelCompletion_steady (x0) (x1) (h : Steady s₀ s) (e : execParcelCompletion x0 x1 s = .next t) : Steady s₀ t := by
  unfold execParcelCompletion at e
  refine Steady.next ?_ e
  clear e
  repeat' first
    | with_reducible assumption
    | with_reducible apply wr_steady
    | with_reducible apply wrb_steady
    | with_reducible apply passUp_steady
    | with_reducible apply completeUp_steady
    | with_reducible apply Steady.ite
    | ((try lift_lets); intro x; refine (?_ : Steady s₀ x → _) ?_; focus (intro hx; clear_value x))
    | ((try lift_lets); intro x; try clear_value x)
    | split
    | with_reducible refine Steady.upd ?_ rfl rfl rfl rfl

theorem execCostumeInstall_steady (x0) (h : Steady s₀ s) (e : execCostumeInstall x0 s = .next t) : Steady s₀ t := by
  unfold execCostumeInstall at e
  refine Steady.next ?_ e
  clear e
  repeat' first
    | with_reducible assumption
    | with_reducible apply costumeWrite_steady

theorem execCostumeRemove_steady (x0) (h : Steady s₀ s) (e : execCostumeRemove x0 s = .next t) : Steady s₀ t := by
  unfold execCostumeRemove at e
  refine Steady.next ?_ e
  clear e
  repeat' first
    | with_reducible assumption
    | with_reducible apply costumeWrite_steady

theorem execCostumeInstallComplete_steady (h : Steady s₀ s) (e : execCostumeInstallComplete s = .next t) : Steady s₀ t := by
  unfold execCostumeInstallComplete at e
  refine Steady.next ?_ e
  clear e
  repeat' first
    | with_reducible assumption
    | with_reducible apply wr_steady
    | with_reducible apply costumeFails_steady
    | with_reducible apply addVersion_steady
    | with_reducible apply logNanGroups_steady
    | with_reducible apply Steady.ite
    | ((try lift_lets); intro x; refine (?_ : Steady s₀ x → _) ?_; focus (intro hx; clear_value x))
    | ((try lift_lets); intro x; try clear_value x)
    | split
    | with_reducible refine Steady.upd ?_ rfl rfl rfl rfl

theorem execSpecPauseEnd_steady (x0) (x1) (h : Steady s₀ s) (e : execSpecPauseEnd x0 x1 s = .next t) : Steady s₀ t := by
  unfold execSpecPauseEnd at e
  refine Steady.next ?_ e
  clear e
  repeat' first
    | with_reducible assumption
    | with_reducible apply setReq_steady
    | refine fun x (hx : Steady s₀ x) a => ?_
    | refine fun x (hx : Steady s₀ x) => ?_
    | with_reducible apply Steady.ite
    | split
    | with_reducible refine Steady.upd ?_ rfl rfl rfl rfl

/-- A boundary that is passed takes the time of the run that ends there, any other none. -/
theorem execStepBoundary_steady (x0) (h : Steady s₀ s) (e : execStepBoundary x0 s = .next t) :
    ∃ n, (n = 0 ∨ n = 600 * x0.duration) ∧ Steady (s₀.later n) t := by
  unfold execStepBoundary at e
  cases e
  split
  · exact ⟨0, .inl rfl, h⟩
  dsimp only
  split
  · exact ⟨0, .inl rfl, holdBoundary_steady (offerHash_steady h)⟩
  · refine ⟨runTime x0 (offerHash s), ?_, passBoundary_steady x0 (offerHash_steady h)⟩
    unfold runTime
    split
    · exact .inr rfl
    · exact .inl rfl

theorem execCommit_steady (h : Steady s₀ s) (e : execCommit s = .next t) : Steady s₀ t := by
  unfold execCommit at e
  refine Steady.next ?_ e
  clear e
  repeat' first
    | with_reducible assumption
    | with_reducible apply offerHash_steady
    | with_reducible apply commitIdle_steady
    | with_reducible apply Steady.ite
    | split

theorem execHbmTraining_steady (x0) (x1) (h : Steady s₀ s) (e : execHbmTraining x0 x1 s = .next t) : Steady s₀ t := by
  unfold execHbmTraining at e
  refine Steady.next ?_ e
  clear e
  repeat' first
    | with_reducible assumption
    | with_reducible apply incHold_steady
    | with_reducible apply activate_steady
    | with_reducible apply refreshRise_steady
    | with_reducible apply wr_steady
    | with_reducible apply failStack_steady
    | with_reducible apply Steady.ite
    | ((try lift_lets); intro x; refine (?_ : Steady s₀ x → _) ?_; focus (intro hx; clear_value x))
    | ((try lift_lets); intro x; try clear_value x)
    | split
    | with_reducible refine Steady.upd ?_ rfl rfl rfl rfl

theorem execHbmCorrected_steady (x0) (x1) (x2) (x3) (x4) (h : Steady s₀ s) (e : execHbmCorrected x0 x1 x2 x3 x4 s = .next t) :
    Steady s₀ t := by
  unfold execHbmCorrected at e
  refine Steady.next ?_ e
  clear e
  repeat' first
    | with_reducible assumption
    | with_reducible apply correctedLine_steady

theorem execPatrolScrub_steady (x0) (x1) (x2) (x3) (x4) (x5) (h : Steady s₀ s) (e : execPatrolScrub x0 x1 x2 x3 x4 x5 s = .next t) :
    Steady s₀ t := by
  unfold execPatrolScrub at e
  refine Steady.next ?_ e
  clear e
  repeat' first
    | with_reducible assumption
    | with_reducible apply correctedLine_steady
    | with_reducible apply Steady.ite
    | split

theorem execHbmUncorrectable_steady (x0) (h : Steady s₀ s) (e : execHbmUncorrectable x0 s = .next t) : Steady s₀ t := by
  unfold execHbmUncorrectable at e
  refine Steady.next ?_ e
  clear e
  repeat' first
    | with_reducible assumption
    | with_reducible apply setHbm_steady
    | with_reducible apply incHold_steady
    | with_reducible apply wr_steady
    | with_reducible apply log_steady
    | with_reducible apply repairRow_steady
    | with_reducible apply areaEffect_steady
    | with_reducible apply failStack_steady
    | refine fun x (hx : Steady s₀ x) a => ?_
    | refine fun x (hx : Steady s₀ x) => ?_
    | with_reducible apply Steady.ite
    | ((try lift_lets); intro x; refine (?_ : Steady s₀ x → _) ?_; focus (intro hx; clear_value x))
    | ((try lift_lets); intro x; try clear_value x)
    | split
    | with_reducible refine Steady.upd ?_ rfl rfl rfl rfl

theorem execScratchWrite_steady (x0) (x1) (x2) (x3) (h : Steady s₀ s) (e : execScratchWrite x0 x1 x2 x3 s = .next t) :
    Steady s₀ t := by
  unfold execScratchWrite at e
  refine Steady.next ?_ e
  clear e
  repeat' first
    | with_reducible assumption
    | with_reducible apply scratchWrite_steady

theorem execBitSetAliasWrite_steady (x0) (x1) (x2) (h : Steady s₀ s) (e : execBitSetAliasWrite x0 x1 x2 s = .next t) :
    Steady s₀ t := by
  unfold execBitSetAliasWrite at e
  refine Steady.next ?_ e
  clear e
  repeat' first
    | with_reducible assumption
    | with_reducible apply scratchWrite_steady

theorem execBitClearAliasWrite_steady (x0) (x1) (x2) (h : Steady s₀ s) (e : execBitClearAliasWrite x0 x1 x2 s = .next t) :
    Steady s₀ t := by
  unfold execBitClearAliasWrite at e
  refine Steady.next ?_ e
  clear e
  repeat' first
    | with_reducible assumption
    | with_reducible apply scratchWrite_steady

theorem execScratchEccError_steady (x0) (x1) (x2) (h : Steady s₀ s) (e : execScratchEccError x0 x1 x2 s = .next t) :
    Steady s₀ t := by
  unfold execScratchEccError at e
  refine Steady.next ?_ e
  clear e
  repeat' first
    | with_reducible assumption
    | with_reducible apply scratchStorm_steady
    | with_reducible apply scratchError_steady

theorem execScratchScrub_steady (x0) (x1) (x2) (h : Steady s₀ s) (e : execScratchScrub x0 x1 x2 s = .next t) : Steady s₀ t := by
  unfold execScratchScrub at e
  refine Steady.next ?_ e
  clear e
  repeat' first
    | with_reducible assumption
    | with_reducible apply scratchStorm_steady
    | with_reducible apply scratchError_steady
    | refine fun x (hx : Steady s₀ x) a => ?_
    | refine fun x (hx : Steady s₀ x) => ?_
    | with_reducible apply Steady.foldl

theorem execEventReport_steady (x0) (h : Steady s₀ s) (e : execEventReport x0 s = .next t) : Steady s₀ t := by
  unfold execEventReport at e
  refine Steady.next ?_ e
  clear e
  repeat' first
    | with_reducible assumption
    | with_reducible apply takeReport_steady
    | split
    | with_reducible refine Steady.upd ?_ rfl rfl rfl rfl

theorem execEventDrain_steady (x0) (h : Steady s₀ s) (e : execEventDrain x0 s = .next t) : Steady s₀ t := by
  unfold execEventDrain at e
  refine Steady.next ?_ e
  clear e
  repeat' first
    | with_reducible assumption
    | with_reducible apply rollWindows_steady
    | with_reducible apply wr_steady
    | with_reducible apply writeRing_steady
    | with_reducible apply drainMarkers_steady
    | with_reducible apply Steady.ite
    | ((try lift_lets); intro x; refine (?_ : Steady s₀ x → _) ?_; focus (intro hx; clear_value x))
    | ((try lift_lets); intro x; try clear_value x)
    | split
    | with_reducible refine Steady.upd ?_ rfl rfl rfl rfl

theorem execRingStart_steady (x0) (h : Steady s₀ s) (e : execRingStart x0 s = .next t) : Steady s₀ t := by
  unfold execRingStart at e
  refine Steady.next ?_ e
  clear e
  repeat' first
    | with_reducible assumption
    | with_reducible apply evtCfgWrite_steady

theorem execEvtTailWrite_steady (x0) (h : Steady s₀ s) (e : execEvtTailWrite x0 s = .next t) : Steady s₀ t := by
  unfold execEvtTailWrite at e
  refine Steady.next ?_ e
  clear e
  repeat' first
    | with_reducible assumption
    | with_reducible apply evtTailWrite_steady

theorem execTamper_steady (x0) (h : Steady s₀ s) (e : execTamper x0 s = .next t) : Steady s₀ t := by
  unfold execTamper at e
  refine Steady.next ?_ e
  clear e
  repeat' first
    | with_reducible assumption
    | with_reducible apply tamperTrigger_steady
    | with_reducible apply Steady.ite
    | split
    | with_reducible refine Steady.upd ?_ rfl rfl rfl rfl

theorem execMeshCheck_steady (x0) (h : Steady s₀ s) (e : execMeshCheck x0 s = .next t) : Steady s₀ t := by
  unfold execMeshCheck at e
  refine Steady.next ?_ e
  clear e
  repeat' first
    | with_reducible assumption
    | with_reducible apply wrb_steady
    | with_reducible apply tamperTrigger_steady
    | with_reducible apply Steady.ite
    | ((try lift_lets); intro x; refine (?_ : Steady s₀ x → _) ?_; focus (intro hx; clear_value x))
    | ((try lift_lets); intro x; first | (have e : Nv := x; clear e; subst x) | (have e : Sec := x; clear e; subst x) | clear_value x)
    | split
    | with_reducible refine Steady.upd ?_ rfl rfl rfl rfl

theorem execWipeComplete_steady (x0) (h : Steady s₀ s) (e : execWipeComplete x0 s = .next t) : Steady s₀ t := by
  unfold execWipeComplete at e
  refine Steady.next ?_ e
  clear e
  repeat' first
    | with_reducible assumption
    | with_reducible apply wr_steady
    | with_reducible apply incWrap_steady
    | with_reducible apply Steady.ite
    | split
    | with_reducible refine Steady.upd ?_ rfl rfl rfl rfl

theorem execAttestationRequest_steady (x0) (h : Steady s₀ s) (e : execAttestationRequest x0 s = .next t) : Steady s₀ t := by
  unfold execAttestationRequest at e
  refine Steady.next ?_ e
  clear e
  repeat' first
    | with_reducible assumption
    | with_reducible apply attestCmdWrite_steady

theorem execAttestReportWritten_steady (x0) (h : Steady s₀ s) (e : execAttestReportWritten x0 s = .next t) : Steady s₀ t := by
  unfold execAttestReportWritten at e
  refine Steady.next ?_ e
  clear e
  repeat' first
    | with_reducible assumption
    | with_reducible apply wr_steady
    | with_reducible apply failReport_steady
    | refine fun x (hx : Steady s₀ x) a => ?_
    | refine fun x (hx : Steady s₀ x) => ?_
    | ((try lift_lets); intro x; refine (?_ : Steady s₀ x → _) ?_; focus (intro hx; clear_value x))
    | ((try lift_lets); intro x; first | (have e : Nv := x; clear e; subst x) | (have e : Sec := x; clear e; subst x) | clear_value x)
    | split
    | with_reducible refine Steady.upd ?_ rfl rfl rfl rfl
    | (with_reducible refine Steady.updMem ?_ rfl rfl rfl rfl ?_ ?_ ?_ ?_ ?_ ?_ <;> try first | exact id | (refine fun hw => ?_; first | exact putBytes_wf _ _ hw | exact putSome_wf _ _ hw | exact putView_wf _ _ _ hw | exact foldl_putByte_wf _ _ (SparseWf.nil _) | exact SparseWf.sset hw _ _ | exact SparseWf.filter hw _ | exact SparseWf.nil _))

theorem execPorNAssert_steady (h : Steady s₀ s) (e : execPorNAssert s = .next t) : Steady s₀ t := by
  unfold execPorNAssert at e
  refine Steady.next ?_ e
  clear e
  repeat' first
    | with_reducible assumption
    | with_reducible apply porState_steady

theorem execPor_steady (h : Steady s₀ s) (e : execPor s = .next t) : Steady s₀ t := by
  unfold execPor at e
  refine Steady.next ?_ e
  clear e
  repeat' first
    | with_reducible assumption
    | with_reducible apply porState_steady
    | with_reducible apply bootRom_steady
    | with_reducible apply lockPll_steady
    | with_reducible apply Steady.ite
    | ((try lift_lets); intro x; refine (?_ : Steady s₀ x → _) ?_; focus (intro hx; clear_value x))
    | ((try lift_lets); intro x; try clear_value x)
    | split
    | with_reducible refine Steady.upd ?_ rfl rfl rfl rfl

theorem execWarmReset_steady (h : Steady s₀ s) (e : execWarmReset s = .next t) : Steady s₀ t := by
  unfold execWarmReset at e
  refine Steady.next ?_ e
  clear e
  repeat' first
    | with_reducible assumption
    | with_reducible apply enterWarmReset_steady
    | with_reducible apply Steady.ite
    | ((try lift_lets); intro x; refine (?_ : Steady s₀ x → _) ?_; focus (intro hx; clear_value x))
    | ((try lift_lets); intro x; try clear_value x)
    | split
    | with_reducible refine Steady.upd ?_ rfl rfl rfl rfl

theorem execWarmResetRelease_steady (h : Steady s₀ s) (e : execWarmResetRelease s = .next t) : Steady s₀ t := by
  unfold execWarmResetRelease at e
  refine Steady.next ?_ e
  clear e
  repeat' first
    | with_reducible assumption
    | with_reducible apply bootWarm_steady
    | with_reducible apply Steady.ite
    | ((try lift_lets); intro x; refine (?_ : Steady s₀ x → _) ?_; focus (intro hx; clear_value x))
    | ((try lift_lets); intro x; try clear_value x)
    | split
    | with_reducible refine Steady.upd ?_ rfl rfl rfl rfl

theorem execWarmResetCommand_steady (x0) (x1) (h : Steady s₀ s) (e : execWarmResetCommand x0 x1 s = .next t) : Steady s₀ t := by
  unfold execWarmResetCommand at e
  refine Steady.next ?_ e
  clear e
  repeat' first
    | with_reducible assumption
    | with_reducible apply glbCommand_steady
    | with_reducible apply warmResetCommand_steady
    | refine fun x (hx : Steady s₀ x) a => ?_
    | refine fun x (hx : Steady s₀ x) => ?_

theorem execCalEnd_steady (h : Steady s₀ s) (e : execCalEnd s = .next t) : Steady s₀ t := by
  unfold execCalEnd at e
  refine Steady.next ?_ e
  clear e
  repeat' first
    | with_reducible assumption
    | with_reducible apply leaveCal_steady
    | with_reducible apply eraseAll_steady
    | with_reducible apply Steady.ite
    | split

theorem execRecovFetch_steady (x0) (x1) (h : Steady s₀ s) (e : execRecovFetch x0 x1 s = .next t) : Steady s₀ t := by
  unfold execRecovFetch at e
  refine Steady.next ?_ e
  clear e
  repeat' first
    | with_reducible assumption
    | with_reducible apply recovCtlWrite_steady

theorem execPllLockLoss_steady (h : Steady s₀ s) (e : execPllLockLoss s = .next t) : Steady s₀ t := by
  unfold execPllLockLoss at e
  refine Steady.next ?_ e
  clear e
  repeat' first
    | with_reducible assumption
    | with_reducible apply incHold_steady
    | with_reducible apply wr_steady
    | with_reducible apply tamperTrigger_steady
    | with_reducible apply stopPhases_steady
    | with_reducible apply voidRunning_steady
    | with_reducible apply Steady.ite
    | ((try lift_lets); intro x; refine (?_ : Steady s₀ x → _) ?_; focus (intro hx; clear_value x))
    | ((try lift_lets); intro x; try clear_value x)
    | split

theorem execPllRelock_steady (x0) (h : Steady s₀ s) (e : execPllRelock x0 s = .next t) : Steady s₀ t := by
  unfold execPllRelock at e
  refine Steady.next ?_ e
  clear e
  repeat' first
    | with_reducible assumption
    | with_reducible apply wr_steady
    | with_reducible apply Steady.ite
    | split
    | with_reducible refine Steady.upd ?_ rfl rfl rfl rfl

theorem execRelockTimeout_steady (h : Steady s₀ s) (e : execRelockTimeout s = .next t) : Steady s₀ t := by
  unfold execRelockTimeout at e
  refine Steady.next ?_ e
  clear e
  repeat' first
    | with_reducible assumption
    | with_reducible apply haltPart_steady
    | with_reducible apply abandonSteps_steady
    | with_reducible apply leavePair_steady
    | refine fun x (hx : Steady s₀ x) a => ?_
    | refine fun x (hx : Steady s₀ x) => ?_
    | with_reducible apply Steady.ite
    | split

theorem execWatchdogExpiry_steady (x0) (h : Steady s₀ s) (e : execWatchdogExpiry x0 s = .next t) : Steady s₀ t := by
  unfold execWatchdogExpiry at e
  refine Steady.next ?_ e
  clear e
  repeat' first
    | with_reducible assumption

theorem execCxlLinkTrained_steady (x0) (x1) (h : Steady s₀ s) (e : execCxlLinkTrained x0 x1 s = .next t) : Steady s₀ t := by
  unfold execCxlLinkTrained at e
  refine Steady.next ?_ e
  clear e
  repeat' first
    | with_reducible assumption
    | with_reducible apply logLink_steady
    | with_reducible apply Steady.ite
    | split
    | with_reducible refine Steady.upd ?_ rfl rfl rfl rfl

theorem execLinkDown_steady (h : Steady s₀ s) (e : execLinkDown s = .next t) : Steady s₀ t := by
  unfold execLinkDown at e
  refine Steady.next ?_ e
  clear e
  repeat' first
    | with_reducible assumption
    | with_reducible apply linkLost_steady

theorem execHotReset_steady (h : Steady s₀ s) (e : execHotReset s = .next t) : Steady s₀ t := by
  unfold execHotReset at e
  refine Steady.next ?_ e
  clear e
  repeat' first
    | with_reducible assumption
    | with_reducible apply resetConfig_steady
    | with_reducible apply linkLost_steady

theorem execPerstNAssert_steady (h : Steady s₀ s) (e : execPerstNAssert s = .next t) : Steady s₀ t := by
  unfold execPerstNAssert at e
  refine Steady.next ?_ e
  clear e
  repeat' first
    | with_reducible assumption
    | with_reducible apply enterWarmReset_steady
    | with_reducible apply Steady.ite
    | ((try lift_lets); intro x; refine (?_ : Steady s₀ x → _) ?_; focus (intro hx; clear_value x))
    | ((try lift_lets); intro x; try clear_value x)
    | split
    | with_reducible refine Steady.upd ?_ rfl rfl rfl rfl

theorem execBusMasterEnableChange_steady (x0) (h : Steady s₀ s) (e : execBusMasterEnableChange x0 s = .next t) : Steady s₀ t := by
  unfold execBusMasterEnableChange at e
  refine Steady.next ?_ e
  clear e
  repeat' first
    | with_reducible assumption
    | with_reducible refine Steady.upd ?_ rfl rfl rfl rfl

theorem execLoadPauseTimeout_steady (h : Steady s₀ s) (e : execLoadPauseTimeout s = .next t) : Steady s₀ t := by
  unfold execLoadPauseTimeout at e
  refine Steady.next ?_ e
  clear e
  repeat' first
    | with_reducible assumption
    | with_reducible apply endLoad_steady
    | with_reducible apply Steady.ite
    | split
    | with_reducible refine Steady.upd ?_ rfl rfl rfl rfl

theorem execCxlMemAccess_steady (x0) (h : Steady s₀ s) (e : execCxlMemAccess x0 s = .next t) : Steady s₀ t := by
  unfold execCxlMemAccess at e
  refine Steady.next ?_ e
  clear e
  repeat' first
    | with_reducible assumption
    | with_reducible apply refuseAccess_steady
    | with_reducible apply hostMem_steady
    | with_reducible apply serveLine_steady
    | with_reducible apply savesAccess_steady
    | with_reducible apply scratchAccess_steady
    | with_reducible apply hostAccess_steady
    | with_reducible apply Steady.ite
    | split
    | with_reducible refine Steady.upd ?_ rfl rfl rfl rfl

theorem execHdmDecoderCommit_steady (x0) (x1) (x2) (x3) (x4) (x5) (h : Steady s₀ s) (e : execHdmDecoderCommit x0 x1 x2 x3 x4 x5 s = .next t) :
    Steady s₀ t := by
  unfold execHdmDecoderCommit at e
  refine Steady.next ?_ e
  clear e
  repeat' first
    | with_reducible assumption
    | refine fun x (hx : Steady s₀ x) a => ?_
    | refine fun x (hx : Steady s₀ x) => ?_
    | with_reducible apply Steady.ite
    | ((try lift_lets); intro x; refine (?_ : Steady s₀ x → _) ?_; focus (intro hx; clear_value x))
    | ((try lift_lets); intro x; try clear_value x)
    | split
    | with_reducible refine Steady.upd ?_ rfl rfl rfl rfl

theorem execBarAccessAbort_steady (x0) (x1) (x2) (x3) (x4) (h : Steady s₀ s) (e : execBarAccessAbort x0 x1 x2 x3 x4 s = .next t) :
    Steady s₀ t := by
  unfold execBarAccessAbort at e
  refine Steady.next ?_ e
  clear e
  repeat' first
    | with_reducible assumption
    | with_reducible apply answer_steady
    | with_reducible apply log_steady
    | with_reducible apply Steady.ite
    | split

theorem execPairLinkTimeout_steady (h : Steady s₀ s) (e : execPairLinkTimeout s = .next t) : Steady s₀ t := by
  unfold execPairLinkTimeout at e
  refine Steady.next ?_ e
  clear e
  repeat' first
    | with_reducible assumption
    | with_reducible apply pairLinkDown_steady
    | with_reducible apply Steady.ite
    | split

theorem execLeavingNotice_steady (h : Steady s₀ s) (e : execLeavingNotice s = .next t) : Steady s₀ t := by
  unfold execLeavingNotice at e
  refine Steady.next ?_ e
  clear e
  repeat' first
    | with_reducible assumption
    | with_reducible apply partnerLost_steady

theorem execLinkTrained_steady (x0) (x1) (x2) (h : Steady s₀ s) (e : execLinkTrained x0 x1 x2 s = .next t) : Steady s₀ t := by
  unfold execLinkTrained at e
  refine Steady.next ?_ e
  clear e
  repeat' first
    | with_reducible assumption
    | with_reducible apply pairTrained_steady
    | with_reducible apply wr_steady
    | with_reducible apply Steady.ite
    | split
    | with_reducible refine Steady.upd ?_ rfl rfl rfl rfl

theorem execLaneRetrain_steady (x0) (x1) (h : Steady s₀ s) (e : execLaneRetrain x0 x1 s = .next t) : Steady s₀ t := by
  unfold execLaneRetrain at e
  refine Steady.next ?_ e
  clear e
  repeat' first
    | with_reducible assumption
    | with_reducible apply incHold_steady
    | with_reducible apply wr_steady
    | with_reducible apply pairLinkDown_steady
    | with_reducible apply Steady.ite
    | split
    | with_reducible refine Steady.upd ?_ rfl rfl rfl rfl

theorem execFlitRetry_steady (x0) (x1) (h : Steady s₀ s) (e : execFlitRetry x0 x1 s = .next t) : Steady s₀ t := by
  unfold execFlitRetry at e
  refine Steady.next ?_ e
  clear e
  repeat' first
    | with_reducible assumption
    | with_reducible apply send_steady
    | with_reducible apply incHold_steady
    | with_reducible apply Steady.ite
    | ((try lift_lets); intro x; refine (?_ : Steady s₀ x → _) ?_; focus (intro hx; clear_value x))
    | ((try lift_lets); intro x; try clear_value x)
    | split

theorem execPairLeave_steady (x0) (h : Steady s₀ s) (e : execPairLeave x0 s = .next t) : Steady s₀ t := by
  unfold execPairLeave at e
  refine Steady.next ?_ e
  clear e
  repeat' first
    | with_reducible assumption
    | with_reducible apply pairCtlWrite_steady

theorem execPairRejoin_steady (x0) (x1) (h : Steady s₀ s) (e : execPairRejoin x0 x1 s = .next t) : Steady s₀ t := by
  unfold execPairRejoin at e
  refine Steady.next ?_ e
  clear e
  repeat' first
    | with_reducible assumption
    | with_reducible apply pairCtlWrite_steady

theorem execRejoinCopyComplete_steady (x0) (h : Steady s₀ s) (e : execRejoinCopyComplete x0 s = .next t) : Steady s₀ t := by
  unfold execRejoinCopyComplete at e
  refine Steady.next ?_ e
  clear e
  repeat' first
    | with_reducible assumption
    | with_reducible apply finalise_steady
    | with_reducible apply wr_steady
    | refine fun x (hx : Steady s₀ x) a => ?_
    | refine fun x (hx : Steady s₀ x) => ?_
    | with_reducible apply Steady.ite
    | with_reducible apply Steady.foldl
    | ((try lift_lets); intro x; refine (?_ : Steady s₀ x → _) ?_; focus (intro hx; clear_value x))
    | ((try lift_lets); intro x; try clear_value x)
    | split
    | with_reducible refine Steady.upd ?_ rfl rfl rfl rfl

theorem execStepPlan_steady (x0) (h : Steady s₀ s) (e : execStepPlan x0 s = .next t) : Steady s₀ t := by
  unfold execStepPlan at e
  refine Steady.next ?_ e
  clear e
  repeat' first
    | with_reducible assumption
    | with_reducible apply stageRecipe_steady
    | with_reducible apply checkNamed_steady
    | refine fun x (hx : Steady s₀ x) a => ?_
    | refine fun x (hx : Steady s₀ x) => ?_
    | with_reducible apply Steady.ite
    | with_reducible apply Steady.foldl
    | ((try lift_lets); intro x; refine (?_ : Steady s₀ x → _) ?_; focus (intro hx; clear_value x))
    | ((try lift_lets); intro x; try clear_value x)
    | split
    | with_reducible refine Steady.upd ?_ rfl rfl rfl rfl

theorem execCommitHash_steady (x0) (x1) (x2) (h : Steady s₀ s) (e : execCommitHash x0 x1 x2 s = .next t) : Steady s₀ t := by
  unfold execCommitHash at e
  refine Steady.next ?_ e
  clear e
  repeat' first
    | with_reducible assumption
    | with_reducible apply takePartnerReport_steady
    | with_reducible apply judgeHash_steady
    | refine fun x (hx : Steady s₀ x) a => ?_
    | refine fun x (hx : Steady s₀ x) => ?_
    | with_reducible apply Steady.ite
    | ((try lift_lets); intro x; refine (?_ : Steady s₀ x → _) ?_; focus (intro hx; clear_value x))
    | ((try lift_lets); intro x; try clear_value x)
    | split
    | with_reducible refine Steady.upd ?_ rfl rfl rfl rfl

theorem execRecordList_steady (x0) (x1) (x2) (h : Steady s₀ s) (e : execRecordList x0 x1 x2 s = .next t) : Steady s₀ t := by
  unfold execRecordList at e
  refine Steady.next ?_ e
  clear e
  repeat' first
    | with_reducible assumption
    | with_reducible apply startStage_steady
    | with_reducible apply openStep_steady
    | with_reducible apply queueVoids_steady
    | with_reducible apply Steady.ite
    | ((try lift_lets); intro x; refine (?_ : Steady s₀ x → _) ?_; focus (intro hx; clear_value x))
    | ((try lift_lets); intro x; try clear_value x)
    | split
    | with_reducible refine Steady.upd ?_ rfl rfl rfl rfl

theorem execProvisionalResult_steady (x0) (h : Steady s₀ s) (e : execProvisionalResult x0 s = .next t) : Steady s₀ t := by
  unfold execProvisionalResult at e
  refine Steady.next ?_ e
  clear e
  repeat' first
    | with_reducible assumption
    | with_reducible apply staleSteps_steady
    | with_reducible apply protocolFault_steady
    | with_reducible apply dropMirror_steady
    | refine fun x (hx : Steady s₀ x) a => ?_
    | refine fun x (hx : Steady s₀ x) => ?_
    | with_reducible apply Steady.ite
    | ((try lift_lets); intro x; refine (?_ : Steady s₀ x → _) ?_; focus (intro hx; clear_value x))
    | ((try lift_lets); intro x; try clear_value x)
    | split
    | with_reducible refine Steady.upd ?_ rfl rfl rfl rfl
    | (simp only [id_eq]; with_reducible assumption)

theorem execCommitNotice_steady (x0) (h : Steady s₀ s) (e : execCommitNotice x0 s = .next t) : Steady s₀ t := by
  unfold execCommitNotice at e
  refine Steady.next ?_ e
  clear e
  repeat' first
    | with_reducible assumption
    | with_reducible apply staleSteps_steady
    | with_reducible apply finalise_steady
    | refine fun x (hx : Steady s₀ x) a => ?_
    | refine fun x (hx : Steady s₀ x) => ?_
    | with_reducible apply Steady.ite
    | with_reducible apply Steady.foldl
    | ((try lift_lets); intro x; refine (?_ : Steady s₀ x → _) ?_; focus (intro hx; clear_value x))
    | ((try lift_lets); intro x; try clear_value x)
    | split
    | with_reducible refine Steady.upd ?_ rfl rfl rfl rfl

theorem execRetractionToken_steady (x0) (h : Steady s₀ s) (e : execRetractionToken x0 s = .next t) : Steady s₀ t := by
  unfold execRetractionToken at e
  refine Steady.next ?_ e
  clear e
  repeat' first
    | with_reducible assumption
    | with_reducible apply discardFrom_steady
    | with_reducible apply staleSteps_steady
    | with_reducible apply Steady.ite
    | split

theorem execGetInfo_steady (x0) (x1) (h : Steady s₀ s) (e : execGetInfo x0 x1 s = .next t) : Steady s₀ t := by
  unfold execGetInfo at e
  refine Steady.next ?_ e
  clear e
  repeat' first
    | with_reducible assumption
    | with_reducible apply mbxCommand_steady
    | with_reducible apply getInfo_steady
    | refine fun x (hx : Steady s₀ x) a => ?_
    | refine fun x (hx : Steady s₀ x) => ?_

theorem execRecipeSet_steady (x0) (x1) (h : Steady s₀ s) (e : execRecipeSet x0 x1 s = .next t) : Steady s₀ t := by
  unfold execRecipeSet at e
  refine Steady.next ?_ e
  clear e
  repeat' first
    | with_reducible assumption
    | with_reducible apply mbxCommand_steady
    | with_reducible apply recipeSet_steady
    | refine fun x (hx : Steady s₀ x) a => ?_
    | refine fun x (hx : Steady s₀ x) => ?_

theorem execNvmUpdateBegin_steady (x0) (x1) (h : Steady s₀ s) (e : execNvmUpdateBegin x0 x1 s = .next t) : Steady s₀ t := by
  unfold execNvmUpdateBegin at e
  refine Steady.next ?_ e
  clear e
  repeat' first
    | with_reducible assumption
    | with_reducible apply mbxCommand_steady
    | with_reducible apply nvmBegin_steady
    | refine fun x (hx : Steady s₀ x) a => ?_
    | refine fun x (hx : Steady s₀ x) => ?_

theorem execNvmUpdateData_steady (x0) (x1) (x2) (h : Steady s₀ s) (e : execNvmUpdateData x0 x1 x2 s = .next t) : Steady s₀ t := by
  unfold execNvmUpdateData at e
  refine Steady.next ?_ e
  clear e
  repeat' first
    | with_reducible assumption
    | with_reducible apply mbxCommand_steady
    | with_reducible apply nvmData_steady
    | refine fun x (hx : Steady s₀ x) a => ?_
    | refine fun x (hx : Steady s₀ x) => ?_

theorem execNvmUpdateEnd_steady (x0) (x1) (x2) (x3) (h : Steady s₀ s) (e : execNvmUpdateEnd x0 x1 x2 x3 s = .next t) :
    Steady s₀ t := by
  unfold execNvmUpdateEnd at e
  refine Steady.next ?_ e
  clear e
  repeat' first
    | with_reducible assumption
    | with_reducible apply mbxCommand_steady
    | with_reducible apply nvmEnd_steady
    | refine fun x (hx : Steady s₀ x) a => ?_
    | refine fun x (hx : Steady s₀ x) => ?_

theorem execRecovImageBegin_steady (x0) (x1) (h : Steady s₀ s) (e : execRecovImageBegin x0 x1 s = .next t) : Steady s₀ t := by
  unfold execRecovImageBegin at e
  refine Steady.next ?_ e
  clear e
  repeat' first
    | with_reducible assumption
    | with_reducible apply mbxCommand_steady
    | with_reducible apply recovBegin_steady
    | refine fun x (hx : Steady s₀ x) a => ?_
    | refine fun x (hx : Steady s₀ x) => ?_

theorem execRecovImageData_steady (x0) (x1) (h : Steady s₀ s) (e : execRecovImageData x0 x1 s = .next t) : Steady s₀ t := by
  unfold execRecovImageData at e
  refine Steady.next ?_ e
  clear e
  repeat' first
    | with_reducible assumption
    | with_reducible apply mbxCommand_steady
    | with_reducible apply recovData_steady
    | refine fun x (hx : Steady s₀ x) a => ?_
    | refine fun x (hx : Steady s₀ x) => ?_

theorem execRecovImageRun_steady (x0) (x1) (h : Steady s₀ s) (e : execRecovImageRun x0 x1 s = .next t) : Steady s₀ t := by
  unfold execRecovImageRun at e
  refine Steady.next ?_ e
  clear e
  repeat' first
    | with_reducible assumption
    | with_reducible apply mbxCommand_steady
    | with_reducible apply recovRun_steady
    | refine fun x (hx : Steady s₀ x) a => ?_
    | refine fun x (hx : Steady s₀ x) => ?_

/-- A register write is steady, but for one of SEC_LCS_REQ, which requests a life-cycle transition. -/
theorem execRegisterWrite_steady (x0 x1 x2) (h : Steady s₀ s) (e : execRegisterWrite x0 x1 x2 s = .next t) :
    Steady s₀ t ∨ t = lcsReqWrite x1 s := by
  unfold execRegisterWrite viaBar at e
  cases e
  dsimp only
  split
  · exact .inl (answer_steady _ h)
  split
  · exact .inl (poisonedWrite_steady h)
  split
  · exact .inl h
  split
  · exact .inl (logIgnored_steady _ _ _ h)
  by_cases ho : x0.toNat = SEC_LCS_REQ
  · rw [ho]
    exact .inr rfl
  · exact .inl (regWrite_steady _ _ ho h)

theorem execSmbusBlockRead_steady (x0) (h : Steady s₀ s) (e : execSmbusBlockRead x0 s = .next t) : Steady s₀ t := by
  unfold execSmbusBlockRead at e
  refine Steady.next ?_ e
  clear e
  repeat' first
    | with_reducible assumption
    | with_reducible apply answer_steady
    | with_reducible apply Steady.ite
    | split
    | with_reducible refine Steady.upd ?_ rfl rfl rfl rfl

end Sys2Proof.Machine
end

