-- ==== Sys2Proof/WellFormed.lean ====
section
/-! DEFINITION. Well-formed commands: the bounds of operands that their types do not give, and for a row that is a write of one
field, that the write carries that field. -/

namespace Sys2Proof

/-- The data a write carries, with zeros where it does not cover the register (R407). -/
def Write.carries (w : Write) : Word :=
  match w.half with
  | .full => w.data
  | .lower => w.data &&& 0xFFFFFFFF#64
  | .upper => w.data &&& 0xFFFFFFFF00000000#64

/-- The write carries a 1 in bit `n`. -/
def Write.has (w : Write) (n : Nat) : Bool := w.carries.getLsbD n

/-- The write carries `v` in the `n` bits from bit `lo` on. -/
def Write.gives (w : Write) (lo n v : Nat) : Bool := decide (w.carries.toNat / 2 ^ lo % 2 ^ n = v)

/-- An MVM command takes 32 elements (R31). -/
def MvmCmd.wf (c : MvmCmd) : Bool := c.elems.length == 32

/-- Inputs of a lane by index, each named once (R88). -/
def LaneInput.wf (l : LaneInput) : Bool := decide (l.outliers.map Prod.fst).Nodup && decide (l.elems.map Prod.fst).Nodup

/-- A group of 32 values in one of the formats quantised: FP16, BF16, FP32 or ACC48 (R52, R61), for a slot or the Tin Soldier model. -/
def GroupInput.wf (g : GroupInput) : Bool := g.values.length == 32 && [8, 9, 10, 13].contains g.format.val

/-- What a step boundary brings (R123, R251, R275): groups of 32 values, logits of table slots. -/
def StepInput.wf (i : StepInput) : Bool :=
  (i.groups.all GroupInput.wf) && (i.kv.all fun g => g.values.length == 32)
    && i.logits.all fun l => decide (l.table < 5) && decide (l.slot < 4096)

/-- A scratch access stays within one 64-byte line (R407). -/
def lineOk (addr : Nat) (data : List (Option Byte)) : Bool := !data.isEmpty && decide (addr % 64 + data.length ≤ 64)

/-- Lines of 64 bytes in an area (R19, R376, R388, R400): 8 GiB of HDM range, 209,715 images of 20,480 bytes, the four scratch
windows of BAR2, any host address. -/
def MemArea.lines : MemArea → Nat
  | .hdm => 134217728
  | .saves => 209715 * 320
  | .scratch => 8388608
  | .hostMemory => 2 ^ 58

/-- An access names a line of its area; a write covers it (R410). -/
def MemAccess.wf (a : MemAccess) : Bool :=
  decide (a.line < a.area.lines) && if a.write then a.data.length == 64 else a.data.isEmpty

/-- Table and slot of a plan's entries exist (R342). -/
def Plan.wf (p : Plan) : Bool :=
  (p.named.all fun a => decide (a.1 < 5) && decide (a.2.1 < 4096)) && (p.depths.all fun a => decide (a.1 < 5) && decide (a.2.1 < 4096))
    && p.chunks.all fun a => decide (a.1 < 5) && decide (a.2.1 < 4096)

/-- Layers a report names fit their field (R133, R142). -/
def PartnerReport.wf (r : PartnerReport) : Bool := r.flags.all fun f => decide (f.2.2 < 65536)

/-- Sequence and context of a partner's result fit their fields, its rows hold groups of 32 elements (R251, R346). -/
def Provisional.wf (p : Provisional) : Bool :=
  decide (p.seq < 65536) && decide (p.ctx < 4096) && p.rows.all fun r => r.elems.length == 32

/-- An aligned BAR0 access of 8 or 4 bytes, or any access within a BAR2 line, is not aborted (R407). -/
def abortable (bar2 : Bool) (offset size : Nat) : Bool :=
  if bar2 then decide (64 < offset % 64 + size) else !((size == 8 || size == 4) && offset % size == 0)

/-- A command's operands are in range. -/
def Instr.wf : Instr → Bool
  | .stepBoundary inp => inp.wf
  | .commit => true
  | .mvmCommand c => c.wf
  | .calibrationSlot _ _ => true
  | .blockMessage _ _ _ => true
  | .debugArm _ w => w.has 0
  | .debugCancel _ w => !w.has 0
  | .debugDataRead _ _ _ => true
  | .tileClear _ _ _ _ _ _ _ _ => true
  | .tileRestore _ _ _ _ => true
  | .tileSave _ _ _ _ => true
  | .tileRelease _ _ _ => true
  | .tileReadOut _ _ _ _ _ _ _ => true
  | .tileAdd _ _ _ _ _ => true
  | .reduceOperation _ _ _ _ _ => true
  | .elementWrite _ _ _ elems => elems.all fun e => decide (-2 ^ 47 ≤ e.2) && decide (e.2 < 2 ^ 47)
  | .costumeAddition _ _ _ version _ _ _ _ _ _ => decide (version < 4096)
  | .accumulateDrained _ _ lane => lane.all LaneInput.wf
  | .sequencedModeEnd _ _ _ => true
  | .recipeWindowEval _ => true
  | .recipeFlagPop _ w => w.has 29
  | .recipeRevert _ layer => decide (layer < 65536)
  | .zeroCntRead _ _ _ => true
  | .stageReturn => true
  | .conversionResult _ _ => true
  | .selfCalibration w => w.gives 0 4 1
  | .selfCalComplete _ _ _ => true
  | .scanRestart w => w.gives 0 4 2
  | .refbufEnable w => w.half != .upper
  | .refbufSettled => true
  | .fifoFlush w => w.has 2
  | .fifoRead _ _ => true
  | .referenceCheck => true
  | .recalPassStart _ _ => true
  | .recalPassComplete _ _ => true
  | .passRequest w => w.has 22
  | .deepPassComplete _ => true
  | .driftAgeLimit _ _ _ => true
  | .rewriteComplete _ _ => true
  | .sweepComplete _ _ ms => decide (ms < 65536)
  | .warmupEnd _ _ => true
  | .abacusVectorSet _ _ => true
  | .shadowComparison _ _ => true
  | .suspectWindowEnd _ _ => true
  | .engineTestEnd _ _ => true
  | .rattleTestStart => true
  | .rattleTestEnd _ => true
  | .rattleRequest _ w => w.has 0
  | .regionResetRequest _ w => w.has 1
  | .sramEccError _ _ => true
  | .regionResetComplete _ => true
  | .spareQualified spare _ _ => decide (48 ≤ spare.val) && decide (spare.val < 50)
  | .configScrub _ _ => true
  | .provisionalResult p => p.wf
  | .commitNotice _ => true
  | .retractionToken _ => true
  | .load _ _ _ _ _ _ => true
  | .retire _ _ _ => true
  | .unload _ _ => true
  | .abort _ _ => true
  | .reload _ _ => true
  | .manifestFetched header _ _ => header.length == 64
  | .chunkFetched _ _ => true
  | .blockProgramStart _ _ => true
  | .rowProgrammed _ _ _ _ _ => true
  | .blockProgramComplete _ _ => true
  | .wldActiveWrite w => w.half != .upper
  | .drainDeadline _ => true
  | .parcelManifestFrame frame _ => decide (64 ≤ frame.length)
  | .parcelChunkFrame frame => decide (64 ≤ frame.length)
  | .parcelReRequest frame => decide (64 ≤ frame.length)
  | .parcelCompletion frame lastHop => decide (64 ≤ frame.length) && decide (lastHop < 65536)
  | .costumeInstall w => w.gives 0 2 1
  | .costumeInstallComplete => true
  | .costumeRemove w => w.gives 0 2 2
  | .scan => true
  | .opRun _ _ => true
  | .opPause _ _ => true
  | .opRelease _ _ => true
  | .toyboxCopyComplete _ => true
  | .toyboxFetchComplete _ => true
  | .ttlExpiry _ => true
  | .specPauseEnd _ _ => true
  | .linkTrained port lanes _ => if port = .pair then lanes == 16 || lanes == 8 else lanes == 8 || lanes == 4
  | .laneRetrain _ _ => true
  | .flitRetry _ _ => true
  | .pairLinkTimeout => true
  | .stepPlan plan => plan.wf
  | .commitHash _ _ report => report.wf
  | .recordList _ _ _ => true
  | .leavingNotice => true
  | .pairLeave w => w.has 22
  | .pairRejoin w _ => w.has 23
  | .rejoinCopyComplete received => received.all Provisional.wf
  | .enterTinSoldier _ _ => true
  | .leaveTinSoldier _ _ => true
  | .tempCauseClear => true
  | .tinMasterCopyComplete => true
  | .halt _ _ => true
  | .warmResetCommand _ _ => true
  | .hbmTraining _ _ => true
  | .hbmCorrected _ _ _ _ _ => true
  | .hbmUncorrectable _ => true
  | .patrolScrub _ _ _ _ _ _ => true
  | .refreshFall _ => true
  | .scratchWrite _ addr data _ => lineOk addr.val data
  | .bitSetAliasWrite _ addr data => lineOk addr.val data
  | .bitClearAliasWrite _ addr data => lineOk addr.val data
  | .scratchEccError _ _ _ => true
  | .scratchScrub _ _ _ => true
  | .wipeComplete _ => true
  | .cxlLinkTrained _ _ => true
  | .linkDown => true
  | .hotReset => true
  | .perstNAssert => true
  | .busMasterEnableChange _ => true
  | .loadPauseTimeout => true
  | .cxlMemAccess a => a.wf
  | .hdmDecoderCommit _ _ _ _ _ _ => true
  | .barAccessAbort bar2 offset size _ _ => abortable bar2 offset.toNat size
  | .getInfo _ inLen => decide (inLen < 8192)
  | .recipeSet _ inLen => decide (inLen < 8192)
  | .nvmUpdateBegin _ inLen => decide (inLen < 8192)
  | .nvmUpdateData _ inLen _ => decide (inLen < 8192)
  | .nvmUpdateEnd _ inLen _ _ => decide (inLen < 8192)
  | .recovImageBegin _ inLen => decide (inLen < 8192)
  | .recovImageData _ inLen => decide (inLen < 8192)
  | .recovImageRun _ inLen => decide (inLen < 8192)
  | .recovFetch w _ => w.has 3
  | .icuClaim _ _ => true
  | .icuComplete _ _ _ _ => true
  | .icuPendSet _ _ _ _ => true
  | .icuClearPending _ _ _ _ => true
  | .icuSrcCfgWrite _ _ => true
  | .sourceInputChange _ => true
  | .eventReport r => match r with
    | some r => decide (r.detail.length ≤ 12)
    | none => true
  | .eventDrain _ => true
  | .ringStart w => w.has 0
  | .evtTailWrite _ => true
  | .pllLockLoss => true
  | .pllRelock _ => true
  | .relockTimeout => true
  | .throttleStepUp => true
  | .throttleStepDown => true
  | .sensorStale _ => true
  | .sensorSuspect _ => true
  | .sensorCleared _ => true
  | .thermalTrip _ => true
  | .ps4WakeComparator _ => true
  | .scheduledWake => true
  | .wakeEvent _ => true
  | .dueTime _ => true
  | .dueWindowClose => true
  | .supplyOutOfRange _ => true
  | .supplyInRange => true
  | .por => true
  | .warmReset => true
  | .calEnd => true
  | .lcsRequest w => w.has 3
  | .lcsCommit _ => true
  | .tamper _ => true
  | .meshCheck _ => true
  | .attestationRequest w => w.has 0
  | .attestReportWritten signature => signature.length == 512
  | .smbusBlockRead _ => true
  | .registerWrite offset _ _ => offset.toNat % 8 == 0
  | .porNAssert => true
  | .warmResetRelease => true
  | .watchdogExpiry _ => true
  | .chunkReverified _ _ => true
  | .stackTemperatureCrossing _ celsius => decide (-128 ≤ celsius) && decide (celsius < 128)

end Sys2Proof
end

