-- ==== Sys2Proof/Tests/Slice0.lean ====
section
/-! SUPPORT. Tests: ill-formed terms for each check of WellFormed.lean, the spec's worked examples, and for every statement of
Certificates/Slice0/Obligations.lean states and operands that meet its hypotheses, clause by clause. -/

namespace Sys2Proof.Tests

set_option Elab.async false
set_option maxRecDepth 20000

open Sys2Proof Sys2Proof.Machine

/-! ## Helpers -/

/-- Fields of registers set. -/
def put (l : List (Fld × Nat)) (s : State) : State := l.foldl (fun a p => wr p.1 p.2 a) s

/-- The state a command leads to. -/
def after (c : Instr) (s : State) : State :=
  match exec c s with
  | .next t => t
  | _ => s

/-- A full write by the host. -/
def hostW (d : Nat) : Write := ⟨.host, .full, BitVec.ofNat 64 d⟩

/-- A step without requests. -/
def aStep : Step := ⟨7, [], [], [], [], 0, 0, 0, false, 0, false, none, 0, [], [], []⟩

/-- A step runs. -/
def withStep (s : State) : State := { s with srv := { s.srv with running := some aStep, highest := 7 } }

/-- POR_N is high, the link up, Bus Master Enable set. -/
def linked (s : State) : State :=
  { s with pins := { s.pins with porN := true }, cxl := { s.cxl with up := true, everUp := true, bme := true, memActive := true } }

/-- A part in service, awake, its PLL locked, its HBM trained. -/
def idlePart : State :=
  linked (put ([(GLB_STATE.state, 2), (CLK_ROOT_STAT.lock, 1)] ++ (List.range 12).map fun k => (MEM_HBM_STAT.state k, 2)) State.reset)

/-- The same with a step running. -/
def service : State := withStep idlePart

/-- A partner that fits. -/
def aPartner : Partner := ⟨true, true, true, 0, false, [], 0, 9, 0, 3, 0⟩

/-- An MVM command with one input of 37. -/
def aMvm : MvmCmd := ⟨3, 4, 5, 1, 37 :: List.replicate 31 0, 0x7F, 0, 6, 7, 0, 0, 0, 0⟩

/-- A Parcel frame without content. -/
def aFrame : List Byte := List.replicate 64 0

/-! ## Well-formed and ill-formed commands -/

/-- A scale group of zeros in FP32. -/
def aGroup : GroupInput := ⟨0, 0, 0, 0, 10, 0, List.replicate 32 0, 0⟩

/-- A step boundary that brings nothing but a duration. -/
def aBoundary (us : Nat) : StepInput := ⟨[], [], [], us, 0, 0, 0⟩

/-- What a partner reports when nothing differs. -/
def noReport : PartnerReport := ⟨[], [], 0⟩

/-- One ill-formed command for each check. -/
def illFormed : List Instr :=
  [ .stepBoundary { aBoundary 0 with groups := [{ aGroup with values := [0] }] }, .stepBoundary { aBoundary 0 with groups := [{ aGroup with format := 4 }] },
    .stepBoundary { aBoundary 0 with kv := [⟨1, 0, 0, [0]⟩] }, .stepBoundary { aBoundary 0 with logits := [⟨5, 0, [], []⟩] },
    .stepBoundary { aBoundary 0 with logits := [⟨0, 4096, [], []⟩] }, .mvmCommand { aMvm with elems := [1] }, .debugArm 0 (hostW 0), .debugCancel 0 (hostW 1),
    .elementWrite 0 0 0 [(0, 2 ^ 47)], .elementWrite 0 0 0 [(0, -2 ^ 47 - 1)], .costumeAddition 0 0 0 4096 0 0 0 0 0 [],
    .accumulateDrained 0 0 [⟨0, 0, 0, 0, [(1, 0), (1, 0)], []⟩], .accumulateDrained 0 0 [⟨0, 0, 0, 0, [], [(1, 0, 0), (1, 0, 0)]⟩],
    .recipeFlagPop 0 (hostW 0), .recipeRevert 0 65536, .selfCalibration (hostW 2), .scanRestart (hostW 1), .refbufEnable ⟨.host, .upper, 1⟩,
    .fifoFlush (hostW 0), .passRequest (hostW 0), .sweepComplete 0 0 65536, .rattleRequest 0 (hostW 2), .regionResetRequest 0 (hostW 1),
    .spareQualified 47 true [], .spareQualified 50 true [], .provisionalResult ⟨1, 65536, 0, 1, [], []⟩, .provisionalResult ⟨1, 0, 4096, 1, [], []⟩,
    .provisionalResult ⟨1, 0, 0, 1, [], [⟨0, 0, [], 0⟩]⟩, .manifestFetched [] [] 0, .wldActiveWrite ⟨.host, .upper, 0⟩,
    .parcelManifestFrame aFrame.tail 0, .parcelChunkFrame aFrame.tail, .parcelReRequest aFrame.tail, .parcelCompletion aFrame.tail 0,
    .parcelCompletion aFrame 65536 ]

/-- The rest of them. -/
def illFormedToo : List Instr :=
  [ .costumeInstall (hostW 2), .costumeRemove (hostW 1), .linkTrained .pair 4 aPartner, .linkTrained .parcelIn 16 aPartner,
    .stepPlan ⟨1, [(5, 0, 0)], [], [], [], 0⟩, .stepPlan ⟨1, [], [(0, 4096, 0)], [], [], 0⟩, .commitHash 1 0 ⟨[(0, 0, 65536)], [], 0⟩,
    .pairLeave (hostW 0), .pairRejoin (hostW 0) none, .rejoinCopyComplete [⟨1, 65536, 0, 1, [], []⟩],
    .scratchWrite .host 63 [some 1, some 2] false, .scratchWrite .host 0 [] false, .bitSetAliasWrite .host 0 [], .bitClearAliasWrite .host 0 [],
    .cxlMemAccess ⟨.host, .hdm, 0, true, [], false⟩, .cxlMemAccess ⟨.host, .saves, 0, false, [some 0], false⟩,
    .cxlMemAccess ⟨.host, .hdm, 134217728, false, [], false⟩, .cxlMemAccess ⟨.core 0, .scratch, 8388608, false, [], false⟩,
    .barAccessAbort false 8 8 true .host, .barAccessAbort true 0 64 true .host, .getInfo .host 8192, .recipeSet .host 8192,
    .nvmUpdateBegin .host 8192, .nvmUpdateData .host 8192 false, .nvmUpdateEnd .host 8192 false 0, .recovImageBegin .host 8192,
    .recovImageData .host 8192, .recovImageRun .host 8192, .recovFetch (hostW 0) none, .eventReport (some ⟨0, 1, 1, 0, List.replicate 13 0⟩),
    .ringStart (hostW 0), .lcsRequest (hostW 0), .attestationRequest (hostW 0), .attestReportWritten [],
    .registerWrite 4 (hostW 0) false, .stackTemperatureCrossing 0 128, .stackTemperatureCrossing 0 (-129) ]

theorem test_ill_formed_refused : (illFormed ++ illFormedToo).all (fun c => !c.wf) = true := by decide +kernel

/-- The same commands with their operands at the last value that passes. -/
def wellFormed : List Instr :=
  [ .stepBoundary { aBoundary 0 with groups := [aGroup], logits := [⟨4, 4095, [], []⟩] }, .mvmCommand aMvm, .debugArm 0 (hostW 1), .debugCancel 0 (hostW 0),
    .elementWrite 0 0 0 [(0, 2 ^ 47 - 1), (1, -2 ^ 47)], .costumeAddition 0 0 0 4095 0 0 0 0 0 [], .accumulateDrained 0 0 [⟨0, 0, 0, 0, [(1, 0)], [(1, 0, 0)]⟩],
    .recipeFlagPop 0 (hostW (2 ^ 29)), .recipeRevert 0 65535, .selfCalibration (hostW 1), .scanRestart (hostW 2), .passRequest (hostW (2 ^ 22)),
    .sweepComplete 0 0 65535, .spareQualified 48 true [], .spareQualified 49 true [], .provisionalResult ⟨1, 65535, 4095, 1, [], []⟩,
    .manifestFetched (List.replicate 64 0) [] 0, .parcelManifestFrame aFrame 0, .parcelCompletion aFrame 65535, .costumeInstall (hostW 1),
    .costumeRemove (hostW 2), .linkTrained .pair 8 aPartner, .linkTrained .parcelIn 4 aPartner, .commitHash 1 0 noReport, .pairLeave (hostW (2 ^ 22)),
    .pairRejoin (hostW (2 ^ 23)) none, .scratchWrite .host 62 [some 1, some 2] false, .cxlMemAccess ⟨.host, .hdm, 134217727, false, [], false⟩,
    .cxlMemAccess ⟨.core 0, .scratch, 8388607, true, List.replicate 64 none, false⟩, .barAccessAbort false 4 8 true .host,
    .barAccessAbort true 1 64 true .host, .getInfo .host 8191, .eventReport (some ⟨0, 1, 1, 0, List.replicate 12 0⟩), .lcsRequest (hostW 8),
    .attestReportWritten (List.replicate 512 0), .registerWrite 8 (hostW 0) true, .stackTemperatureCrossing 0 127, .stackTemperatureCrossing 0 (-128) ]

theorem test_well_formed_accepted : wellFormed.all Instr.wf = true := by decide +kernel

/-! ## Worked examples of the spec -/

/-- The rows of column 0 in the example of R37. -/
def exampleRows : List Word :=
  (List.range 32).map fun i => BitVec.ofNat 64 (if i = 0 then 3 else if i = 1 then 0 else if i = 2 then 1 else if i = 10 then 0 else 2)

/-- R33, R36: the sums ΣaL of the example's four phases. -/
theorem test_mvm_phase_sums :
    drivenPhases .a8 (37 :: -90 :: 5 :: List.replicate 29 0) = [0, 1, 2, 3]
      ∧ (List.range 4).map (columnSum .a8 (37 :: -90 :: 5 :: List.replicate 29 0) exampleRows 0) = [4, 4, 6, 120] := by decide +kernel

/-- R37: the data word of the example is 424 half units, its check word 16,192, from the codes the text lists. -/
theorem test_mvm_words :
    dataWord .a8 [0, 1, 2, 3] (fun p c => if c = 0 then [72, 72, 76, 304].getD p 0 else [80, 76, 80, 312].getD p 0) 0 15 (-4) = 424
      ∧ checkWord [0, 1, 2, 3] (fun p _ => [80, 76, 80, 312].getD p 0) 15 = 16192 := by decide +kernel

/-- R33: an A4 MVM whose top phase has no digit is read in phase 0 alone. -/
theorem test_mvm_skips_a_phase :
    drivenPhases .a4 (3 :: 1 :: 2 :: List.replicate 29 0) = [0]
      ∧ columnSum .a4 (3 :: 1 :: 2 :: List.replicate 29 0) exampleRows 0 0 = 11 := by decide +kernel

/-- R61: the group of the example, in BF16, under A4 and A8. -/
theorem test_quantise_example :
    (quantise false none ([0x3F50, 0xBED0, 0x3D80, 0x3E40].map fun x => (fmtBF16.decode x, false))).codes = [6, -3, 0, 2]
      ∧ (quantise false none ([0x3F50, 0xBED0, 0x3D80, 0x3E40].map fun x => (fmtBF16.decode x, false))).exp = -3
      ∧ (quantise true none ([0x3F50, 0xBED0, 0x3D80, 0x3E40].map fun x => (fmtBF16.decode x, false))).codes = [104, -52, 8, 24]
      ∧ (quantise true none ([0x3F50, 0xBED0, 0x3D80, 0x3E40].map fun x => (fmtBF16.decode x, false))).exp = -7 := by
  decide +kernel

/-- R66: the MXFP4 group of the example. -/
theorem test_mxfp4_example :
    mxEncode ([0x40A0, 0xC028, 0x3EA0, 0x3E80].map fmtBF16.decode) = ⟨[6, 0xD, 1, 0], 0x7F⟩ := by decide +kernel

/-- R74: 300.0 and 500.0 in E4M3, E5M2 and FP16. -/
theorem test_conversion_example :
    fmtE4M3.encode (f32 0x43960000) = 0x79 ∧ fmtE5M2.encode (f32 0x43960000) = 0x5D ∧ fmtFP16.encode (f32 0x43960000) = 0x5CB0
      ∧ fmtE4M3.encode (f32 0x43FA0000) = 0x7E ∧ fmtE5M2.encode (f32 0x43FA0000) = 0x60 := by decide +kernel

/-- R73: ACC48 elements rounded once to FP32. -/
theorem test_acc_to_fp32 :
    toF32 (accVal 8 0x10000000001) = 0x4F800000 ∧ toF32 (accVal 0 (2 ^ 24 + 1)) = 0x4B800000 := by decide +kernel

/-- R103, R105: the example's hazard and its sequenced sum. -/
theorem test_sequenced_sum :
    clampedSum 0 [100000000000000, 50000000000000, -60000000000000] = (80737488355327, true) := by decide +kernel

/-- R131: the example's layer trips on its saturated groups. -/
theorem test_recipe_trips :
    trips ⟨41, .a4, true, 1, false, false, 0, 0, 0x0CCD, 0xFFFF, 0⟩ (4096, 0, 410) State.reset = (false, true) := by decide +kernel

/-- R181: the deviation of the example, 41.76 half units averaged over 16 reads, is beyond 0.12 level step. -/
theorem test_drift_example : driftDelta 3 (16 * (4176 / 100)) 16 = -13 / 100 ∧ beyond 31 (driftDelta 3 (16 * (4176 / 100)) 16) = true := by
  decide +kernel

/-- R155, R157: the example's conversion and its FIFO word. -/
theorem test_conversion_result :
    let s := wrs MCV_OFS.ofs 600 (put [(MCV_GAIN.gain, 0x40083127)] State.reset)
    correctResult 6036817 false s = (0x5C28F6, false)
      ∧ resultWord 0x5C28F6 59 257 24 false false false = 0x801801013B5C28F6 := by decide +kernel

/-- The worked example of the three scratch views in 15_memory.md. -/
theorem test_scratch_views :
    let s := put [(MEM_SECURE_BASE.host_start, 0x40)] idlePart
    let s1 := after (.scratchWrite .host 0x7C00018 ((leBytes 8 0x104).map some) false) s
    let s2 := after (.bitSetAliasWrite .host 0x7C00018 ((leBytes 8 0x11).map some)) s1
    let s3 := after (.bitClearAliasWrite .host 0x7C00018 ((leBytes 8 4).map some)) s2
    scrNat 0x7C00018 8 s1 = 0x104 ∧ scrNat 0x7C00018 8 s2 = 0x115 ∧ scrNat 0x7C00018 8 s3 = 0x111 := by decide +kernel


/-- FIPS 180-4's example message "abc": the first 8 bytes of its SHA-512. -/
theorem test_sha512_abc : (sha512Bytes [0x61, 0x62, 0x63]).take 8 = [0xDD, 0xAF, 0x35, 0xA1, 0x93, 0x61, 0x7A, 0xBA] := by
  decide +kernel

/-- R576: IDCODE reads 0x1065_0C97. -/
theorem test_jtag_idcode : jtagIdcode = 0x10650C97 := by decide
/-! ## The block and its queue -/

theorem witness_StepRunsTheFrontCommand :
    ({ service with pending := [.supplyInRange, .commit] } : State).pending = .supplyInRange :: [.commit] := by decide

/-- Log entry 2: one cycle passes. -/
theorem witness_IdleStepPassesOneCycle : State.reset.pending = [] ∧ (after .supplyInRange State.reset).now = 0
    ∧ (match step State.reset with | .next t => t.now | _ => 0) = 1 := by decide +kernel

theorem witness_StepKeepsCanonicalForm : State.reset.Canonical ∧ ∃ t, step State.reset = .next t :=
  ⟨⟨by decide, by decide, by decide, by decide, by decide, by decide⟩, _, rfl⟩

theorem witness_OnlyBoundariesTakeTime :
    (after (.stepBoundary (aBoundary 20)) service).now = 12000 ∧ (after .supplyInRange service).now = 0 := by decide +kernel

/-- A transition in progress to PROVISIONED. -/
def inTransition : State := { service with sec := { service.sec with transition := some 1 } }

theorem witness_LifeCycleMovesOnlyAlongItsTransitions :
    inTransition.LawfulTransition ∧ ∃ t, step { inTransition with pending := [.lcsCommit true] } = .next t := by
  refine ⟨?_, _, rfl⟩
  intro target h
  cases h
  decide

/-! ## The interrupt controller -/

/-- Source 5 enabled for target 0 at priority 3, pending. -/
def pendingSource : State :=
  let s := put [(ICU_SRC_CFG.en 5, 1), (ICU_SRC_CFG.prio 5, 3), (ICU_SRC_CFG.sense 5, 2), (ICU_SRC_CFG.cores 5, 1)] service
  { s with icu := { s.icu with latch := 1#256 <<< 5 } }

theorem witness_ClaimAndComplete_claim : isTarget (.core 0) 0 = true ∧ barClosed (.core 0) pendingSource = false
    ∧ srcEligible 0 5 pendingSource = true
    ∧ (∀ m, m < 256 → srcEligible 0 m pendingSource = true → m = 5)
    ∧ (after (.icuClaim (.core 0) 0) pendingSource).out = .word 0x705 := by decide +kernel

theorem witness_ClaimAndComplete_none : isTarget .host 0 = false ∧ ∀ m, m < 256 → srcEligible 0 m service = false := by decide +kernel

theorem witness_ClaimAndComplete_complete : isTarget (.core 0) 0 = true
    ∧ 5 = fget (ICU_COMPLETE.source (0 : Fin 5).val) (wdata ⟨.core 0, .full, 5⟩)
    ∧ (after (.icuClaim (.core 0) 0) pendingSource).icu.active.getLsbD 5 = true
    ∧ rd (ICU_SRC_CFG.owner 5) (after (.icuClaim (.core 0) 0) pendingSource) = 0
    ∧ (after (.icuComplete (.core 0) 0 .full 5) (after (.icuClaim (.core 0) 0) pendingSource)).icu.active = 0
    ∧ service.icu.active.getLsbD 5 = false := by decide +kernel

/-- Source 64, level high, asks; target 0 owns it. -/
def levelSource : State :=
  let s := put [(ICU_SRC_CFG.en 64, 1), (ICU_SRC_CFG.prio 64, 3), (ICU_SRC_CFG.sense 64, 0), (ICU_SRC_CFG.cores 64, 1), (THM_STAT.trip, 1)] service
  { s with icu := { s.icu with active := 1#256 <<< 64 } }

theorem witness_ClaimAndComplete_level : 64 = fget (ICU_COMPLETE.source (0 : Fin 5).val) (wdata ⟨.core 0, .full, 64⟩)
    ∧ levelSource.icu.active.getLsbD 64 = true ∧ rd (ICU_SRC_CFG.owner 64) levelSource = (0 : Fin 5).val ∧ reservedSource 64 = false
    ∧ softSource 64 = false ∧ rd (ICU_SRC_CFG.sense 64) levelSource = 0 ∧ sourceInput 64 levelSource = true
    ∧ rd (ICU_SRC_CFG.en 64) levelSource = 1 ∧ srcRouted 64 0 levelSource = true
    ∧ rd (ICU_TGT_CFG.thr 0) levelSource < rd (ICU_SRC_CFG.prio 64) levelSource ∧ rd (ICU_TGT_CFG.mask_all 0) levelSource = 0
    ∧ (after (.icuClaim (.core 0) 0) (after (.icuComplete (.core 0) 0 .full 64) levelSource)).out = .word (BitVec.ofNat 64 (64 + 256 + 512 * 3)) := by
  decide +kernel

theorem witness_LatchesAndSourceConfiguration_pend : reaches .host State.reset
    ∧ (∀ k, k < 64 → rd (ICU_SRC_CFG.cores (64 * (1 : Fin 4).val + k)) State.reset = 0)
    ∧ (after (.icuClearPending .host 0 .full 32) { State.reset with icu := { State.reset.icu with latch := 33 } }).icu.latch = 1 := by
  decide +kernel

/-- The first source that is neither reserved nor one of software. -/
theorem witness_LatchesAndSourceConfiguration_input : reservedSource 16 = false ∧ softSource 16 = false
    ∧ (({ service with icu := { service.icu with input := BitVec.allOnes 256 } } : State).icu.input.getLsbD 16)
      ≠ sourceInput 16 { service with icu := { service.icu with input := BitVec.allOnes 256 } } := by decide +kernel

theorem witness_LatchesAndSourceConfiguration_config : State.reset.cxl.d3hot = false ∧ reservedSource 72 = false ∧ hostOwnsBasics 72 = true
    ∧ fget (ICU_SRC_CFG.cores 72) 0 = rd (ICU_SRC_CFG.cores 72) State.reset := by decide +kernel

/-! ## The event log -/

/-- A warning of class 3. -/
def aReport : Report := ⟨3, 2, 0x30, 0, [1]⟩

/-- One staged entry of the same code. -/
def staged : State :=
  { service with evt := { service.evt with staged := [⟨8, 3, 2, true, 0x30, 0, 0, 1, [1]⟩], seqs := [(3, 9)] } }

theorem witness_ReportsReachTheHostOrAreLost_merge :
    aReport.severity.val ≠ 0 ∧ staged.cxl.up = true ∧ staged.cxl.bme = true ∧ rd PWR_STATE.state staged < 3
      ∧ newestOf 3 staged.evt.staged = some ⟨8, 3, 2, true, 0x30, 0, 0, 1, [1]⟩ ∧ nextSeq 3 staged = 9
      ∧ ((after (.eventReport (some aReport)) staged).evt.staged.map (·.count)) = [2]
      ∧ nextSeq 3 (after (.eventReport (some aReport)) staged) = 10 := by decide +kernel

theorem witness_ReportsReachTheHostOrAreLost_stage :
    newestOf 3 service.evt.staged = none ∧ (lostRun 3 service).run = 0 ∧ service.evt.staged.length < 64512
      ∧ ({ service with reports := [⟨aReport, 0⟩] } : State).reports.head? = some ⟨aReport, 0⟩
      ∧ (after (.eventReport none) { service with reports := [⟨aReport, 0⟩] }).evt.staged.length = 1 := by decide +kernel

theorem witness_ReportsReachTheHostOrAreLost_lost :
    (State.reset.cxl.up && State.reset.cxl.bme) = false ∧ (rd EVT_TRACE_CFG.classes State.reset).testBit 3 = false
      ∧ (rd EVT_TRACE_CFG.classes (put [(EVT_TRACE_CFG.classes, 8)] State.reset)).testBit 3 = true
      ∧ rd EVT_CFG.lost (after (.eventReport (some aReport)) State.reset) = 1
      ∧ (lostRun 3 (after (.eventReport (some aReport)) State.reset)).run = 1
      ∧ rd EVT_TRACE_DROP.dropped (after (.eventReport (some { aReport with severity := 0 }))
          (put [(EVT_TRACE_CFG.classes, 8)] State.reset)) = 1 := by decide +kernel

/-- A ring of 1,024 entries at 1 MiB of host memory. -/
def ringPart : State := put [(EVT_CFG.en, 1), (EVT_BASE.addr, 256), (EVT_SIZE.log2_entries, 10), (EVT_HEAD.head, 3), (EVT_TAIL.tail, 1)] staged

theorem witness_TheRingIsWrittenAtItsHead_drain : ringPart.evt.staged.length = 1 ∧ ringPart.evt.startDue = false
    ∧ rd EVT_CFG.en ringPart = 1 ∧ ringPart.cxl.up = true ∧ ringPart.cxl.bme = true ∧ rd PWR_STATE.state ringPart < 3
    ∧ ringUsed ringPart < 2 ^ log2Entries ringPart ∧ ringPart.evt.window = ringPart.now / 600000
    ∧ ringPart.evt.second = ringPart.now / second ∧ ringPart.evt.windowBytes + 32 ≤ capBytes ringPart
    ∧ (∀ c, c < 16 → (lostRun c ringPart).run = 0)
    ∧ rd EVT_HEAD.head (after (.eventDrain false) ringPart) = 4
    ∧ byteAt (after (.eventDrain false) ringPart).host (0x100000 + 96) = 8
    ∧ rd EVT_CFG.ring_err (after (.eventDrain true) ringPart) = 1 := by decide +kernel

theorem witness_TheRingIsWrittenAtItsHead_start : reaches (hostW 1).who service ∧ rd EVT_CFG.en service = 0
    ∧ wbits EVT_CFG.en (hostW 1) service = 1 ∧ rd EVT_HEAD.head (after (.ringStart (hostW 1)) (put [(EVT_HEAD.head, 9)] service)) = 0 := by
  decide +kernel

theorem witness_TheRingIsWrittenAtItsHead_tail :
    (rd EVT_HEAD.head ringPart + 2 ^ 32 - wbits EVT_TAIL.tail (hostW 3) ringPart) % 2 ^ 32 ≤ 2 ^ log2Entries ringPart
      ∧ 2 ^ log2Entries ringPart < (rd EVT_HEAD.head ringPart + 2 ^ 32 - wbits EVT_TAIL.tail (hostW 4) ringPart) % 2 ^ 32
      ∧ rd EVT_TAIL.tail (after (.evtTailWrite (hostW 3)) ringPart) = 3
      ∧ rd EVT_CFG.ring_err (after (.evtTailWrite (hostW 4)) ringPart) = 1 := by decide +kernel

/-! ## HBM and scratch -/

theorem witness_StacksTrainAndRefresh_training : rd (MEM_HBM_STAT.state 2) (put [(MEM_HBM_STAT.state 2, 3)] State.reset) = 3
    ∧ rd (MEM_HBM_STAT.state 2) State.reset ≠ 3 ∧ rd GLB_STATE.state State.reset < 2 ∧ State.reset.wld.load = none
    ∧ rd (MEM_HBM_STAT.state 2) (after (.hbmTraining 2 none) State.reset) = 3 := by decide +kernel

/-- Stack 11 in refresh mode 2 although nothing has called for it for 10 s. -/
def coolStack : State := { put [(MEM_HBM_STAT.refresh 11, 2)] service with now := 10 * second, thm := { service.thm with holds := [(11, 0)] } }

theorem witness_StacksTrainAndRefresh_fall : heldLong 11 service = false
    ∧ heldLong 11 coolStack = true ∧ refreshWanted 11 (deg 3) coolStack = 0
    ∧ rd (MEM_HBM_STAT.refresh 11) coolStack = 2 ∧ rd (MEM_HBM_STAT.refresh 11) (after (.refreshFall 11) coolStack) = 0 := by decide +kernel

theorem witness_StacksTrainAndRefresh_refresh : (-128 : Int) ≤ 96 ∧ (96 : Int) < 128
    ∧ rd (MEM_HBM_STAT.refresh 11) (after (.stackTemperatureCrossing 11 96) service) = 2 := by decide +kernel

/-- Three corrected lines of row 6 in the last 24 hours. -/
def threeErrors : State := { service with hbm := [(1, { HbmErrors.init with rows := [(6, [0, 0, 0])] })] }

theorem witness_HbmErrorsAreCountedAndContained_corrected :
    (recent (24 * hour) (tget [] (hbmAt 1 service).rows 6) service).length < 3
      ∧ 3 ≤ (recent (24 * hour) (tget [] (hbmAt 1 threeErrors).rows 6) threeErrors).length
      ∧ (after (.hbmCorrected 1 77 6 true false) threeErrors).nv.repairs = [(1, 6)]
      ∧ rd (MEM_ECC_CE.line 1) (after (.patrolScrub 1 77 6 true false false) service) = 77 := by decide +kernel

theorem witness_HbmErrorsAreCountedAndContained_uncorrectable : (HbmArea.hdm ∈ [HbmArea.hdm, .keep, .factors, .costumes, .saves, .firmware])
    ∧ (recent second (hbmAt 4 service).errors service).length < 64
    ∧ tget false (after (.hbmUncorrectable ⟨4, 5, 6, .hdm, 0, 640, false, true⟩) service).hdmPoison 10 = true
    ∧ (after (.hbmUncorrectable ⟨4, 5, 6, .factors, 0, 0, true, true⟩) service).boot.badFactors = true
    ∧ (after (.hbmUncorrectable ⟨4, 5, 6, .factors, 0, 0, false, true⟩) service).boot.badFactors = false := by decide +kernel

theorem witness_ScratchWritesThroughThreeViews : barClosed .host service = false ∧ 64 < 63 % 64 + [some (1 : Byte), some 2].length ∧ scrAccess .host 0 service ≠ .open_
    ∧ scrAccess .host 0x6000000 service = .open_ ∧ scrAccess (.core 1) 0x7800000 service = .open_ ∧ service.sec.wiping = false
    ∧ (∀ w ∈ [0xF00000, 0xF00001], tget false service.scrPoison w = false)
    ∧ (after (.scratchWrite .host 63 [some 1, some 2] false) service).out = .abort := by decide +kernel

/-- A word of the secure part. -/
def aWord : Fin 16777216 := ⟨0xC00000, by decide⟩

theorem witness_ScratchErrorsAreCorrectedOrPoisoned : (∀ w ∈ [aWord], 0x6000000 ≤ 8 * w.val)
    ∧ tget false (after (.scratchEccError aWord true false) service).scrPoison aWord.val = true := by
  refine ⟨?_, ?_⟩
  · intro w h
    cases List.mem_singleton.mp h
    decide
  · decide +kernel

/-! ## The security block -/

theorem witness_TampersAndMeshBreaksWipe :
    ({ service with sec := { service.sec with attest := some (0x7800000, []) } } : State).sec.attest = some (0x7800000, [])
      ∧ service.sec.meshFailed = false ∧ (after (.meshCheck false) service).sec.meshFailed = true
      ∧ (after (.meshCheck false) (after (.meshCheck false) service)).sec.wiping = true
      ∧ (after (.wipeComplete 5) (after (.tamper .volt) service)).sec.wiping = false
      ∧ (after (.tamper .volt) { service with sec := { service.sec with attest := some (0x7800000, []) } }).sec.attest = none := by
  decide +kernel

theorem witness_LifeCycleRequestsAndCommits_request : reaches (hostW 8).who service ∧ wone SEC_LCS_REQ.go (hostW (8 + 2)) = true
    ∧ rd SEC_LCS_REQ.busy service = 0 ∧ service.nv.lcs = 0 ∧ wbits SEC_LCS_REQ.target (hostW (8 + 2)) service = 2
    ∧ wbits SEC_LCS_REQ.target (hostW (8 + 3)) service = 3 ∧ (0, 3) ∉ lcsMoves
    ∧ wbits SEC_LCS_REQ.target (hostW (8 + 1)) service = 1 ∧ service.boot.config.inForce = false := by decide +kernel

theorem witness_LifeCycleRequestsAndCommits_codes : lcsCode 2 (tokenAt service) service = 0 ∧ lcsCode 3 (tokenAt service) service = 1
    ∧ lcsCode 1 (tokenAt service) service = 8 := by decide +kernel

/-- A provisioned part; the scratch that the token would stand in reads zero. -/
def provisioned : State := { service with nv := { service.nv with lcs := 1, identity := some 3 } }

theorem witness_LifeCycleRequestsAndCommits_token : provisioned.nv.lcs = 1
    ∧ wbits SEC_LCS_REQ.target (hostW (8 + 2)) provisioned = 2
    ∧ (tokenAt (wtake SEC_LCS_REQ.tok (hostW (8 + 2)) provisioned)).serial ≠ provisioned.nv.serial.setWidth 64 := by
  decide +kernel

theorem witness_LifeCycleRequestsAndCommits_commit : inTransition.sec.transition = some 1
    ∧ ({ service with sec := { service.sec with transition := some 4 } } : State).sec.transition = some 4
    ∧ rd SEC_LCS_REQ.code (after (.lcsCommit false) inTransition) = 9
    ∧ rd GLB_STATE.halt_cause (after (.lcsCommit true) { service with sec := { service.sec with transition := some 4 } }) = 5 := by
  decide +kernel

theorem witness_AttestationReports_request : reaches (hostW 1).who service ∧ wone SEC_ATTEST_CMD.go (hostW 1) = true
    ∧ rd SEC_ATTEST_CMD.busy service = 0 ∧ service.nv.identity = none ∧ provisioned.nv.identity ≠ none
    ∧ attestRange (64 * rd SEC_ATTEST_ADDR.addr (put [(SEC_ATTEST_ADDR.addr, 0x180000)] provisioned))
        (put [(SEC_ATTEST_ADDR.addr, 0x180000)] provisioned) = true
    ∧ provisioned.sec.wiping = false
    ∧ rd SEC_ATTEST_CMD.code (after (.attestationRequest (hostW 1)) service) = 1
    ∧ rd SEC_ATTEST_CMD.busy (after (.attestationRequest (hostW 1)) (put [(SEC_ATTEST_ADDR.addr, 0x180000)] provisioned)) = 1 := by
  decide +kernel

theorem witness_AttestationReports_failures :
    let s := put [(SEC_ATTEST_ADDR.addr, 0x1FF000)] { provisioned with sec := { provisioned.sec with wiping := true } }
    attestRange (64 * rd SEC_ATTEST_ADDR.addr provisioned) provisioned = false ∧ attestRange (64 * rd SEC_ATTEST_ADDR.addr s) s = true
      ∧ 0x7800000 ≤ 64 * rd SEC_ATTEST_ADDR.addr s ∧ s.sec.wiping = true
      ∧ rd SEC_ATTEST_CMD.code (after (.attestationRequest (hostW 1)) provisioned) = 2
      ∧ rd SEC_ATTEST_CMD.code (after (.attestationRequest (hostW 1)) s) = 4
      ∧ rd SEC_ATTEST_CMD.busy (put [(SEC_ATTEST_CMD.busy, 1)] provisioned) = 1 := by decide +kernel

theorem witness_AttestationReports_written : (List.replicate 512 (0 : Byte)).length = 512 ∧
    ({ provisioned with sec := { provisioned.sec with attest := some (0x6000000, List.replicate 64 0) } } : State).sec.attest
        = some (0x6000000, List.replicate 64 0)
      ∧ provisioned.nv.identity = some 3 ∧ (List.replicate 64 (0 : Byte)).length = 64 := by decide +kernel

/-! ## Steps and serving -/

/-- The input of a boundary that takes 20 µs. -/
def anInput : StepInput := aBoundary 20

theorem witness_BoundariesWaitAndPass_wait : stepsRun State.reset = false ∧ { aStep with reads := 1 }.reads ≠ 0
    ∧ (withStep idlePart).srv.running = some aStep := by decide +kernel

theorem witness_BoundariesWaitAndPass_pass : stepsRun service = true ∧ rd PAIR_STAT.state service ≠ 3 ∧ service.pair.settling = none
    ∧ service.srv.running = some aStep ∧ aStep.reads = 0 ∧ service.srv.done = [] := by decide +kernel

/-- The step before still waits for a Shadow comparison. -/
def waiting : State := { service with srv := { service.srv with done := [{ aStep with num := 6, shadows := 1 }] } }

theorem witness_BoundariesWaitAndPass_held : stepsRun waiting = true ∧ rd PAIR_STAT.state waiting ≠ 3 ∧ aStep.void = false
    ∧ waiting.srv.done = [{ aStep with num := 6, shadows := 1 }]
    ∧ rd CHK_COMMIT_LAG.held (after (.stepBoundary anInput) waiting) = 1
    ∧ rd CHK_COMMIT_LAG.held (after (.stepBoundary anInput) (after (.stepBoundary anInput) waiting)) = 1 := by decide +kernel

theorem bare_of (s : State) (h1 : s.srv.requests = [] ∧ s.srv.seqs = [] ∧ s.srv.voids = [] ∧ s.srv.stagedRecipes = [])
    (h2 : s.regions = [] ∧ s.blocks = [] ∧ s.wld = Weights.init ∧ ∀ g, g < 4 → rd (WLD_GEN.state g) s ≠ 4)
    (h3 : rd PAIR_STAT.state s ≠ 3 ∧ s.pair.joining = false ∧ s.pair.settling = none ∧ s.tin.leaving = false
      ∧ rd CHK_RATTLE_STAT.deferred s = 0) : s.Bare :=
  ⟨h1.1, h1.2.1, h1.2.2.1, h1.2.2.2, h2.1, h2.2.1, h2.2.2.1, h2.2.2.2, h3.1, h3.2.1, h3.2.2.1, h3.2.2.2.1, h3.2.2.2.2⟩

/-- The boundary that ends the only step. -/
theorem witness_CheckedStepsCommit_boundary : stepsRun service = true ∧ service.Bare ∧ aStep.reads = 0 ∧ aStep.shadows = 0
    ∧ aStep.void = false ∧ service.srv.running = some aStep ∧ service.srv.done = [] ∧ anInput.groups = [] ∧ anInput.kv = [] :=
  ⟨by decide +kernel, bare_of _ (by decide +kernel) (by decide +kernel) (by decide +kernel), by decide +kernel⟩

/-- A step that has ended. -/
def ended : State := { idlePart with srv := { idlePart.srv with done := [aStep], highest := 7 } }

theorem witness_CheckedStepsCommit_commit : stepsRun ended = true ∧ ended.Bare ∧ ended.srv.running = none ∧ ended.srv.done = [aStep] :=
  ⟨by decide +kernel, bare_of _ (by decide +kernel) (by decide +kernel) (by decide +kernel), by decide +kernel⟩

/-- Table 0 at 1 MiB with one slot: a RUN of sequence 9 with one prompt token. -/
def posted : State :=
  [(0, 8, 1), (9, 1, 1), (16, 4, 9), (24, 8, 0x10000), (32, 4, 1), (36, 4, 4), (48, 8, 0x20000), (56, 4, 16), (68, 4, 0x3F800000),
    (76, 4, 0x3F800000), (82, 2, 0xFFFF), (96, 8, 0xFFFFFFFFFFFFFFFF), (104, 8, 0xFFFFFFFFFFFFFFFF)].foldl
    (fun s e => putHdm (0x100000 + e.1) e.2.1 e.2.2 s)
    (put [(SRV_CTL.tbl_en, 1), (SRV_TBL_BASE.off 0, 256), (SRV_TBL_SIZE.slots 0, 1), (WLD_GEN.state 2, 3), (WLD_GEN.gen 2, 5)] service)

theorem witness_ScanTakesPostedSlots : rd PWR_STATE.state posted = 0 ∧ rd GLB_STATE.state posted = 2 ∧ rd GLB_STATE.rom_runner posted = 0
    ∧ posted.srv.running.isSome = true ∧ rd SRV_CTL.tbl_en posted = 2 ^ (0 : Fin 4).val ∧ tableSlots 0 posted = 1
    ∧ tableBase 0 posted + 256 ≤ hdmSize ∧ slotState 0 posted = 1 ∧ slotCancel 0 posted = false ∧ mayTake 0 posted = true
    ∧ slotValid 0 (readSlot 0 posted.srv.nextOrder posted) posted = true ∧ (readSlot 0 0 posted).new = true
    ∧ seqAt false (readSlot 0 0 posted).seq posted = none ∧ posted.srv.requests = [] := by decide +kernel

theorem witness_ScanTakesPostedSlots_taken : (after .scan posted).srv.requests.map (fun r => (r.key, r.seq, r.promptLen)) = [(0, 9, 1)]
    ∧ byteAt (after .scan posted).hdm 0x100000 = 2 := by decide +kernel

theorem witness_ScanTakesPostedSlots_cancelled : slotState 0 (putHdm 0x100004 1 1 posted) = 1
    ∧ slotCancel 0 (putHdm 0x100004 1 1 posted) = true
    ∧ 3 ≤ rd PWR_STATE.state (put [(PWR_STATE.state, 3)] posted) ∧ rd SRV_CTL.tbl_en service = 0 := by decide +kernel

/-- What the scan took, while no step runs. -/
def takenRequest : Request := readSlot 0 0 posted
/-- The part with it. -/
def takenPart : State :=
  { after .scan posted with srv := { (after .scan posted).srv with running := none } }

theorem witness_RunsAreAdmitted : takenRequest.key = 4096 * (0 : Fin 4).val + (0 : Fin 4096).val ∧ takenPart.srv.requests = [takenRequest]
    ∧ takenPart.srv.seqs = [] ∧ takenPart.srv.done = [] ∧ takenPart.srv.voids = [] ∧ takenRequest.running = false ∧ takenRequest.op = 0
    ∧ takenRequest.cancelled = false ∧ takenRequest.genHint = 0 ∧ takenRequest.costumeCheck = false
    ∧ (wardrobeAt takenRequest.context takenPart).current = none ∧ takenRequest.promptLen = 1 ∧ takenRequest.new = true ∧ activeSlot takenPart = some 2
    ∧ spec SMP_SPEC.draft_kind takenPart = 0 := by decide +kernel

theorem witness_RunsAreAdmitted_fits : rd GLB_STATE.state takenPart = 2 ∧ rd SRV_STAT.stage takenPart < 2 ∧ rd SRV_CTL.hold takenPart = 0
    ∧ rd PAIR_STAT.state takenPart ≠ 3
    ∧ fitsNever takenRequest (needs { takenRequest with slot := 2, draft := 0, draftSlot := 0 } takenPart) takenPart = false
    ∧ fitsNow takenRequest (needs { takenRequest with slot := 2, draft := 0, draftSlot := 0 } takenPart) takenPart = true := by
  decide +kernel

/-- A live sequence of 4 frames, and a taken operation on it. -/
def aSeq : Sequence := ⟨9, false, 0, 5, [1, 2], 4, 1, .live, 0, 0, false⟩
/-- The part with both. -/
def withOp (op : Nat) : State :=
  let s := put [(SRV_TOYBOX_BASE.en, 1), (SRV_TOYBOX_SIZE.size, 1)] posted
  { s with srv := { s.srv with requests := [{ takenRequest with op, new := false, ttl := 5 }], seqs := [aSeq] } }

theorem witness_PauseReleaseAndProbe : reqAt 0 (withOp 1) = some { takenRequest with op := 1, new := false, ttl := 5 }
    ∧ takenRequest.running = false ∧ takenRequest.irq = false ∧ seqAt false 9 (withOp 1) = some aSeq ∧ rd GLB_STATE.state (withOp 1) = 2
    ∧ rd SRV_TOYBOX_BASE.en (withOp 1) = 1
    ∧ rd SRV_TOYBOX_SIZE.used (withOp 1) + toyboxUnits aSeq.frames ≤ rd SRV_TOYBOX_SIZE.size (withOp 1)
    ∧ rd SRV_TOYBOX_BASE.en (put [(SRV_TOYBOX_BASE.en, 0)] (withOp 1)) = 0
    ∧ reqAt 0 (withOp 2) = some { takenRequest with op := 2, new := false, ttl := 5 } ∧ seqAt false 9 (withOp 2) = some aSeq := by
  decide +kernel

theorem witness_PauseReleaseAndProbe_probe :
    reqAt (4096 * (0 : Fin 5).val + (0 : Fin 4096).val)
      { takenPart with srv := { takenPart.srv with requests := [{ takenRequest with running := true, rejects := 8, pauseLeft := 0 }] } }
      = some { takenRequest with running := true, rejects := 8, pauseLeft := 0 } := by decide +kernel

/-- The sequence in another place. -/
def inPlace (p : Where) : State := { service with srv := { service.srv with seqs := [{ aSeq with place := p, toybox := 1 }] } }

theorem witness_ToyboxTransfersAndExpiry : seqAt false (9#16).toNat (inPlace (.copying 5 none)) = some { aSeq with place := .copying 5 none, toybox := 1 }
    ∧ (inPlace (.copying 5 none)).cxl.up = true ∧ (inPlace (.copying 5 none)).cxl.bme = true
    ∧ seqAt false (9#16).toNat (inPlace (.fetching 5)) = some { aSeq with place := .fetching 5, toybox := 1 }
    ∧ (inPlace (.fetching 5)).srv.running.isSome = true ∧ rd GLB_STATE.state (inPlace (.fetching 5)) ≠ 3
    ∧ rd GLB_STATE.rom_runner (inPlace (.fetching 5)) = 0 ∧ rd GLB_STATE.state (inPlace (.copying 5 none)) ≠ 3
    ∧ seqAt false (9#16).toNat (inPlace (.paused 0)) = some { aSeq with place := .paused 0, toybox := 1 }
    ∧ (inPlace (.paused 0)).now = 0 ∧ seqAt false (9#16).toNat (inPlace (.paused 1)) = some { aSeq with place := .paused 1, toybox := 1 } := by
  decide +kernel

/-- A resumption waits for the place that a copy frees. -/
theorem witness_ToyboxTransfersAndExpiry_waiting :
    (seqAt true 3 (after (.toyboxCopyComplete 9) { inPlace (.copying 5 none) with srv := { service.srv with
      seqs := [{ aSeq with place := .copying 5 none }, { aSeq with id := 3, keep := true, place := .waiting 1 }] } })).map (·.place)
      = some (.fetching 1) := by decide +kernel

/-! ## The host link and accesses -/

theorem witness_HostLinkUpAndDown : (4 : Fin 17).val ∈ [4, 8, 16] ∧ (16 : Fin 33).val ∈ [16, 32]
    ∧ ({ State.reset with pins := { State.reset.pins with porN := true, perstN := true }, boot := { State.reset.boot with held := false } } : State).cxl.up = false
    ∧ service.cxl.up = true := by decide +kernel

/-- D3hot keeps the host out. -/
theorem witness_HostLinkUpAndDown_d3hot : (after (.busMasterEnableChange ⟨true, true, false⟩) service).cxl.d3hot = true
    ∧ (hostW 0).who = .host ∧ rd MBX_STAT.busy service = 0
    ∧ (after (.registerWrite 0 (hostW 0) false) (after (.busMasterEnableChange ⟨true, true, false⟩) service)).out = .abort := by
  decide +kernel

/-- A write of one line by the host; its byte enables are all set. -/
def lineWrite (a : MemArea) (who : Master) (line : Nat) : Instr := .cxlMemAccess ⟨who, a, line, true, List.replicate 64 (some 5), false⟩

/-- A read of one line. -/
def lineRead (a : MemArea) (who : Master) (line : Nat) : Instr := .cxlMemAccess ⟨who, a, line, false, [], false⟩

theorem witness_MemoryAccessesAndDecoders_memory : rd PWR_STATE.state service < 3 ∧ service.cxl.memActive = true
    ∧ ({ service with cxl := { service.cxl with memActive := false } } : State).cxl.memActive = false ∧ 64 * 134217727 < hdmSize
    ∧ byteAt (after (lineWrite .hdm .host 134217727) service).hdm (64 * 134217727) = 5
    ∧ byteAt (after (lineWrite .hdm (.mover 3) 1) service).hdm 128 = 0
    ∧ (after (lineRead .hdm .host 1) (after (lineWrite .hdm .host 1) service)).out = .bytes (List.replicate 64 5) := by decide +kernel

/-- The second line of the last image. -/
def lastLine : Nat := 209714 * 320 + 1

theorem witness_MemoryAccessesAndDecoders_saves : maySaves .host service = false ∧ maySaves (.mover 51) service = true
    ∧ lastLine / 320 < saveSlots ∧ saveSlots ≤ (lastLine + 319) / 320
    ∧ (after (lineRead .saves .host lastLine) service).out = .bytes (List.replicate 64 0)
    ∧ (after (lineRead .saves (.mover 51) lastLine) (after (lineWrite .saves (.core 0) lastLine) service)).out = .bytes (List.replicate 64 5)
    ∧ (after (lineRead .saves (.mover 51) (lastLine - 1)) (after (lineWrite .saves (.core 0) lastLine) service)).out
        = .bytes (List.replicate 64 0) := by decide +kernel

theorem witness_MemoryAccessesAndDecoders_host : (service.cxl.up && service.cxl.bme) = true
    ∧ (State.reset.cxl.up && State.reset.cxl.bme) = false
    ∧ byteAt (after (lineWrite .hostMemory .pair 7) service).host 448 = 5
    ∧ byteAt (after (lineWrite .hostMemory .pair 7) State.reset).host 448 = 0
    ∧ byteAt (after (lineWrite .hostMemory .host 7) State.reset).host 448 = 5 := by decide +kernel

theorem witness_MemoryAccessesAndDecoders_abort : barClosed .host service = false ∧ 64 < (63#32).toNat % 64 + 2
    ∧ 0x3010000 ≤ (0x3010000#32).toNat ∧ 2 ∉ [4, 8] ∧ (0x2FFFFFC#32).toNat < 0x3000000 ∧ (0x2FFFFFC#32).toNat % 8 ≠ 0 := by decide +kernel

theorem witness_MemoryAccessesAndDecoders_decoders :
    decoderAt 0 { service with cxl := { service.cxl with decoders := [(0, 0, 268435456, true)] } } = some (0, 268435456, true)
      ∧ decoderAt 1 (after (.hdmDecoderCommit 1 0 268435456 1 0 false) service) = none
      ∧ decoderAt 0 (after (.hdmDecoderCommit 0 0 8589934592 1 0 false) service) = some (0, 8589934592, false)
      ∧ decoderAt 0 (after (.hdmDecoderCommit 0 0 8858370048 1 0 false) service) = none := by decide +kernel

/-! ## The mailbox -/

/-- The mailbox serves the host. -/
def mbxPart : State := put [(MBX_STAT.ready, 1)] service

theorem mbxFree_of (s : State) (h : rd MBX_STAT.ready s = 1 ∧ rd MBX_STAT.busy s = 0 ∧ rd PWR_STATE.state s = 0 ∧ s.cxl.d3hot = false) :
    mbxFree s := h

theorem witness_InfoAndRecipeCommandsAnswer_info : mbxFree mbxPart ∧ rd GLB_STATE.state mbxPart ≤ 5
    ∧ rd MBX_STAT.out_len (after (.getInfo .host 0) mbxPart) = 32 ∧ rd MBX_STAT.status (after (.getInfo .host 1) mbxPart) = 2 :=
  ⟨mbxFree_of _ (by decide +kernel), by decide +kernel⟩

/-- A manifest of one layer with a wide alternative. -/
def aManifest : Manifest :=
  { parseManifest [] 65536 with layers := 1, recipes := [⟨0, .a4, false, 1, false, false, 0, 0, 0x0CCD, 1, 0⟩, ⟨0, .a8, false, 2, false, false, 0, 0, 0, 0xFFFF, 0⟩] }

/-- The host manages recipes; slot 1 holds a generation of one layer with a wide alternative; the buffer holds one entry. -/
def recipePart (flags step slot : Nat) : State :=
  let s := put [(WLD_GEN.state 1, 2), (MBX_DATA.data 0, 1 + 65536 * flags), (MBX_DATA.data 1, step), (MBX_DATA.data 2, 65536 * slot + 2 ^ 24)] mbxPart
  { s with boot := { s.boot with config := { s.boot.config with inForce := true, params := [(3, 1)] } }
           wld := { s.wld with gens := [(1, { Gen.init with manifest := some aManifest })] } }

theorem witness_InfoAndRecipeCommandsAnswer_recipes : mbxFree (recipePart 1 8 1) ∧ rd GLB_STATE.state (recipePart 1 8 1) = 2
    ∧ hostManages (recipePart 1 8 1) = true ∧ 1 = mbxNat 0 2 (recipePart 1 8 1) ∧ mbxNat 2 1 (recipePart 1 8 1) ≤ 1
    ∧ mbxNat 3 5 (recipePart 1 8 1) = 0 ∧ recipeEntryOk (recipeEntry 0 (recipePart 1 8 1)) (recipePart 1 8 1) = true
    ∧ mbxNat 2 1 (recipePart 1 8 1) = 1 ∧ (recipePart 1 8 1).srv.highest < mbxNat 8 8 (recipePart 1 8 1) :=
  ⟨mbxFree_of _ (by decide +kernel), by decide +kernel⟩

theorem witness_InfoAndRecipeCommandsAnswer_refused :
    recipeEntryOk (recipeEntry 0 (recipePart 0 0 2)) (recipePart 0 0 2) = false
      ∧ mbxNat 8 8 (recipePart 1 7 1) ≤ (recipePart 1 7 1).srv.highest := by decide +kernel

/-! ### Signed containers

Made with a 4,096-bit key, its signatures by the rules of PKCS #1 v2.2 with a salt of zeros. -/

/-- A firmware image of version 3: 8 bytes of body and a signature block. -/
def imageBytes : List Byte :=
  leBytes 1096
    0x749e126f75c2b8213aca80d7884bb74280891460376af9e287e7e1ba6e51b8dfea96dfbd0ff44542ea81593243e213783111bed116bccda2266fa6510dbb60d2acf263cfeb8256b2d4e90b6206aecc7c768e01c409f33a4c96d33b4589a6b45cdd776250d6703e3461e54dded829df30db6814853a5c9533c78973a77d858d53fa2a90691d5670b230767ae4d6d83a79b984687a1dee37318df7b72f915027b6e8d8a997ed945fd5ce343bd423849736a1d85da32b75caac729deea48bac4d8da6e54fe111f3da96e86be349b77338af1ec34f41685ed9a552cad6362857da1805b0e116bdf7520b48222e45f8366301a59a1f2be4f694d05bb13672f9416e07f27f901524a07dfbbdb4061f02514761ff99b5ac4e2cb59092e9eb7050d6f1ffe939ec938357262f6196da7dfd51096b0a5bdb3d45a10d5021c941cecf17dc4112152f0840e415e49b75bbcae419c96b5c4d51178cf7c0c7af944a877f0076c79ec20c20d1f0a5fd0e86ec9cf2d6007c1d880a43e4e6f05499efcc96ff36c0c440b9edbf4d3420a307e1a428d531afa149d463217a86a3b32d96ab32e51726ca558195019385004d55cc3d8f3ca67fad3fb90e21c78dfcabd948e9cf38a6b748f10939512cdc0f02320286b2d60b1af3b43263da4a82c4a70fd4e80204854268d29e413f8a2ead6202bddea0c1c7aa1a69669aa3feb330f24ca49a918226edf600000000000000000000000000000000000000000000000000000000000000000000000000000000000000000000000000000000000000000000000000010001be6b6d487482658afce52c09433f95d1743a8965965d6fc5608cbcc873c65781f1191f3474f7414dc5a8dfd4604cd822fb450669a6d77b1183708acd72e19e310a59b61ddc576e33204c1f9123d080536fe326a62b0355be399aca57f110f8e61102c68e74fb24f7c6853d5a1ab83d5d382fe410c51768d3e51a851763353f23ce30c0f66a997a2192ca332f279ec5b5aaf99ebf48c2604c8fc21b63cf64bbc9fe6dae82ed9e737acb77663d5ce9e26e259baf166480ea12d205f494892da862c400d76bf550439fd8b967729eb2404a8c681f69ce7d60b4d4503f5e691cbd3306f206d0182d55db2d0f83695cd981e9f57ce2fb32e9e10074d9d6e0f73f8164f7d22f0ede08b43d9195e21c7dc5a69189f7a1dd2bba5dceda880b4e72c3e58bafb8659bdbf8b5cac9218d848df3916a16699b67f661c576c5ff720b715db9da84aeb2719d4e973b2b3aa2c52ba4aa5bddeef3944b2ea28d7378187937fd56dc6b8fd40098de497e59aa9b17bbf45342b9d82bfcf4995c5c25db61c339090d587e8f7cb695f4cfa3794a533e0200d4cf522311141f5a57cdce3097bb4fe3595a0cf067b048935fb4346dde2d4084247007957314b07988d4d609d78847ebf255a7167bd39954b0b53794fc679497bbf49dac675ac062c2eb5ef2d4e25879535789fd26ff4bb2ca9a96e5862e7fae0bdda136c6a2d7f6bf8e553c128d4acd3efb000000034957464c

/-- The SHA-512 of the key. -/
def keyHash : BitVec 512 :=
  0xd691d96f915f52fc2ca61298bd196de5614476f9c256d6a9f786e949730091ca2112075bb9952689cf977940b7fc7c8eb79a0d3aa734e3512cba36b8ee727a10

theorem test_image_key : (parseImage imageBytes).keyHash = keyHash := by decide +kernel
theorem test_image_signature : (parseImage imageBytes).signatureOk = true := by decide +kernel
theorem test_image_fields : (parseImage imageBytes).magicOk = true ∧ (parseImage imageBytes).fwVersion = 3 ∧ (parseImage imageBytes).lenKib = 2
    ∧ imageBytes.length = 1096 := by decide +kernel

/-- A changed body does not verify. -/
theorem test_image_changed : (parseImage (imageBytes.set 4 9)).signatureOk = false := by decide +kernel

/-- A boot header: its items as offset and length. -/
def bootHeader (items : List (Nat × Nat)) : List Byte :=
  let b := leBytes 4 0x544F424C ++ leBytes 4 1 ++ items.flatMap (fun i => leBytes 4 i.1 ++ leBytes 4 i.2) ++ List.replicate 28 0
  b ++ leBytes 4 (crc32c b).toNat

/-- A part whose fuses hold the hash of the key, its boot NVM with the image at 4 KiB, or without it. -/
def flashed (present : Bool) (s : State) : State :=
  { s with nv := { s.nv with fwKeyHash := keyHash, nvm := { s.nv.nvm with
      sectors := [(0, bootHeader [(4096, if present then 1096 else 0), (0x400000, 0), (0x500000, 0)]), (1, imageBytes)] } } }

theorem test_boot_header : headerUsable (flashed true service).nv.nvm = true ∧ nvmItem 1 (flashed true service).nv.nvm = some imageBytes
    ∧ nvmItem 2 (flashed true service).nv.nvm = none ∧ nvmItem 1 (flashed false service).nv.nvm = none := by decide +kernel

/-- The mailbox names item 1 and 1,096 bytes. -/
def beginning : State := flashed true (put [(MBX_DATA.data 0, 1096 * 2 ^ 32 + 1)] mbxPart)

theorem witness_NvmUpdates_begin : mbxFree beginning ∧ rd GLB_STATE.state beginning ∈ [2, 3, 4] ∧ beginning.boot.update = none
    ∧ nvmUsable beginning = true ∧ mbxNat 0 1 beginning ∈ [1, 2, 3] ∧ mbxNat 1 3 beginning = 0
    ∧ mbxNat 4 4 beginning ≤ itemRoom (mbxNat 0 1 beginning) beginning.nv.nvm :=
  ⟨mbxFree_of _ (by decide +kernel), by decide +kernel⟩

/-- An update of item 1 that has received `got`, of `n` bytes. -/
def updating (n : Nat) (got : List Byte) : State :=
  { flashed false (put [(MBX_DATA.data 0, got.length)] mbxPart) with boot := { mbxPart.boot with update := some ⟨1, n, got⟩ } }

theorem witness_NvmUpdates_data : mbxFree (updating 16 (List.replicate 8 0)) ∧ (updating 16 (List.replicate 8 0)).boot.update = some ⟨1, 16, List.replicate 8 0⟩
    ∧ mbxNat 0 4 (updating 16 (List.replicate 8 0)) = 8 ∧ mbxNat 4 4 (updating 16 (List.replicate 8 0)) = 0 ∧ 8 + (16 - 8) ≤ 16
    ∧ nvmBytes (after (.nvmUpdateData .host 16 false) (updating 16 (List.replicate 8 0))).nv.nvm 4104 8 = List.replicate 8 0 :=
  ⟨mbxFree_of _ (by decide +kernel), by decide +kernel⟩

theorem goodImage (s : State) (h : s.nv.fwKeyHash = keyHash) : imageCode (parseImage imageBytes) s = 0 := by
  simp [imageCode, test_image_key, test_image_signature, test_image_fields.1, test_image_fields.2.2.1, h]

theorem witness_NvmUpdates_end : mbxFree (updating 1096 imageBytes) ∧ (updating 1096 imageBytes).boot.update = some ⟨1, 1096, imageBytes⟩
    ∧ 1096 ≤ imageBytes.length ∧ imageBytes.length < 2 ^ 32 ∧ imageCode (parseImage imageBytes) (updating 1096 imageBytes) = 0 :=
  ⟨mbxFree_of _ (by decide +kernel), rfl, by decide +kernel, by decide +kernel, goodImage _ rfl⟩

theorem witness_NvmUpdates_fails : (updating 1 []).boot.update = some ⟨1, 1, []⟩ ∧ ([] : List Byte).length < 1
    ∧ imageCode (parseImage []) (updating 0 []) ≠ 0 := by decide +kernel

/-- A part that waits for a recovery image. -/
def recovering : State := { put [(GLB_STATE.state, 4)] mbxPart with nv := { mbxPart.nv with fwKeyHash := keyHash } }

theorem witness_RecoveryImages : mbxFree recovering ∧ rd GLB_STATE.state recovering = 4 ∧ rd BOOT_RECOV_CTL.state recovering ≠ 4
    ∧ mbxNat 0 4 (put [(MBX_DATA.data 0, 33554432)] recovering) ≤ 33554432 ∧ headerUsable recovering.nv.nvm = false
    ∧ recovering.cxl.up = true ∧ recovering.cxl.bme = true
    ∧ ({ recovering with boot := { recovering.boot with recov := some ⟨0, 1096, imageBytes⟩ } } : State).boot.recov = some ⟨0, 1096, imageBytes⟩ :=
  ⟨mbxFree_of _ (by decide +kernel), by decide +kernel⟩

theorem witness_RecoveryImages_image : (parseImage imageBytes).keyHash = recovering.nv.fwKeyHash ∧ (parseImage imageBytes).signatureOk = true
    ∧ (parseImage imageBytes).magicOk = true :=
  ⟨test_image_key, test_image_signature, test_image_fields.1⟩

theorem witness_RecoveryImages_wrong : (parseImage imageBytes).keyHash ≠ mbxPart.nv.fwKeyHash := by rw [test_image_key]; decide +kernel

/-! ## Resets and boot -/

/-- The first command of a run from reset: the boot ROM finds no image. -/
theorem witness_TheBootRomLooksForAnImage_none : State.reset.pins.porN = false ∧ State.reset.nv.lcs < 3
    ∧ (match findImage State.reset with | .error c => c | .ok _ => 0) = 2
    ∧ ({ service with boot := { service.boot with held := true } } : State).pins.porN = true
    ∧ ({ State.reset with nv := { State.reset.nv with lcs := 4 } } : State).nv.lcs = 4 := by decide +kernel

/-- With the image of the boot NVM it finds that one. -/
theorem witness_TheBootRomLooksForAnImage_found :
    findImage (flashed true State.reset) = .ok (parseImage imageBytes) := by
  have h : nvmItem 1 (flashed true State.reset).nv.nvm = some imageBytes := by decide +kernel
  have u : headerUsable (flashed true State.reset).nv.nvm = true := by decide +kernel
  have c : imageCode (parseImage imageBytes) (flashed true State.reset) = 0 := goodImage _ rfl
  simp only [findImage, h, u, c]
  rfl

theorem witness_TheBootRomLooksForAnImage_alone : (flashed true State.reset).nv.lcs < 3 ∧ nvmItem 2 (flashed true State.reset).nv.nvm = none
    ∧ nvmItem 3 (flashed true State.reset).nv.nvm = none := by decide +kernel

theorem witness_TheBootRomLooksForAnImage_recovery : rd GLB_STATE.state (after .por State.reset) = 4
    ∧ rd BOOT_STAT.code (after .por State.reset) = 2 := by decide +kernel

theorem witness_WarmResets : service.pins.porN = true ∧ service.boot.held = false ∧ service.cxl.everUp = true
    ∧ reaches (.core 3) service ∧ rd PWR_STATE.state service = 0
    ∧ ({ service with pins := { service.pins with wrstN := true, perstN := true } } : State).pins.wrstN = true := by decide +kernel

/-- A part in CAL that may go without the Tin Soldier model. -/
def inCal : State := put [(BOOT_STAT.stage, 4), (GLB_STATE.state, 1), (BOOT_STAT.no_tin, 1)] State.reset

theorem witness_CalibrationEndsInService : rd BOOT_STAT.stage inCal = 4 ∧ inCal.tin.reprogram = [] ∧ inCal.nv.erase = false
    ∧ rd GLB_STATE.state inCal = 1 ∧ rd GLB_STATE.tin_cause inCal = 0 ∧ rd BOOT_STAT.no_tin inCal = 1
    ∧ inCal.pins.railsOut = [] ∧ inCal.srv.requests = [] ∧ inCal.srv.seqs = []
    ∧ rd SRV_CTL.tbl_en inCal = 0 ∧ rd GLB_STATE.rom_runner inCal = 0 ∧ rd PWR_STATE.state inCal = 0 := by decide +kernel

theorem witness_CalibrationEndsInService_cool : junction inCal < deg (rd THM_CFG.tin_c inCal) := by decide +kernel

theorem witness_CalibrationEndsInService_keep :
    ∀ i, i < tableSlots 4 inCal → slotState (16384 + i) inCal ≠ 2 ∧ slotState (16384 + i) inCal ≠ 3 := by
  have h : tableSlots 4 inCal = 16 := by decide +kernel
  rw [h]
  decide +kernel

theorem witness_PllAndWatchdog : rd CLK_ROOT_STAT.lock service = 1 ∧ service.srv.running = some aStep
    ∧ rd CLK_ROOT_STAT.lock (linked State.reset) = 0 ∧ (linked State.reset).pins.porN = true
    ∧ rd GLB_STATE.state (linked State.reset) ≠ 5 := by decide +kernel

/-! ## Registers -/

theorem witness_RegisterWritesFollowTheAccessCodes : SRV_STEP_BUDGET ∈ [SRV_STEP_BUDGET, SRV_CHUNK] ∧ reaches .host service
    ∧ mayWrite (.mover 5) = false ∧ (4#26).toNat < 0x3000000 ∧ rowOf (4#26).toNat = none
    ∧ rd SRV_CHUNK.max (after (.registerWrite (BitVec.ofNat 26 SRV_CHUNK) (hostW 0x00200010) false) service)
        = fget SRV_CHUNK.max 0x00200010
    ∧ rd SRV_CHUNK.max (after (.registerWrite (BitVec.ofNat 26 SRV_CHUNK) ⟨.host, .upper, 0⟩ false) service)
        = rd SRV_CHUNK.max service := by decide +kernel

theorem witness_SmbusReadsRegisters : service.pins.porN = true ∧ 0x10 ≤ (0x44#8).toNat ∧ (0x44#8).toNat ≤ 0x44
    ∧ 4 < (5#8).toNat ∧ (5#8).toNat < 0x10 ∧ 0x44 < (0x45#8).toNat ∧ State.reset.pins.porN = false
    ∧ (after (.smbusBlockRead 0x45) service).out = .nack
    ∧ (after (.smbusBlockRead 0x44) service).out = .word (readReg (THM_SENSOR 52) service) := by decide +kernel

/-! ## Power and temperatures -/

/-- A part asleep. -/
def asleep (st : Nat) : State :=
  let s := put [(PWR_STATE.state, st), (PWR_STATE.target, st)] idlePart
  { s with pwr := { s.pwr with scheduled := some 5, dues := [(7, 100)], open_ := [] } }

theorem witness_WakesAndDueWindows : rd PWR_STATE.state (asleep 1) = 1 ∧ (asleep 1).pwr.scheduled.isSome = true
    ∧ (asleep 1).pwr.scheduled = some 5 ∧ ({ asleep 1 with now := 5 } : State).now = 5
    ∧ rd PWR_STATE.state (asleep 2) = 2 ∧ rd PWR_STATE.state (asleep 3) = 3 ∧ (asleep 3).cxl.held = []
    ∧ rd PWR_STATE.state (asleep 4) = 4 ∧ (∀ d ∈ (asleep 2).pwr.dues, d.1 = (7 : Fin 4096).val → (asleep 2).now < d.2)
    ∧ (∃ d ∈ (asleep 2).pwr.dues, d.1 = (7 : Fin 4096).val ∧ d.2 ≤ ({ asleep 2 with now := 100 } : State).now)
    ∧ rd PWR_STATE.cause (after (.wakeEvent .postedSlot) (asleep 2)) = 2
    ∧ rd PWR_STATE.due_open (after (.dueTime 7) { asleep 1 with now := 100 }) = 1
    ∧ rd PWR_STATE.due_open (after .dueWindowClose { asleep 1 with now := 100, pwr := { (asleep 1).pwr with open_ := [(7, 100)] } }) = 0 := by decide +kernel

/-- A junction of 105 °C, at throttle level `l`. -/
def hot (l : Nat) : State := put [(THM_SENSOR.eff 9, 6720), (THM_STAT.level, l)] State.reset

theorem witness_ThrottlingFollowsTheJunction : 0 < rd THM_STAT.level (hot 1) ∧ throttleTemp (hot 1) ≤ junction (hot 1)
    ∧ rd THM_STAT.level (hot 2) < 3 ∧ rd THM_STAT.level (hot 3) = 3
    ∧ junction (put [(THM_STAT.level, 1)] State.reset) ≤ throttleTemp (put [(THM_STAT.level, 1)] State.reset) - deg 3
    ∧ rd CLK_DIV.core (after .throttleStepUp (hot 1)) = 6 := by decide +kernel

/-- Sensor 0 reads `temp` in 2⁻⁶ °C, its neighbours 1 and 13 read 20 °C. -/
def oddSensor (temp suspect : Nat) : State :=
  put [(THM_SENSOR.temp 0, temp), (THM_SENSOR.suspect 0, suspect), (THM_SENSOR.temp 1, 1280), (THM_SENSOR.temp 13, 1280)] State.reset

theorem witness_SuspectSensorsAreReplaced : rd GLB_STATE.state State.reset < 2 ∧ rd PWR_STATE.state State.reset = 0
    ∧ rd (THM_SENSOR.suspect 0) (oddSensor 0 0) = 0 ∧ rd (THM_SENSOR.suspect 0) (oddSensor 0 1) = 1
    ∧ max (tget 0 State.reset.thm.validAt 0) State.reset.thm.ratesFrom + 300000000 ≤ ({ State.reset with now := 300000000 } : State).now
    ∧ medianGap 0 (oddSensor (1280 + 385) 0) = some 385 ∧ medianGap 0 (oddSensor (1280 - 192) 1) = some 192 := by decide +kernel

/-! ## Operating state -/

theorem witness_TinSoldierModeIsEntered : rd GLB_STATE.state idlePart = 2 ∧ rd PWR_STATE.state idlePart = 0 ∧ idlePart.srv.requests = []
    ∧ idlePart.cxl.d3hot = false ∧ idlePart.srv.seqs = [] ∧ idlePart.srv.running = none ∧ idlePart.srv.done = [] ∧ idlePart.srv.voids = []
    ∧ rd PAIR_STAT.state idlePart ≠ 3 ∧ rd PAIR_STAT.state idlePart ≠ 6 ∧ rd (RGN_STATE.unusable 50) idlePart = 0 := by decide +kernel

theorem witness_TinSoldierModeIsEntered_slots : ∀ i, i < tableSlots 4 idlePart → slotState (16384 + i) idlePart = 0 := by
  have h : tableSlots 4 idlePart = 16 := by decide +kernel
  rw [h]
  decide +kernel

/-- Tin Soldier mode with a set of causes. -/
def tinPart (causes : Nat) : State := put [(GLB_STATE.state, 3), (GLB_STATE.tin_cause, causes)] idlePart

theorem witness_TinSoldierModeIsLeft : rd GLB_STATE.state (tinPart 40) = 3 ∧ (tinPart 40).srv.running = none ∧ (tinPart 40).cxl.d3hot = false
    ∧ rd PWR_STATE.state (tinPart 40) = 0 ∧ rd GLB_STATE.tin_cause (tinPart 40) ∈ [8, 40] ∧ (tinPart 40).pins.railsOut = []
    ∧ rd CAL_REF.fail (tinPart 40) = 0 ∧ rd GLB_STATE.tin_cause (tinPart 32) = 32 ∧ rd GLB_STATE.tin_cause (tinPart 4) = 4
    ∧ tinBit 2 (tinPart 36) = true := by decide +kernel

theorem witness_TinSoldierModeIsLeft_cool : junction (tinPart 4) ≤ deg 100 := by decide +kernel

/-- The header of a Tin Soldier container that places one tile of ternary weights. -/
def tinHeader : List Byte :=
  leBytes 64
    0x170000000000000200000000000000006000000000000001000000000010000ffff020100014e53554c
/-- Its manifest. -/
def tinManifest : List Byte :=
  leBytes 1536
    0x9002e4e257fcb3f1ed8b0ab4bacabfe0c94c67512b3be6289ac5a4c6102cfafd604e012d0586f9cdab9de39cd405a60e9a96ea9f304d3f94516427d24d8e7e701434db29369ce5a5f703a865f45e8a38664238c2ad8c4a1482ad370e593ada661a025c49db08beb0e95451d8c7c8a074c28d39cd61aa7208c621e1619807cb1c4d9d554922d479dcabed66a0e79790a625c10c2b23fb9c94c907ca68aff6e06f069ecf5f4ddad2aa210e5bf6483b8ef29c848ea52ad44bce09f02629ecd4cbfefc70ca614862f91b93f2cda37c1e8fe64991bba6f893dfa0f5d2365ca90bded88e774d89e3fcf7ff2ba96364340ecc747d0ef758fb94465f0ae2415200ca29932703dceaa3bac774325f44708c8034757170a13b742a9ccd4f70652a2ab9a2295f9b3b129734abe0c370b7fd87a146c454a243f8a5f67a20007ef18e908680268f0d62fd152c698058453921ca3adb43492c8ce8df260dee2bae57af00fb6bf00a79aa137dff1f5d4e903c878b2ba46cc11c11a3c41160a0de18f34744745cc97a154f90d34d4579a20e0b0f7d38aa9fe336518c30d398c6f8bed4128e2f1e615f721b7c3b32ca10f65d62672ba196adcc30e6289f1e94da801b1f5803cb951f43b369d3aa784fa2e35f9bc9af57323eaf9e119bef9eaf9de04ec4ef616ad13d092b2b4d955faadbe5e662d3fd789fe79bea1f509bd13249b31394e7e99723f00000000000000000000000000000000000000000000000000000000000000000000000000000000000000000000000000000000000000000000000000010001be6b6d487482658afce52c09433f95d1743a8965965d6fc5608cbcc873c65781f1191f3474f7414dc5a8dfd4604cd822fb450669a6d77b1183708acd72e19e310a59b61ddc576e33204c1f9123d080536fe326a62b0355be399aca57f110f8e61102c68e74fb24f7c6853d5a1ab83d5d382fe410c51768d3e51a851763353f23ce30c0f66a997a2192ca332f279ec5b5aaf99ebf48c2604c8fc21b63cf64bbc9fe6dae82ed9e737acb77663d5ce9e26e259baf166480ea12d205f494892da862c400d76bf550439fd8b967729eb2404a8c681f69ce7d60b4d4503f5e691cbd3306f206d0182d55db2d0f83695cd981e9f57ce2fb32e9e10074d9d6e0f73f8164f7d22f0ede08b43d9195e21c7dc5a69189f7a1dd2bba5dceda880b4e72c3e58bafb8659bdbf8b5cac9218d848df3916a16699b67f661c576c5ff720b715db9da84aeb2719d4e973b2b3aa2c52ba4aa5bddeef3944b2ea28d7378187937fd56dc6b8fd40098de497e59aa9b17bbf45342b9d82bfcf4995c5c25db61c339090d587e8f7cb695f4cfa3794a533e0200d4cf522311141f5a57cdce3097bb4fe3595a0cf067b048935fb4346dde2d4084247007957314b07988d4d609d78847ebf255a7167bd39954b0b53794fc679497bbf49dac675ac062c2eb5ef2d4e25879535789fd26ff4bb2ca9a96e5862e7fae0bdda136c6a2d7f6bf8e553c128d4acd3efb6bc3273c5fc473e67c1c80b13a6d04138a4dfa9bd185a6b2e5f4adde0ea9556513613426f2a435f2e76b717c1c9b15d40cf2b89893aadea64d86a86198946141000000000000000000000000000000000000000000000000000000000000000000000000000000000000000000000000000000000000ffff0ccd0000000000000000000000000000000000000000000000000000000000000000000000000000000000000000000000040000000000010000000100000000000000000000000100000000000000000000000000000000ffffffffffffffffffffffff0000000000000000000000700000000000000100000000010000001c0a0100000000000200000000000000000000000000000000ffffffffffffffff000000020000000000000000000000e00000000000000000000000200000001c000000000000000100000000000000000000000000000000000000000000000000000000000000000000000000000000000000000000000000000000000000000000000000000380000000000000018000000000000001400000000000000100000000000000008000000000000000010000000100000002000100010201ffff000001c04e414d4c
/-- Its payload: the weights, the scales. -/
def tinPayload : List Byte :=
  leBytes 368
    0x3f8000003f8000003f8000003f8000003f8000003f8000003f8000003f8000003f8000003f8000003f8000003f8000003f8000003f8000003f8000003f8000003f8000003f8000003f8000003f8000003f8000003f8000003f8000003f8000003f8000003f8000003f8000003f80000000000000000000000000000000000000000000000000000000000000000000005555555555555554555555555555555455555555555555545555555555555554555555555555555455555555555555545555555555555554555555555555555455555555555555545555555555555554555555555555555455555555555555545555555555555554555555555555555455555555555555545555555555555554555555555555555455555555555555545555555555555554555555555555555455555555555555545555555555555554555555555555555455555555555555545555555555555554555555555555555455555555555555545555555555555554

/-- The container as bytes. -/
def tinBytes : List Byte := tinHeader ++ List.replicate 4032 0 ++ tinManifest ++ List.replicate 2560 0 ++ tinPayload

/-- A provisioned part, the container in its boot NVM at 8 KiB, the hash of its key burnt. -/
def tinFlashed : State :=
  { idlePart with
    boot := { idlePart.boot with lcs := 1 }
    nv := { idlePart.nv with lcs := 1, tinKeyHash := some keyHash, nvm := { idlePart.nv.nvm with
      tinPage := 65536
      sectors := [(0, bootHeader [(4096, 0), (4096, 0), (8192, 8560)]), (2, tinBytes.take 4096), (3, (tinBytes.drop 4096).take 4096),
        (4, tinBytes.drop 8192)] } } }

theorem test_tin_container_bytes : nvmItem 3 tinFlashed.nv.nvm = some tinBytes := by decide +kernel

theorem witness_TinSoldierModeIsLeft_container : nvmContainer tinFlashed = some (parseContainer tinBytes 65536) := by
  unfold nvmContainer
  rw [test_tin_container_bytes]
  rfl

/-- R196, R198, R201: its header, signature, tables and payload pass. -/
theorem test_tin_container_passes : containerOk (parseContainer tinBytes 65536) tinFlashed = true := by decide +kernel

/-- R32: weight (0, 0) of every channel is 0b00, every other one 0b01: each column sums to 31. -/
theorem test_column_weight_sums :
    ((placedAt (parseManifest tinManifest 65536) 0 4 0).map fun x => x.sums [(0, tinPayload)]) = some (List.replicate 28 31)
      ∧ (placedAt (parseManifest tinManifest 65536) 0 4 1).isNone = true := by decide +kernel

theorem witness_TinSoldierModeIsLeft_other : containerOk (parseContainer [] 0) tinFlashed = false := by decide +kernel

theorem witness_PartsHaltAndRefuseWrongKeys : reaches (.core 0) service ∧ service.cxl.d3hot = false ∧ rd PWR_STATE.state service = 0 ∧ rd GLB_STATE.state service ≠ 5
    ∧ (0x0651 : BitVec 16) ≠ 0x0650 ∧ rd (MEM_HBM_STAT.state 11) service = 2 ∧ rd GLB_CMD.status (after (.halt .host 0x0651) service) = 2 := by
  decide +kernel

/-! ## The measurement converter -/

/-- A conversion of channel 53 by scan entry 0, whose last channel is 54. -/
def converting : State :=
  let s := put [(MCV_CTL.fw_fifo, 1)] State.reset
  { s with mcv := { s.mcv with conv := some (0, 53), content := BitVec.ofNat 64 (64 * 54), fifo := List.replicate 63 9 } }

theorem witness_ConversionsAreStored : converting.mcv.conv = some (0, 53) ∧ 52 < 53 ∧ 53 < converting.mcv.content.toNat / 64 % 64
    ∧ pushes 0 converting = true ∧ converting.mcv.fifo.length < 64 ∧ reaches (.core 1) converting ∧ barClosed .host converting = false
    ∧ wone MCV_CTL.flush ⟨.core 1, .full, BitVec.ofNat 64 (2 ^ MCV_CTL.flush.lo)⟩ = true
    ∧ (after (.conversionResult 100 false) converting).mcv.conv = some (0, 54)
    ∧ correctResult 5 true converting = (8388607, true) ∧ correctResult (-1) true converting = (-8388608, true)
    ∧ (after (.fifoRead .host .lower) converting).mcv.fifo.length = 63 ∧ (after (.fifoRead (.mover 0) .upper) converting).mcv.fifo.length = 62 := by
  decide +kernel

theorem witness_ConverterCommandsAndItsBuffer_commands :
    let s := put [(MCV_CTL.run, 1), (MCV_SCAN.en 0, 1), (MCV_SCAN.first 0, 53), (MCV_SCAN.last 0, 53)] service
    rd MCV_STAT.cal_busy s = 0 ∧ rd MCV_CTL.run s = 1 ∧ rd (MCV_SCAN.en 0) s = 1 ∧ rd (MCV_SCAN.first 0) s ≤ rd (MCV_SCAN.last 0) s
      ∧ rd GLB_STATE.state s = 2 ∧ s.nv.lcs ≠ 2 ∧ s.cxl.d3hot = false ∧ (after (.scanRestart ⟨.core 0, .full, 2⟩) s).mcv.conv = some (0, 53) := by
  decide +kernel

/-- Entry 0 is where the scan was interrupted. -/
def interrupted : State := put [(MCV_REFBUF.en, 0), (MCV_SCAN.en 0, 1), (MCV_SCAN.first 0, 53), (MCV_SCAN.last 0, 54)] State.reset

theorem witness_ConverterCommandsAndItsBuffer_resumed : rd MCV_REFBUF.en interrupted = 0 ∧ interrupted.mcv.resumeAt = 0
    ∧ rd PWR_STATE.state interrupted ≠ 4 ∧ (0 : Nat) < 24 ∧ rd (MCV_SCAN.en 0) interrupted = 1 ∧ rd (MCV_SCAN.first 0) interrupted ≤ rd (MCV_SCAN.last 0) interrupted
    ∧ (after (.refbufEnable ⟨.core 0, .full, 1⟩) interrupted).mcv.conv = some (0, 53) := by decide +kernel

theorem witness_ConverterCommandsAndItsBuffer_buffer : rd MCV_REFBUF.en (put [(MCV_REFBUF.en, 1)] State.reset) = 1
    ∧ rd MCV_REFBUF.en (put [(MCV_REFBUF.en, 1), (MCV_STAT.cal_busy, 1)] State.reset) = 1
    ∧ rd MCV_STAT.cal_busy (put [(MCV_REFBUF.en, 1), (MCV_STAT.cal_busy, 1)] State.reset) = 1
    ∧ rd PWR_STATE.state (put [(MCV_REFBUF.en, 1)] State.reset) ≠ 4
    ∧ rd BOOT_STAT.stage (put [(MCV_REFBUF.en, 1)] State.reset) ≠ 3 ∧ rd GLB_STATE.state (put [(MCV_REFBUF.en, 1)] State.reset) ≠ 4
    ∧ rd MCV_STAT.cal_ok (put [(MCV_REFBUF.en, 1), (BOOT_STAT.stage, 3), (MCV_STAT.cal_ok, 1)] State.reset) = 1
    ∧ rd MCV_STAT.cal_ok (put [(MCV_REFBUF.en, 1), (BOOT_STAT.stage, 3)] State.reset) = 0
    ∧ rd BOOT_STAT.stage (put [(MCV_REFBUF.en, 1), (BOOT_STAT.stage, 3)] State.reset) = 3
    ∧ rd GLB_STATE.state (put [(MCV_REFBUF.en, 1), (BOOT_STAT.stage, 3)] State.reset) = 0
    ∧ (put [(MCV_REFBUF.en, 1), (BOOT_STAT.stage, 3)] State.reset).boot.warm = false
    ∧ ({ State.reset with boot := { State.reset.boot with warm := true } } : State).boot.warm = true := by decide +kernel

/-- A self-calibration runs on a settled buffer. -/
def calibrating : State := put [(MCV_STAT.cal_busy, 1), (MCV_REFBUF.settled, 1), (MCV_CTL.run, 0), (MCV_SCAN.en 0, 1), (MCV_SCAN.first 0, 53),
  (MCV_SCAN.last 0, 54)] State.reset

theorem witness_SelfCalibrationsAndReferenceChecks_selfCal : rd MCV_STAT.cal_busy calibrating = 1 ∧ rd MCV_REFBUF.settled calibrating = 1
    ∧ rd (MCV_SCAN.en 0) calibrating = 1 ∧ rd (MCV_SCAN.first 0) calibrating ≤ rd (MCV_SCAN.last 0) calibrating ∧ rd THM_STAT.guard calibrating = 0 ∧ rd BOOT_STAT.stage calibrating ≠ 3
    ∧ rd GLB_STATE.state calibrating ≠ 4 ∧ calibrating.thm.calFails ≠ 1 := by decide +kernel

/-- The offset at the end of its range, −65,536 codes: the sums of 9 outputs; the gain is 1, the residue 8 codes. -/
theorem witness_SelfCalibrationsAndReferenceChecks_passes :
    let zero : Int := -9 * 65536
    let full : Int := zero + 9 * 6291456
    let offset := rneRat (16 * (zero : Rat) / 9)
    let gain := (rneRat (6291456 * 9 * 2 ^ 30 / ((full - zero : Int) : Rat))).toNat
    offset = -1048576 ∧ gain = 2 ^ 30 ∧ offset.natAbs ≤ 1048576 ∧ 98 * 2 ^ 30 ≤ 100 * gain ∧ 100 * gain ≤ 102 * 2 ^ 30 ∧ ¬ full ≤ zero
      ∧ (rneRat (((-65528 : Rat) - (offset : Rat) / 16) * ((gain : Rat) / 2 ^ 30))).natAbs ≤ 8
      ∧ 8 < (rneRat (((-65527 : Rat) - (offset : Rat) / 16) * ((gain : Rat) / 2 ^ 30))).natAbs
      ∧ rd MCV_STAT.cal_ok (after (.selfCalComplete zero full (-65528)) calibrating) = 1
      ∧ rd MCV_STAT.cal_ok (after (.selfCalComplete zero full (-65527)) calibrating) = 0 := by decide +kernel

/-- Usable results of channels 53 and 54. -/
def referenceRead (buffer code : Nat) : State :=
  setReg (MCV_RESULT 53) (BitVec.ofNat 64 (2 ^ 63 + buffer)) (setReg (MCV_RESULT 54) (BitVec.ofNat 64 (2 ^ 63 + code)) State.reset)

theorem witness_SelfCalibrationsAndReferenceChecks_reference :
    usableResult ((referenceRead 4194304 4026532).reg (MCV_RESULT 53)) = true
      ∧ usableResult ((referenceRead 4194304 4026532).reg (MCV_RESULT 54)) = true
      ∧ vrefEstimate (signed 24 ((referenceRead 4194304 4026532).reg (MCV_RESULT 54)).toNat) (referenceRead 4194304 4026532) = 1250000
      ∧ (signed 24 ((referenceRead 4196401 4026532).reg (MCV_RESULT 53)).toNat - 2 ^ 22 : Int) = 2097
      ∧ vrefEstimate (signed 24 ((referenceRead 4194304 4006496).reg (MCV_RESULT 54)).toNat) (referenceRead 4194304 4006496) = 1256251
      ∧ rd CAL_REF.fails (referenceRead 4194304 4006496) < 2
      ∧ rd CAL_REF.warn (after .referenceCheck (referenceRead 4194304 4006496)) = 1
      ∧ rd CAL_REF.warn (after .referenceCheck (referenceRead 4196401 4026532)) = 0 := by decide +kernel

/-! ## Calibration -/

/-- A block of the part in service. -/
def withBlock (region block : Nat) (b : Block) : State := { service with blocks := [(blockKey region block, b)] }

/-- A spare block of region 3, which holds the test pattern; its pass has run `n` slots. -/
def inPass (n : Nat) : State := withBlock 3 1311 { Block.init with pass := some (.scheduled, n, 1) }

theorem witness_CalibrationPassesRun_slots : knownBlock 3 1311 (inPass 1023) = true ∧ knownBlock 0 0 service = false
    ∧ (blockAt 3 1311 (inPass 1023)).pass = some (.scheduled, 1023, 1) ∧ (blockAt 3 1311 (inPass 1023)).rewriting = false
    ∧ (blockAt 3 1311 (inPass 1023)).retired = false ∧ gatedInTin 3 (inPass 1023) = false ∧ uniformOnly 3 (inPass 1023) = false
    ∧ (blockAt 0 0 service).driftNext = 64 * 0 + 0 ∧ (blockAt 0 0 service).noMonitor.contains 0 = false
    ∧ ({ Block.init with driftNext := 32766 } : Block).driftNext = 64 * 511 + 62
    ∧ gatedInTin 49 (put [(GLB_STATE.state, 3)] service) = true ∧ gatedInTin 50 (put [(GLB_STATE.state, 3)] service) = false := by
  decide +kernel

theorem witness_CalibrationPassesRun_arrays : readableArrays 3 1311 (inPass 1023) ≠ [] := by decide +kernel

/-- A pass waits: an immediate one goes first. -/
theorem witness_CalibrationPassesRun_queued :
    nextPass (blockAt 3 1311 (withBlock 3 1311 { Block.init with passes := [.lookAhead, .immediate] })) = some .immediate
      ∧ (blockAt 3 1311 (withBlock 3 1311 { Block.init with passes := [.lookAhead, .immediate] })).pass = none := by decide +kernel

/-- Scheduled passes are on and the band's interval of 10 s, the least it can be, has just passed. -/
def passDuePart (now : Nat) : State := { put [(CAL_CTL.sched_en, 1), (CAL_SCHED.interval 1, 0)] service with now := now }

theorem witness_CalibrationPassesRun_due : rd (RGN_STATE.band 3) (put [(RGN_STATE.band 3, 1)] (passDuePart (10 * second))) = 1
    ∧ passDue 3 1311 (put [(RGN_STATE.band 3, 1)] (passDuePart (10 * second))) = true
    ∧ passDue 3 1311 (put [(RGN_STATE.band 3, 1)] (passDuePart (10 * second - 1))) = false
    ∧ (blockAt 3 1311 (passDuePart 0)).passes = [] ∧ nextPass (blockAt 3 1311 (passDuePart 0)) = none := by decide +kernel

theorem witness_CalibrationPassesRun_end : (blockAt 3 1311 (inPass 1024)).pass = some (.scheduled, 1024, 1) ∧ aheadPass .scheduled = false
    ∧ (inPass 1024).srv.running.isSome = true := by decide +kernel

/-- A region of the part in service. -/
def withRegion (region : Nat) (r : Region) : State := { service with regions := [(region, r)] }

theorem witness_CalibrationPassesRun_deep : (regionAt 3 (withRegion 3 { Region.init with affected := true, want := [.deep] })).affected = true
    ∧ (regionAt 3 service).affected = false ∧ reaches .host service ∧ rd BOOT_STAT.lock service = 0
    ∧ wone CAL_CTL.req (hostW (2 ^ CAL_CTL.req.lo + 51 * 2 ^ CAL_CTL.req_region.lo)) = true
    ∧ 51 = fget CAL_CTL.req_region (wdata (hostW (2 ^ CAL_CTL.req.lo + 51 * 2 ^ CAL_CTL.req_region.lo))) := by decide +kernel

theorem witness_RewritesSweepsAndVectorSets_age : ({ service with now := thirtyDays } : State).srv.running.isSome = true
    ∧ tget 0 (blockAt 51 1311 { service with now := thirtyDays }).written (511 : Fin 512).val + thirtyDays
        ≤ ({ service with now := thirtyDays } : State).now
    ∧ service.now < tget 0 (blockAt 51 1311 service).written 511 + thirtyDays := by decide +kernel

/-- A rewrite with every row written. -/
def rewritten_ : Block := { Block.init with rewriting := true, journal := some ⟨2, 16384, 0⟩ }

theorem witness_RewritesSweepsAndVectorSets_rewrite : (blockAt 3 1311 (withBlock 3 1311 rewritten_)).rewriting = true
    ∧ (blockAt 3 1311 (withBlock 3 1311 rewritten_)).journal = some ⟨2, 16384, 0⟩ ∧ (blockAt 3 1311 service).rewriting = false
    ∧ (withBlock 3 1311 rewritten_).srv.running.isSome = true
    ∧ ({ rewritten_ with journal := some ⟨2, 16383, 0⟩ } : Block).journal ≠ some ⟨2, 16384, 0⟩ := by decide +kernel

theorem witness_RewritesSweepsAndVectorSets_warmup : (blockAt 3 5 (withBlock 3 5 { Block.init with mvms := 1000000 })).mvms = 1000000
    ∧ (blockAt 3 5 (withBlock 3 5 { Block.init with mvms := 999999 })).mvms < 1000000
    ∧ service.pwr.operated < (blockAt 3 5 service).warmFrom + 600 * second ∧ (blockAt 3 5 service).retired = false
    ∧ (blockAt 3 5 (withBlock 3 5 { Block.init with retired := true })).retired = true := by decide +kernel

/-- The vector sets are on. -/
def setsOn : State := put [(CHK_ABACUS_CTL.en, 1)] service

theorem witness_RewritesSweepsAndVectorSets_sets : runsSets 49 1311 setsOn = true ∧ rd CHK_ABACUS_CTL.en setsOn = 1
    ∧ gatedInTin 49 setsOn = false ∧ runsSets 0 0 setsOn = false ∧ rd CHK_ABACUS_CTL.en (put [(CHK_ABACUS_CTL.en, 0)] service) = 0
    ∧ runsSets 51 1311 setsOn = false := by decide +kernel

/-! ## Recipes -/

/-- A window that ends: step 7 is committed, region 3 has counted groups of layer 0 of slot 1. -/
def windowPart (sats : Nat) : State :=
  let s := recipePart 0 0 1
  { s with srv := { s.srv with running := none }, regions := [(3, { Region.init with counts := [(65536, (4096, 0, sats))] })] }

theorem witness_RecipeWindowsFlagsAndStages_window : windowsEnded (windowPart 4000) = 1 ∧ (regionAt 3 (windowPart 4000)).windowsDone = 0
    ∧ recipeWindow (windowPart 4000) = 8 ∧ (regionAt 3 (windowPart 4000)).counts = [(65536 * 1 + 0, (4096, 0, 4000))]
    ∧ (recipeAt 1 0 (wasWide 1 0 (windowPart 4000)) (windowPart 4000)).any
        (fun q => trips q (4096, 0, 4000) (windowPart 4000) != (false, false)) = true
    ∧ (recipeAt 1 0 (wasWide 1 0 (windowPart 0)) (windowPart 0)).any
        (fun q => trips q (4096, 0, 0) (windowPart 0) == (false, false)) = true
    ∧ ((regionAt 3 (after (.recipeWindowEval 3) (windowPart 4000))).flags.map (·.layer)) = [0]
    ∧ (regionAt 3 (after (.recipeWindowEval 3) (windowPart 0))).flags = [] := by decide +kernel

/-- A region with a flag. -/
def flagPart (s : State) : State := { s with regions := [(3, { Region.init with flags := [⟨1, 0, false, true, false, 7⟩] })] }

/-- A mirrored pair. -/
def paired_ (s : State) : State := put [(PAIR_STAT.state, 3), (PAIR_CTL.mode, 0)] s

theorem witness_RecipeWindowsFlagsAndStages_pop : reaches .host service
    ∧ wone (RGN_RECIPE_FLAG.pop 3) (hostW (2 ^ (RGN_RECIPE_FLAG.pop 3).lo)) = true
    ∧ isManager .host (recipePart 0 0 1) = true ∧ isManager (.core 0) (recipePart 0 0 1) = false ∧ isManager (.core 0) service = true
    ∧ mirrored (flagPart service) = false ∧ mirrored (paired_ (flagPart service)) = true ∧ hostManages (paired_ (flagPart service)) = false
    ∧ (regionAt 3 (flagPart service)).flags = [⟨1, 0, false, true, false, 7⟩] ∧ (regionAt 3 service).flags = []
    ∧ (recipeAt (1 : Fin 4) 0 true (recipePart 0 0 1)).isSome = true ∧ recipeAt (2 : Fin 4) 0 true (recipePart 0 0 1) = none
    ∧ hostManages service = false ∧ barClosed .host service = false := by decide +kernel

theorem witness_RecipeWindowsFlagsAndStages_stage :
    let s := { put [(SRV_STAT.stage, 3)] service with srv := { service.srv with quiet := 64 } }
    0 < rd SRV_STAT.stage s ∧ stormQuiet s ≤ s.srv.quiet ∧ rd SRV_STAT.stage (after .stageReturn s) = 2
      ∧ rd SRV_STAT.stage service = 0 := by decide +kernel

/-! ## Integrity -/

/-- A comparison whose first value is off by `d`. -/
def aShadow (d : Int) : Shadow := ⟨7, 5, 3, true, 4, ⟨aMvm, 5, .a8, [], 0, .tw, [], 1, 0, 0, 0, 1, false⟩, [d, 3], [0, 3], 1, 1, 768, false, 0⟩

theorem witness_ShadowComparisonsJudge :
    (regionAt 3 (withRegion 3 { Region.init with shadows := [aShadow 0] })).shadows = [aShadow 0] ∧ (aShadow 0).window = false
      ∧ (∀ d ∈ deviations (aShadow 0) [], d = 0) ∧ (regionAt 3 service).shadows = [] ∧ (aShadow 100000).analogue = true
      ∧ shadowTol (aShadow 100000).rEff service * shadowTol (aShadow 100000).rEff service
          < rhoSquared (aShadow 100000) (deviations (aShadow 100000) [])
      ∧ service.srv.running = some aStep ∧ (aShadow 0).step ≤ aStep.num ∧ (aShadow 0).step ≠ 0
      ∧ ({ aShadow 100000 with step := 0 } : Shadow).step = 0 ∧ (blockAt 3 5 service).retired = false ∧ aStep.num ≠ 0 ∧ (blockAt 3 5 service).window = none
      ∧ (regionAt 3 (withRegion 3 { Region.init with want := [.engineTest] })).want.contains .engineTest = true
      ∧ (regionAt 3 service).want.contains .engineTest = false := by decide +kernel

/-- Rattle tests are on, region 48 is next. -/
def rattlePart : State := put [(CHK_RATTLE_CTL.en, 1), (CHK_RATTLE_CTL.next, 48)] service

theorem witness_RattleTestsRun_start : rattleTarget rattlePart = some (48 : Fin 52).val ∧ rd CHK_RATTLE_STAT.running rattlePart = 0
    ∧ rattleBlocked 48 rattlePart = false ∧ rattleNeedsCover 48 rattlePart = false
    ∧ rd CHK_RATTLE_STAT.running (put [(CHK_RATTLE_STAT.running, 1)] rattlePart) ≠ 0 := by decide +kernel

theorem witness_RattleTestsRun_blocked : rattleTarget (put [(THM_STAT.level, 1)] rattlePart) = some (48 : Fin 52).val
    ∧ rattleBlocked 48 (put [(THM_STAT.level, 1)] rattlePart) = true := by decide +kernel

theorem witness_RattleTestsRun_end : rd CHK_RATTLE_STAT.running (put [(CHK_RATTLE_STAT.running, 1), (CHK_RATTLE_STAT.region, 48)] service) ≠ 0
    ∧ service.srv.running.isSome = true ∧ wone (RGN_CTL.rattle 51) (hostW (2 ^ (RGN_CTL.rattle 51).lo)) = true
    ∧ wone (RGN_CTL.reset 51) (hostW (2 ^ (RGN_CTL.rattle 51).lo)) = false ∧ regionDown 51 service = false
    ∧ wone (RGN_CTL.rattle 51) (hostW (2 ^ (RGN_CTL.reset 51).lo)) = false ∧ reaches .host service
    ∧ wone (RGN_CTL.reset 51) (hostW (2 ^ (RGN_CTL.reset 51).lo)) = true ∧ debugMode service = false := by decide +kernel

/-- Spare region 48 is being brought up for region 3, which no generation uses; `n` qualifications have failed. -/
def bringing (n : Nat) : State := withRegion 48 { Region.init with bringUp := some 3, qualFails := n }

theorem witness_ResetsSparesAndScrubs : (recent (600 * second) (regionAt 3 (withRegion 3 { Region.init with resets := [0] })).resets service).length < 2
    ∧ (0 : Fin 3) ≠ 1 ∧ (1 : Word) ≠ 0 ∧ (1 : Word) ≠ 2 ∧ debugMode { service with nv := { service.nv with lcs := 2 } } = true
    ∧ (regionAt 3 (withRegion 3 { Region.init with want := [.reset] })).want.contains .reset = true
    ∧ (regionAt 3 service).want.contains .reset = false ∧ (regionAt 48 (bringing 2)).bringUp = some 3
    ∧ (regionAt 48 (bringing 2)).qualFails < 3 ∧ 3 ≤ (regionAt 48 (bringing 3)).qualFails ∧ regionDown 49 (bringing 3) = false
    ∧ rd CHK_RETIRED.s1_serves (bringing 3) = 0x3F ∧ (regionAt 48 service).bringUp = none ∧ service.srv.running.isSome = true := by decide +kernel

theorem witness_ResetsSparesAndScrubs_written : regionWritten 48 3 (bringing 2) = true := by decide +kernel

/-- A block of region 3 holds the tier of a resident generation that its spare block does not. -/
theorem witness_ResetsSparesAndScrubs_unwritten :
    regionWritten 48 3 { put [(WLD_GEN.state 2, 3), (WLD_GEN.gen 2, 5)] (bringing 2) with
      blocks := [(blockKey 3 0, { Block.init with tiers := [(0, ⟨5, true, 2, 0⟩)] })] } = false := by decide +kernel

/-! ## Weights -/

/-- The header of a container of generation 5 that places one tile of ternary weights on block 4 of region 3. -/
def genHeader : List Byte :=
  leBytes 64
    0x1700000000000002000000000000000060000000000000010000000000100000005020000014e53554c

/-- Its manifest. -/
def genManifest : List Byte :=
  leBytes 1536
    0x9665a4347cad9989453e6cdcb080ad6d20dec9bffa6e237c342bfc2552f4dc0c37893fa2bfd6ca787167748edddc7b806d984b9b28d6caa2e060d6b7fd877ac52969b13a66a980080b0589278ab0e2c5d3620636ca58c536e8fadcd5c7334809fd935d50d04ad646119b4d1fa2852e419e3613a129f55dc81770571c38dd17876ca5f91d65ec2bb6660ae1fb1baf01268214d0ad7f26779c7da94c0d98c1758a6867f0c3bda18a93f8fe22f6ff8cc5dc0207a4ef41cbb8464c5c14e4e9592945cf590a7d53df52987c54c6de103f1a089e784a8f98b60bdc1694b4e48d5f20b826a6cd0e3ffd791db9151367a1ebd2ef37e5bc9b654d7105c244dfaf3744bf6785a31f29f7bd8a0fea0024da4d89f94f37cfe20d61509a60f04f9953b47e12aeeff10bcb54b76ce9dc1bd955b0e49aa403eb7a4872c2f92753b9ac0716f9adc0eaa1ee4736ec33c2cbde13eb26c5bd68f976059cf2c189b37707eeeb3288fa05991898c254728e71ac82d5d6b9b39dd1e2e692a3bb44cc548e378d54886d5ca077b320669ebc6ab5ee10a2a32a50026e084118b44d5a35c94d041997217d1c115af764eb83d3fd4890157f596365dd4a52bc9e544fd8313d3cee03c3464155fe8e4b17aee4ad2dfcc204b07044450ddbd85c407e8696bf0f475455d81bbccc1575047853968d6e2537ca50c4a6126056a478fd48af736bc7fc9560b22dda46f00000000000000000000000000000000000000000000000000000000000000000000000000000000000000000000000000000000000000000000000000010001be6b6d487482658afce52c09433f95d1743a8965965d6fc5608cbcc873c65781f1191f3474f7414dc5a8dfd4604cd822fb450669a6d77b1183708acd72e19e310a59b61ddc576e33204c1f9123d080536fe326a62b0355be399aca57f110f8e61102c68e74fb24f7c6853d5a1ab83d5d382fe410c51768d3e51a851763353f23ce30c0f66a997a2192ca332f279ec5b5aaf99ebf48c2604c8fc21b63cf64bbc9fe6dae82ed9e737acb77663d5ce9e26e259baf166480ea12d205f494892da862c400d76bf550439fd8b967729eb2404a8c681f69ce7d60b4d4503f5e691cbd3306f206d0182d55db2d0f83695cd981e9f57ce2fb32e9e10074d9d6e0f73f8164f7d22f0ede08b43d9195e21c7dc5a69189f7a1dd2bba5dceda880b4e72c3e58bafb8659bdbf8b5cac9218d848df3916a16699b67f661c576c5ff720b715db9da84aeb2719d4e973b2b3aa2c52ba4aa5bddeef3944b2ea28d7378187937fd56dc6b8fd40098de497e59aa9b17bbf45342b9d82bfcf4995c5c25db61c339090d587e8f7cb695f4cfa3794a533e0200d4cf522311141f5a57cdce3097bb4fe3595a0cf067b048935fb4346dde2d4084247007957314b07988d4d609d78847ebf255a7167bd39954b0b53794fc679497bbf49dac675ac062c2eb5ef2d4e25879535789fd26ff4bb2ca9a96e5862e7fae0bdda136c6a2d7f6bf8e553c128d4acd3efb6bc3273c5fc473e67c1c80b13a6d04138a4dfa9bd185a6b2e5f4adde0ea9556513613426f2a435f2e76b717c1c9b15d40cf2b89893aadea64d86a86198946141000000000000000000000000000000000000000000000000000000000000000000000000000000000000000000000000000000000000ffff0ccd0000000000000000000000000000000000000000000000000000000000000000000000000000000000000000000000040003000000010000000100000000000000000000000100000000000000000000000000000000ffffffffffffffffffffffff0000000000000000000000700000000000000100000000010000001c0a0100000000000200000000000000000000000000000000ffffffffffffffff000000020000000000000000000000e00000000000000000000000200000001c0000000000000001000000000000000000000000000000000000000000000000000000000000000000000000000000000000000000000000000000000000000000000000000003800000000000000180000000000000014000000000000001000000000000000080000000000000000100000001000000020001000102000005000001c04e414d4c

/-- Its payload, one chunk: the weights, the scales. -/
def genPayload : List Byte :=
  leBytes 368
    0x3f8000003f8000003f8000003f8000003f8000003f8000003f8000003f8000003f8000003f8000003f8000003f8000003f8000003f8000003f8000003f8000003f8000003f8000003f8000003f8000003f8000003f8000003f8000003f8000003f8000003f8000003f8000003f80000000000000000000000000000000000000000000000000000000000000000000005555555555555554555555555555555455555555555555545555555555555554555555555555555455555555555555545555555555555554555555555555555455555555555555545555555555555554555555555555555455555555555555545555555555555554555555555555555455555555555555545555555555555554555555555555555455555555555555545555555555555554555555555555555455555555555555545555555555555554555555555555555455555555555555545555555555555554555555555555555455555555555555545555555555555554

/-- A load into slot 2 from host memory, in a phase. -/
def aLoad (phase : Nat) : Load := ⟨2, false, false, 0, 0, 0, 4096, false, decide (1 < phase), [], false, phase⟩

/-- The generation's record: its manifest with a digest named here. -/
def aGen : Gen := { Gen.init with manifest := some { parseManifest genManifest 65536 with digest := 0x123 } }

/-- Slot 2 is LOADING generation 5 with footprint 2. -/
def loadingPart (l : Load) : State :=
  let s := put [(WLD_GEN.state 2, 1), (WLD_GEN.gen 2, 5), (WLD_GEN.footprint 2, 2), (WLD_GEN.offset 2, 0)] service
  { s with wld := { s.wld with load := some l, gens := [(2, if l.verified then aGen else Gen.init)] } }

theorem witness_LoadCommandsAndTheirEnds_load : reaches .host service ∧ rd PWR_STATE.state service = 0 ∧ rd GLB_STATE.state service = 2
    ∧ rd GLB_STATE.rom_runner service = 0 ∧ (loadingPart (aLoad 1)).wld.load.isSome = true ∧ service.wld.load = none
    ∧ rd (WLD_GEN.state 3) service ∈ [0, 5] ∧ rd WLD_SRC.kind service ≤ 1 ∧ rd (WLD_GEN.state 3) service ∉ [2, 3]
    ∧ rd WLD_SRC.kind (put [(WLD_SRC.kind, 3)] service) = 3 ∧ rd WLD_SRC.kind (put [(WLD_SRC.kind, 2)] service) = 2 ∧ service.boot.lcs ≠ 1 := by
  decide +kernel

theorem witness_LoadCommandsAndTheirEnds_slots : rd (WLD_GEN.state 3) (put [(WLD_GEN.state 3, 3)] service) ∈ [2, 3]
    ∧ service.srv.running.isSome = true ∧ rd (WLD_GEN.state 3) (put [(WLD_GEN.state 3, 2)] service) = 2 ∧ pins 3 service = 0
    ∧ rd (WLD_GEN.state 3) (put [(WLD_GEN.state 3, 4)] service) ∈ [0, 3, 4] ∧ rd WLD_SRC.kind service < 2
    ∧ service.wld.load = none ∧ rd (WLD_GEN.state 3) (put [(WLD_GEN.state 3, 5)] service) = 5 := by decide +kernel

theorem witness_LoadCommandsAndTheirEnds_ends : (loadingPart (aLoad 1)).wld.load = some (aLoad 1) ∧ (aLoad 1).slot < 4 ∧ (aLoad 1).resume = false
    ∧ (aLoad 1).kind = 0 ∧ (2 : Fin 4).val = (aLoad 1).slot ∧ rd PWR_STATE.state (loadingPart (aLoad 1)) = 0
    ∧ rd GLB_STATE.state (loadingPart (aLoad 1)) = 2 ∧ rd GLB_STATE.rom_runner (loadingPart (aLoad 1)) = 0 ∧ reaches .host (loadingPart (aLoad 1))
    ∧ (({ loadingPart (aLoad 1) with cxl := { service.cxl with up := false } } : State).cxl.up && service.cxl.bme) = false := by decide +kernel

/-- The part that takes up a manifest; the model key is in force. -/
def takingUp : State :=
  { loadingPart (aLoad 1) with boot := { service.boot with config := { service.boot.config with inForce := true, keys := [keyHash] } } }

theorem witness_LoadsProgress_manifest : takingUp.wld.load = some (aLoad 1) ∧ (takingUp.cxl.up && takingUp.cxl.bme) = true
    ∧ (aLoad 1).verified = false ∧ rd (WLD_GEN.state 2) takingUp = 1 ∧ headerError (aLoad 1) (parseHeader genHeader) takingUp = none
    ∧ (parseHeader genHeader).kind = 0
    ∧ (match placeGen (aLoad 1) (parseHeader genHeader).footprint takingUp with | .ok p => p == (0, false) | .error _ => false) = true
    ∧ takingUp.wld.queued = [] ∧ isLast takingUp = true := by decide +kernel

theorem witness_LoadsProgress_signed : signedOk (parseManifest genManifest 65536) takingUp = true := by decide +kernel

theorem witness_LoadsProgress_tables : manifestOk (parseHeader genHeader) (parseManifest genManifest 65536) = true
    ∧ 0 < (parseManifest genManifest 65536).chunks := by decide +kernel

/-- Version 2; another length; another generation in the slots' places; no key. -/
theorem witness_LoadsProgress_refused : headerError (aLoad 1) (parseHeader (genHeader.set 4 2)) takingUp = some 2
    ∧ headerError (aLoad 1) (parseHeader (genHeader.set 25 5)) takingUp = none
    ∧ manifestOk (parseHeader (genHeader.set 25 5)) (parseManifest genManifest 65536) = false
    ∧ signedOk (parseManifest [] 65536) takingUp = false
    ∧ (match placeGen (aLoad 1) 0 (put [(WLD_GEN.state 1, 3), (WLD_GEN.footprint 1, 0)] takingUp) with | .ok _ => 0 | .error c => c) = 5 := by
  decide +kernel

/-- The load once its manifest has verified; here it has two chunks. -/
def fetching : State :=
  let s := loadingPart (aLoad 2)
  { s with wld := { s.wld with gens := [(2, { aGen with manifest := aGen.manifest.map fun m => { m with chunks := 2 }, verify := [0] })] } }

theorem witness_LoadsProgress_chunks : reloadSlot 0 fetching = none ∧ fetching.wld.load = some (aLoad 2) ∧ (aLoad 2).verified = true
    ∧ ((genAt 2 fetching).manifest.map (·.chunks)) = some 2 ∧ (genAt 2 fetching).chunks.contains 0 = false
    ∧ (fetching.cxl.up && fetching.cxl.bme) = true ∧ (genAt 2 fetching).chunks.length + 1 < 2 ∧ fetching.wld.queued = [] ∧ isLast fetching = true
    ∧ ((genAt 2 fetching).manifest.map fun m => (hashOk m 0 genPayload, payloadOk m (tset [] (genAt 2 fetching).payload 0 genPayload) 0))
        = some (true, true)
    ∧ ((genAt 2 fetching).manifest.map fun m => hashOk m 0 []) = some false := by decide +kernel

theorem witness_LoadsProgress_fetched : rd WLD_STAT.chunks_done (after (.chunkFetched 0 (some genPayload)) fetching) = 1
    ∧ rd WLD_STAT.code (after (.chunkFetched 0 (some [])) fetching) = 4 ∧ rd WLD_STAT.code (after (.chunkFetched 0 none) fetching) = 11 := by
  decide +kernel

/-- R58: a chunk of its manifest's hash that holds the code 0b10 of a ternary tensor. -/
theorem witness_LoadsProgress_reserved :
    let b := List.replicate 368 0xAA
    let m := { parseManifest genManifest 65536 with hashes := [sha512 b] }
    hashOk m 0 b = true ∧ payloadOk m [(0, b)] 0 = false := by decide +kernel

/-- Chunk 0 of a generation in service is to be reloaded. -/
def reloading : State :=
  let s := put [(WLD_GEN.state 2, 3)] fetching
  { s with wld := { s.wld with load := none, gens := [(2, { aGen with reload := [0] })] } }

theorem witness_LoadsProgress_reload : reloadSlot 0 reloading = some 2 ∧ (genAt 2 reloading).manifest.isSome = true
    ∧ reloading.wld.load = none ∧ reloading.srv.running.isSome = true ∧ reloading.regions = []
    ∧ (genAt 2 (after (.chunkFetched 0 (some genPayload)) reloading)).reload = []
    ∧ (genAt 2 (after (.chunkFetched 0 (some [])) reloading)).sourceLost = true := by decide +kernel

/-- After a warm reset the chunk that was held is verified again. -/
def verifying (more : List Nat) : State :=
  let s := put [(WLD_GEN.resident 2, 1)] (loadingPart (aLoad 2))
  { s with wld := { s.wld with load := none, gens := [(2, { aGen with verify := 0 :: more, payload := [(0, genPayload)], blocksDone := [3844] })] } }

theorem witness_LoadsProgress_again : (genAt 2 (verifying [1])).verify.contains 0 = true ∧ (genAt 2 (verifying [1])).verify.filter (· != 0) ≠ []
    ∧ (genAt 2 (verifying [1])).source.1 = 0 ∧ (genAt 2 service).verify.contains 0 = false
    ∧ (verifying []).wld.load = none ∧ (verifying []).wld.queued = [] ∧ (genAt 2 (verifying [])).verify.filter (· != 0) = []
    ∧ (genAt 2 (verifying [])).reload = [] ∧ rd (WLD_GEN.state 2) (verifying []) = 1 ∧ rd (WLD_GEN.resident 2) (verifying []) = 1
    ∧ (genAt 2 (verifying [])).wasActive = false
    ∧ ((genAt 2 (verifying [])).manifest.map fun m => (mainBlocks m, m.chunks)) = some ([3844], 1)
    ∧ rd (WLD_GEN.state 2) (after (.chunkReverified 2 0) (verifying [])) = 2 := by decide +kernel

theorem witness_LoadsProgress_slots : reaches .host service ∧ (wbits WLD_ACTIVE.none (hostW 4) service != 0) = true
    ∧ wbits WLD_ACTIVE.slot (hostW 3) service = 3
    ∧ (wbits WLD_ACTIVE.none (hostW 3) service != 0) = false ∧ (hostW 3).half ≠ .upper
    ∧ rd (WLD_GEN.state 3) (put [(WLD_GEN.state 3, 2)] service) ∈ [2, 3] ∧ rd (WLD_GEN.state 3) service ∉ [2, 3]
    ∧ service.srv.running.isSome = true ∧ rd (WLD_GEN.state 3) (put [(WLD_GEN.state 3, 4)] service) = 4
    ∧ rd (WLD_GEN.state 3) service ≠ 4 := by decide +kernel

/-- The load programs block 4 of region 3. -/
def programming : State := loadingPart (aLoad 4)

theorem witness_BlocksAreProgrammed_start : (blockAt 3 4 programming).journal = none ∧ programming.wld.load = some (aLoad 4)
    ∧ (3, 4) ∉ sparesWaiting programming ∧ programmingNow programming + (sparesWaiting programming).length < programLimit programming
    ∧ forKeep 3 4 programming = false ∧ forLoad 3 4 programming = true ∧ blockInUse 3 4 programming = false
    ∧ genTiers (rd (WLD_GEN.gen 2) programming) (rd (WLD_GEN.footprint 2) programming) (rd (WLD_GEN.offset 2) programming) 0x123
        = [(0, ⟨5, false, 2, 0x123⟩)]
    ∧ resumes Block.init [(0, ⟨5, false, 2, 0x123⟩)] = false
    ∧ (blockAt 3 4 (after (.blockProgramStart 3 4) programming)).journal = some ⟨1, 0, 5⟩ := by decide +kernel

/-- Block 1311 of region 3 is the spare assigned to its block 4, which holds generation 5. -/
def spared : State :=
  let s := put [(WLD_GEN.state 2, 3), (WLD_GEN.master 2, 1)] programming
  { s with
    wld := { s.wld with load := none }
    regions := [(3, { Region.init with spareFor := [(4, 1311)] })]
    blocks := [(blockKey 3 4, { Block.init with tiers := [(0, ⟨5, true, 2, 0x123⟩)] })] }

theorem witness_BlocksAreProgrammed_spare : (blockAt 3 1311 spared).journal = none ∧ sparesWaiting spared = [(3, 1311)]
    ∧ programmingNow spared < programLimit spared ∧ spareJob 3 1311 spared = some (3, 4)
    ∧ missingTiers 3 1311 (3, 4) spared = [(0, ⟨5, true, 2, 0x123⟩)]
    ∧ resumes (blockAt 3 1311 spared) (missingTiers 3 1311 (3, 4) spared) = false
    ∧ (blockAt 3 1311 (after (.blockProgramStart 3 1311) spared)).journal = some ⟨3, 0, 0⟩ := by decide +kernel

/-- Block 4 of region 3 is being programmed, at row `k`. -/
def journalled (k : Nat) : State :=
  { programming with blocks := [(blockKey 3 4, { Block.init with journal := some ⟨1, k, 5⟩, tiers := [(0, ⟨5, false, 2, 0x123⟩)] })] }

theorem witness_BlocksAreProgrammed_rows : (blockAt 3 4 (journalled 31)).journal = some ⟨1, 31, 5⟩ ∧ (blockAt 3 4 (journalled 31)).retired = false
    ∧ (blockAt 3 4 (journalled 31)).journal.isSome = true ∧ 31 = 32 * (0 : Fin 512).val + (31 : Fin 32).val
    ∧ ((blockAt 3 4 (journalled 31)).tiers.find? fun t => t.1 == (0 : Fin 512).val / 128 && t.2.gen != 0) = some (0, ⟨5, false, 2, 0x123⟩)
    ∧ (tierTile ⟨5, false, 2, 0x123⟩ (placeOf 3 4 (journalled 31)).1 (placeOf 3 4 (journalled 31)).2 0 (journalled 31)).isSome = true
    ∧ remapOf (blockAt 3 4 (journalled 31)) 0 = (31, 31) := by decide +kernel

/-- R204: the row is written, the journal goes on with the next array. -/
theorem witness_BlocksAreProgrammed_row : rd WLD_PROG.rows (after (.rowProgrammed 3 4 0 31 0) (journalled 31)) = 1
    ∧ (blockAt 3 4 (after (.rowProgrammed 3 4 0 31 0) (journalled 31))).journal = some ⟨1, 32, 5⟩
    ∧ (blockAt 3 4 (after (.rowProgrammed 3 4 0 30 0) (journalled 31))).journal = some ⟨1, 31, 5⟩ := by decide +kernel

theorem witness_BlocksAreProgrammed_complete : (blockAt 3 4 (journalled 16384)).journal = some ⟨1, 16384, 5⟩ ∧ (3 : Fin 52).val < 50 := by
  decide +kernel

/-- A frame about generation 5 with the digest above: type, flags, hop count, index. -/
def frameOf (type flags hop index : Nat) : List Byte :=
  leBytes 1 type ++ leBytes 1 flags ++ leBytes 2 hop ++ leBytes 2 5 ++ leBytes 2 0 ++ leBytes 8 0x123 ++ leBytes 4 index ++ List.replicate 44 0

theorem test_frame_header : parseFrame (frameOf 2 1 65535 7) = ⟨2, 1, 65535, 5, 0, 0x123, 7, 0, 0, 0⟩ ∧ (frameOf 2 1 65535 7).length = 64 := by
  decide +kernel

/-- A part further up the chain. -/
def chained (s : State) : State := put [(WLD_PARCEL_STAT.in_up, 1), (WLD_PARCEL_STAT.out_up, 1), (WLD_PARCEL_CTL.fwd, 1)] s

theorem witness_ParcelFramesTravel_through : service.wld.load = none ∧ (∀ g, g < 4 → (genAt g service).reload = []) ∧ isLast service = true
    ∧ isLast (chained service) = false ∧ (parseFrame (frameOf 0 0 65535 0)).resent = false ∧ (parseFrame (frameOf 0 1 0 0)).resent = true
    ∧ (after (.parcelManifestFrame (frameOf 0 0 65535 0) 65536) (chained service)).sent.length = 1 := by decide +kernel

/-- A load from the chain. -/
def chainLoad (phase : Nat) : State :=
  let s := put [(WLD_PARCEL_STAT.in_up, 1), (WLD_PARCEL_CTL.max_resend, 1)] (loadingPart (aLoad phase))
  { s with wld := { s.wld with load := some { aLoad phase with kind := 1 } } }

theorem witness_ParcelFramesTravel_own : (chainLoad 1).wld.load = some { aLoad 1 with kind := 1 } ∧ isLast (chainLoad 1) = true
    ∧ tget 0 ({ aLoad 1 with kind := 1 } : Load).resends 0xFFFFFFFF < maxResend (chainLoad 1)
    ∧ signedOk (parseManifest ((frameOf 0 0 0 0).drop 128) 65536) (chainLoad 1) = false
    ∧ (chainLoad 2).wld.load = some { aLoad 2 with kind := 1 } ∧ frameFits (parseFrame (frameOf 1 0 0 0)) 2 (chainLoad 2) = true
    ∧ (genAt 2 (chainLoad 2)).manifest.isSome = true ∧ (∀ g, g < 4 → (genAt g (chainLoad 2)).reload = [])
    ∧ tget 0 ({ aLoad 2 with kind := 1 } : Load).resends 0 < maxResend (chainLoad 2)
    ∧ ((genAt 2 (chainLoad 2)).manifest.map fun m => frameWhole (frameOf 1 0 0 0) && hashOk m 0 ((frameOf 1 0 0 0).drop 64)) = some false := by
  decide +kernel

theorem witness_ParcelFramesTravel_requests : holdsFor (parseFrame (frameOf 2 0 0 0xFFFFFFFF)) (chainLoad 2) = some 2
    ∧ holdsFor (parseFrame (frameOf 2 0 0 0)) (chainLoad 2) = none ∧ frameFits (parseFrame (frameOf 2 0 0 0)) 2 (chainLoad 2) = true
    ∧ holdsFor (parseFrame (frameOf 2 0 0 0)) service = none ∧ (after (.parcelReRequest (frameOf 2 0 0 0)) service).sent.length = 1
    ∧ (after (.parcelReRequest (frameOf 2 0 0 0)) (chainLoad 2)).wld.queued.length = 1 := by decide +kernel

theorem witness_ParcelFramesTravel_completion : isHead (parseFrame (frameOf 3 0 0 0)) service = true
    ∧ isHead (parseFrame (frameOf 3 0 0 0)) (chained service) = false ∧ (parseFrame (frameOf 3 0 0 0)).ok % 2 = 0
    ∧ ({ chained service with wld := { service.wld with chain := some 2 } } : State).wld.chain.isSome = true ∧ service.wld.upSent = false := by
  decide +kernel

/-- A descriptor of one BF16 projection of rank 1 for tensor 1 of generation 5, context 7, at 4 KiB of the HDM range. -/
def installing : State :=
  let s := put [(WLD_GEN.state 2, 3), (WLD_COSTUME_CTL.busy, 1)] (loadingPart (aLoad 2))
  [(0, 4, 0x5453434C), (4, 4, 216), (8, 2, 7), (10, 2, 5), (12, 2, 1), (14, 1, 9), (16, 4, 0xA495B397), (64, 4, 1), (68, 1, 1),
    (72, 4, 0x3F800000), (80, 8, 96), (88, 8, 160)].foldl (fun s e => putHdm (4096 + e.1) e.2.1 e.2.2 s)
    { s with wld := { s.wld with load := none, install := some (7, 4096) } }

theorem witness_CostumesAreInstalled_end : installing.wld.install = some (7, 4096) ∧ installing.srv.running.isSome = true
    ∧ keepServed installing = false ∧ service.wld.install = none
    ∧ min (hdmNat (4096 + 4) 4 installing) (min (2 ^ 30) (hdmSize - 4096)) = 216
    ∧ installError 7 (spanBad 4096 216 installing) (bytesAt installing.hdm 4096 216) installing = none
    ∧ (wardrobeAt 7 installing).next < 4096
    ∧ installError 7 (spanBad 4096 216 (putHdm 4300 1 9 installing)) (bytesAt (putHdm 4300 1 9 installing).hdm 4096 216) (putHdm 4300 1 9 installing)
        = some 3 := by decide +kernel

theorem witness_CostumesAreInstalled_commands : reaches .host service ∧ rd PWR_STATE.state service = 0 ∧ service.srv.running.isSome = true
    ∧ rd WLD_COSTUME_CTL.busy service = 0 ∧ rd WLD_COSTUME_CTL.busy installing = 1 ∧ fget WLD_COSTUME_CTL.cmd (wdata (hostW 1)) = 1
    ∧ fget WLD_COSTUME_CTL.cmd (wdata (hostW 0xFFF2)) = 2 ∧ wbits WLD_COSTUME_CTL.context (hostW 0xFFF2) service = 4095
    ∧ (wardrobeAt 4095 (after (.costumeRemove (hostW 0xFFF2)) service)).staged = some none := by decide +kernel

/-! ## Tiles and MVMs -/

/-- Tile 6 of region 3. -/
def withTile (u : Tile) : State := withRegion 3 { Region.init with tiles := [(6, u)] }
/-- A bound tile of context 7. -/
def boundTile : Tile := { Tile.init with bound := true, ctx := 7, layer := 2, gen := 5 }

theorem witness_TilesFollowTheScoreboard : tileAt 3 6 (withTile boundTile) = boundTile
    ∧ decideOp boundTile .read 8 = .conflict ∧ decideOp Tile.init .accumulate 7 = .conflict
    ∧ decideOp { boundTile with busy := true } .clear 7 = .wait ∧ decideOp Tile.init .clear 4095 = .proceed
    ∧ decideOp Tile.init .restore 7 = .proceed ∧ decideOp boundTile .read 7 = .proceed ∧ decideOp boundTile .overwrite 7 = .proceed
    ∧ decideOp boundTile .release 7 = .proceed ∧ 255 < shapeElems boundTile.shape ∧ boundTile.kind < 3
    ∧ (-accMax).natAbs ≤ accMax.natAbs := by decide +kernel

theorem witness_TilesFollowTheScoreboard_read : (readOut boundTile 0xE [] ⟨0, 0, none, 0⟩).isSome = true ∧ readOut boundTile 0 [] ⟨0, 0, none, 0⟩ = none
    ∧ (readOut boundTile 4 [] ⟨0, 0, some 127, 0⟩).isSome = true := by decide +kernel

/-- With a step, the image of a save belongs to it; without one, it is the committed one. -/
theorem witness_TilesFollowTheScoreboard_save : service.srv.running = some aStep ∧ idlePart.srv.running = none
    ∧ savedImage 9 (after (.tileSave 3 6 7 9) (withTile boundTile)) = saveWords boundTile
    ∧ (after (.tileSave 3 6 7 9) (withTile boundTile)).saves = [] ∧ (targetOf 5 1 0 service).static = none := by decide +kernel

/-- A tile with contributions to element 9. -/
def addingTile (v : Int) : Tile := { boundTile with busy := true, contribs := [⟨0, 9, 100000000000000⟩, ⟨1, 9, v⟩] }

/-- A source with one element set, drained or not. -/
def sourceTile (busy : Bool) : Tile := { boundTile with elems := [(1, 4)], busy := busy }

/-- Tile 6 is the destination, tile 8 the source. -/
def twoTiles (busy : Bool) : State := withRegion 3 { Region.init with tiles := [(6, boundTile), (8, sourceTile busy)] }

theorem witness_TilesAccumulate_add : tileAt 3 6 (twoTiles false) = boundTile ∧ tileAt 3 8 (twoTiles true) = sourceTile true
    ∧ decideOp boundTile .accumulate 7 = .proceed ∧ decideOp (sourceTile false) .read 7 = .proceed ∧ decideOp (sourceTile true) .read 7 = .wait
    ∧ (sourceTile false).shape = boundTile.shape ∧ ({ boundTile with bp := 4 } : Tile).bp ≠ boundTile.bp
    ∧ (tileAt 3 6 (after (.tileAdd 3 6 7 3 8) (twoTiles false))).adds = [⟨3, 8, some [(1, 4)]⟩]
    ∧ (tileAt 3 6 (after (.tileAdd 3 6 7 3 8) (twoTiles true))).adds = [⟨3, 8, none⟩]
    ∧ (tileAt 3 8 (after (.reduceOperation 3 6 7 3 8) (twoTiles true))).waiting = [.reduceOperation 3 6 7 3 8] := by decide +kernel

/-- A Costume of one projection of tensor 1. -/
def aCostume : Costume := ⟨1, 5, 9, [⟨1, 1, 0x3F800000, 96, 160⟩], bytesAt installing.hdm 4096 216⟩

/-- Context 7 wears it. -/
def wearing : State :=
  { withTile boundTile with wld := { service.wld with wardrobes := [(7, { Wardrobe.init with live := [aCostume], current := some 1 })] } }

theorem witness_TilesAccumulate_costume : costumeOf 7 1 wearing = some aCostume ∧ aCostume.projs = [⟨1, 1, 0x3F800000, 96, 160⟩]
    ∧ tileAt 3 6 wearing = boundTile ∧ 32 * 7 + 31 < shapeElems boundTile.shape ∧ decideOp boundTile .costume 7 = .proceed
    ∧ costumeOf 7 1 service = none := by decide +kernel

theorem witness_TilesAccumulate_drain : (addingTile 40737488355327).bound = true ∧ (addingTile 40737488355327).kind = 0
    ∧ (addingTile 40737488355327).held = [] ∧ openKeys 3 6 (withTile (addingTile 40737488355327)) = []
    ∧ (∃ a ∈ ({ boundTile with adds := [⟨3, 8, none⟩] } : Tile).adds, a.values = none)
    ∧ (addingTile 40737488355327).seq = false ∧ (addingTile 40737488355327).waiting = [] ∧ rd (RGN_DEBUG_CTL.arm 3) service = 0
    ∧ (∀ e ∈ touched (addingTile 40737488355327), hazard (addingTile 40737488355327) e = false)
    ∧ 9 ∈ touched (addingTile 40737488355328) ∧ hazard (addingTile 40737488355328) 9 = true
    ∧ (tileAt 3 6 (after (.accumulateDrained 3 6 []) (withTile (addingTile 40737488355327)))).elem 9 = accMax := by decide +kernel

/-- The command to the array that holds generation 5's tile, for tile 6 of region 3. -/
def genMvm : MvmCmd := { aMvm with array := 0, slot := 2, owner := 3, tile := 6, ctx := 7 }

/-- Generation 5 in service, in a block; tile 6 of region 3. -/
def multiplying (u : Tile) (b : Block) : State :=
  let s := put [(WLD_GEN.state 2, 3), (WLD_GEN.gen 2, 5), (WLD_GEN.master 2, 1), (WLD_GEN.footprint 2, 2)] service
  { s with
    wld := { s.wld with gens := [(2, { aGen with payload := [(0, genPayload)] })] }
    regions := [(3, { Region.init with tiles := [(6, u)] })]
    blocks := [(blockKey 3 4, { b with tiers := [(0, ⟨5, true, 2, 0x123⟩)] })] }

/-- What placement and recipe make of the command. -/
def genRun (c : MvmCmd) : Option Mvm := (tileOf c (multiplying boundTile Block.init)).map fun x => mvmOf c x (multiplying boundTile Block.init)

theorem witness_MvmCommandsMessagesAndCaptures_command : decideOp (tileAt 3 6 (multiplying boundTile Block.init)) .accumulate 7 = .proceed
    ∧ physRegion 3 (multiplying boundTile Block.init) = 3 ∧ physBlock 3 4 (multiplying boundTile Block.init) = 4
    ∧ blockServes genMvm (multiplying boundTile Block.init) = true ∧ blockServes genMvm service = false
    ∧ tileOf { genMvm with array := 5 } (multiplying boundTile Block.init) = none ∧ genMvm.scale ≠ 0xFF
    ∧ (genRun genMvm).map (fun m => (m.inputs.all (· == 0), m.array, m.reads, m.exact)) = some (false, 0, 1, false)
    ∧ (genRun { genMvm with elems := List.replicate 32 0 }).map (fun m => m.inputs.all (· == 0)) = some true := by decide +kernel

/-- Issued to the block; held behind another; computed by the engines of a stood-in block. -/
theorem witness_MvmCommandsMessagesAndCaptures_issue :
    (genRun genMvm).map (fun m => (standsIn m (multiplying boundTile Block.init), standsIn m (multiplying boundTile { Block.init with stood := true })))
        = some (false, true)
    ∧ (tileOf genMvm (multiplying boundTile Block.init)).map (fun x => tileAwaits genMvm x (multiplying boundTile { Block.init with stood := true }))
        = some false
    ∧ mirrored (multiplying boundTile Block.init) = false ∧ Block.init.lost = false ∧ Block.init.window = none ∧ Block.init.retired = false
    ∧ ({ boundTile with held := [genMvm] } : Tile).held ≠ [] ∧ boundTile.held = [] ∧ boundTile.seq = false := by decide +kernel

/-- The array read once. -/
theorem witness_MvmCommandsMessagesAndCaptures_issued :
    (blockAt 3 4 (after (.mvmCommand genMvm) (multiplying boundTile Block.init))).queue.length = 1
    ∧ (tileAt 3 6 (after (.mvmCommand genMvm) (multiplying boundTile Block.init))).busy = true := by decide +kernel

/-- A read of all-zero inputs in the queue of block 4 of region 3. -/
def aRead : Read := ⟨⟨genMvm, 0, .a8, List.replicate 32 0, 0, .tw, List.range 16, 1, 0, 0, 0, 1, false⟩, 0, false, false, false, false⟩

/-- The block with that read. -/
def reading (r : Read) : State := multiplying { boundTile with busy := true } { Block.init with queue := [r] }

theorem witness_MvmCommandsMessagesAndCaptures_message : (blockAt 3 4 (reading aRead)).queue = [aRead] ∧ (blockAt 3 4 service).queue = []
    ∧ rd (RGN_DEBUG_CTL.arm 3) service = 0 ∧ mirrored (reading aRead) = false ∧ (blockAt 3 4 (reading aRead)).ahead = []
    ∧ (∀ p ∈ (regionAt 3 (reading aRead)).tiles, p.2.held = []) ∧ { aRead with ignore := true }.ignore = true ∧ aRead.retry = false
    ∧ (recent second Block.init.discards service).length < 15 ∧ Block.init.retired = false ∧ aRead.window = false ∧ aRead.selected = false
    ∧ aRead.cmd.reads ≤ 1 ∧ (Block.init.partials.all fun p => p.id != aRead.id) = true
    ∧ unusable aRead.cmd 3 4 (analogueRead aRead.cmd 3 4 0 (reading aRead)) false (reading aRead) = none := by decide +kernel

/-- A returned part, in debug mode. -/
def debugPart (l : List (Fld × Nat)) : State := { put l service with nv := { service.nv with lcs := 3 } }

theorem witness_MvmCommandsMessagesAndCaptures_capture : reaches .host service ∧ debugMode service = false ∧ debugMode (debugPart []) = true
    ∧ barClosed .host (debugPart []) = false
    ∧ wbits (RGN_DEBUG_CTL.arm 3) (hostW (1 + 64 * 1311)) (debugPart []) = 1 ∧ wbits (RGN_DEBUG_CTL.sel 3) (hostW (1 + 64 * 1311)) (debugPart []) < 2
    ∧ wbits (RGN_DEBUG_CTL.block 3) (hostW (1 + 64 * 1311)) (debugPart []) = 1311
    ∧ wbits (RGN_DEBUG_CTL.sel 3) (hostW (1 + 16 * 2 + 64 * 1312)) (debugPart []) = 2
    ∧ wbits (RGN_DEBUG_CTL.arm 3) (hostW 0) (debugPart []) = 0 ∧ rd (RGN_DEBUG_CTL.arm 3) (debugPart [(RGN_DEBUG_CTL.arm 3, 1)]) = 1
    ∧ rd (RGN_DEBUG_CTL.done 3) (debugPart []) = 0
    ∧ rd (RGN_DEBUG_CTL.rdptr 3) (debugPart [(RGN_DEBUG_CTL.done 3, 1), (RGN_DEBUG_CTL.count 3, 1)])
        < rd (RGN_DEBUG_CTL.count 3) (debugPart [(RGN_DEBUG_CTL.done 3, 1), (RGN_DEBUG_CTL.count 3, 1)])
    ∧ rd (RGN_DEBUG_CTL.rdptr 3) (after (.debugDataRead .host 3 .lower) (debugPart [(RGN_DEBUG_CTL.done 3, 1), (RGN_DEBUG_CTL.count 3, 1)])) = 1 := by
  decide +kernel

/-! ## The links and the pair -/

theorem witness_LinksTrainFailAndRejoin_train : service.pins.porN = true ∧ service.boot.held = false ∧ aPartner.samePort = true
    ∧ aPartner.isA1 = true ∧ { aPartner with isA1 := false }.isA1 = false
    ∧ rd WLD_PARCEL_STAT.in_up (after (.linkTrained .parcelIn 4 aPartner) service) = 1
    ∧ rd PAIR_CTL.en (put [(PAIR_CTL.en, 1)] service) = 1 ∧ rd PAIR_LINK_STAT.up (put [(PAIR_CTL.en, 1)] service) = 0
    ∧ rd PWR_STATE.state service < 3 ∧ rd PAIR_STAT.state (put [(PAIR_CTL.en, 1)] service) < 3
    ∧ mayPair (put [(PAIR_CTL.en, 1)] service) = true
    ∧ { aPartner with role := false }.role = rdb PAIR_ROLE.role (put [(PAIR_CTL.en, 1)] service) := by decide +kernel

/-- A mirrored pair, the link up. -/
def pairedPart (l : List (Fld × Nat)) : State :=
  put ([(PAIR_CTL.en, 1), (PAIR_STAT.state, 3), (PAIR_LINK_STAT.up, 1), (PAIR_LINK_STAT.lanes, 16)] ++ l) service

theorem witness_LinksTrainFailAndRejoin_fail : rd PAIR_LINK_STAT.up (pairedPart []) = 1 ∧ Port.parcelOut ≠ .pair
    ∧ portUp .pair (pairedPart []) = true ∧ portUp .parcelIn (pairedPart []) = false ∧ rd PAIR_STAT.state (pairedPart []) = 3
    ∧ rd PAIR_CTL.mode (pairedPart []) = 0 ∧ (pairedPart []).pair.settling = none
    ∧ rd PAIR_STAT.link (after .pairLinkTimeout (pairedPart [])) = 2
    ∧ rd PAIR_LINK_STAT.lanes (after (.laneRetrain .pair true) (pairedPart [])) = 8 := by decide +kernel

theorem witness_LinksTrainFailAndRejoin_leave : rd BOOT_STAT.lock (pairedPart []) = 0
    ∧ wone PAIR_CTL.leave (hostW (2 ^ 22)) = true ∧ wone PAIR_CTL.rejoin (hostW (2 ^ 22)) = false
    ∧ wone PAIR_CTL.leave (hostW (2 ^ 23 + 1)) = false ∧ wone PAIR_CTL.rejoin (hostW (2 ^ 23 + 1)) = true
    ∧ wbits PAIR_CTL.en (hostW (2 ^ 23 + 1)) (pairedPart []) = 1 ∧ rd PAIR_STAT.state (pairedPart [(PAIR_STAT.state, 4)]) = 4
    ∧ ({ pairedPart [] with pair := { (pairedPart []).pair with copying := true } } : State).pair.copying = true
    ∧ (pairedPart []).pair.copying = false ∧ (after (.pairLeave (hostW (2 ^ 22))) (pairedPart [])).sent = [.leavingNotice] := by
  decide +kernel

/-- A settlement of step 6 that awaits the partner's list. -/
def settlingPart : State :=
  { pairedPart [] with pair := { (pairedPart []).pair with settling := some ⟨6, 0, [], [⟨0, 1, 2, 3, 6⟩], true⟩ } }

theorem witness_PartnerMessagesAreKept_mirrored : secondary (pairedPart [(PAIR_ROLE.role, 1)]) = true ∧ secondary service = false
    ∧ mirrored (pairedPart []) = true ∧ (pairedPart []).srv.done = [] ∧ mirrored service = false ∧ noReport.differ = [] ∧ noReport.flags = []
    ∧ ({ noReport with flags := [(9, 2, 5)] } : PartnerReport).flags = [(9, 2, 5)]
    ∧ settlingPart.pair.settling = some ⟨6, 0, [], [⟨0, 1, 2, 3, 6⟩], true⟩ ∧ evidenceOf 6 (differing [⟨0, 1, 2, 3, 6⟩] [⟨0, 1, 2, 4, 6⟩]) settlingPart = []
    ∧ settlingPart.srv.running.isSome = true ∧ rd PAIR_STAT.stage (after (.recordList 6 [⟨0, 1, 2, 4, 6⟩] true) settlingPart) = 1
    ∧ rd PAIR_STAT.stage (after (.recordList 6 [⟨0, 1, 2, 4, 6⟩] false) settlingPart) = 2 := by decide +kernel

/-- A provisional result of step 6 with a row of position 0. -/
def aProvisional : Provisional := ⟨6, 9, 2, 5, [1, 2], [⟨0, 0, List.replicate 32 3, 127⟩]⟩

/-- A split pair that holds it. -/
def splitPart : State := { pairedPart [(PAIR_CTL.mode, 1)] with pair := { service.pair with provisional := [aProvisional] } }

theorem witness_PartnerMessagesAreKept_split : takesMirror splitPart = true ∧ takesMirror service = false
    ∧ (∀ q ∈ splitPart.pair.provisional, 7 < q.step + 2) ∧ splitPart.srv.seqs = []
    ∧ splitPart.pair.provisional.filter (fun q => q.step == 6) = [aProvisional] ∧ splitPart.pair.mirrors = []
    ∧ (∀ q ∈ splitPart.pair.provisional, q.step ≠ 7) ∧ ((after (.commitNotice 6) splitPart).pair.mirrors.map (·.history)) = [[1, 2]]
    ∧ ((after (.commitNotice 6) splitPart).pair.mirrorKv.map fun k => (k.seq, k.pos, k.scale)) = [(9, 0, 127)] := by decide +kernel

end Sys2Proof.Tests
end

section
/-! PROOFS. MVM commands, the messages of their blocks, and debug captures (02_arrays.md R44 to R51, R76, R77, R84): what records read
after a change, what a command, a message or a write of RGN_DEBUG_CTL comes to, and O58 assembled from that. A relation between two states
(`AddsTo`, `Computes`, `Queues`, `Screens`, `Records`, `Captures`) says what an operation may change, and is chained by its `trans`. -/

namespace Sys2Proof.Machine

variable {s t : State}

/-! ## What the records of regions, tiles and blocks read after a change -/

theorem regionAt_setRegion_self (r : Nat) (f : Region → Region) (s : State) : regionAt r (setRegion r f s) = f (regionAt r s) :=
  sget_sset_self _ _ _ _

theorem regionAt_setRegion_ne {q r : Nat} (f : Region → Region) (s : State) (h : q ≠ r) :
    regionAt q (setRegion r f s) = regionAt q s := sget_sset_ne _ _ _ h

theorem blockAt_setBlock_self (r b : Nat) (f : Block → Block) (s : State) : blockAt r b (setBlock r b f s) = f (blockAt r b s) :=
  sget_sset_self _ _ _ _

theorem setBlock_otherBlocks (r b : Nat) (f : Block → Block) (s : State) : otherBlocksSame r b s (setBlock r b f s) :=
  fun _ h => sget_sset_ne _ _ _ h

theorem otherBlocksSame.trans {r b : Nat} {u : State} (h : otherBlocksSame r b s t) (g : otherBlocksSame r b t u) :
    otherBlocksSame r b s u := fun k hk => (g k hk).trans (h k hk)

theorem otherBlocksSame.congr {r b : Nat} {u : State} (h : otherBlocksSame r b s t) (e : u.blocks = t.blocks) :
    otherBlocksSame r b s u := fun k hk => by rw [e]; exact h k hk

/-- A change of one tile is a change of the tiles of its region. -/
theorem regionAt_setTile_self (r n : Nat) (f : Tile → Tile) (s : State) :
    regionAt r (setTile r n f s) = { regionAt r s with tiles := tset Tile.init (regionAt r s).tiles n (f (tileAt r n s)) } :=
  regionAt_setRegion_self _ _ _

theorem blockAt_congr {r k : Nat} (h : t.blocks = s.blocks) : blockAt r k t = blockAt r k s := by rw [blockAt, h, blockAt]

theorem regionAt_congr {r : Nat} (h : t.regions = s.regions) : regionAt r t = regionAt r s := by rw [regionAt, h, regionAt]

theorem tileAt_congr {r n : Nat} (h : t.regions = s.regions) : tileAt r n t = tileAt r n s := by
  simp only [tileAt, regionAt, h]

theorem tiles_setTile_self (r n : Nat) (f : Tile → Tile) (s : State) :
    (regionAt r (setTile r n f s)).tiles = tset Tile.init (regionAt r s).tiles n (f (tileAt r n s)) := by rw [regionAt_setTile_self]

theorem regionAt_setTile_ne {q r : Nat} (n : Nat) (f : Tile → Tile) (s : State) (h : q ≠ r) :
    regionAt q (setTile r n f s) = regionAt q s := regionAt_setRegion_ne _ _ h

theorem tileAt_setTile_self (r n : Nat) (f : Tile → Tile) (s : State) : tileAt r n (setTile r n f s) = f (tileAt r n s) := by
  rw [tileAt, regionAt_setTile_self]
  exact sget_sset_self _ _ _ _

theorem tileAt_setTile_ne {q m r n : Nat} (f : Tile → Tile) (s : State) (h : (q, m) ≠ (r, n)) :
    tileAt q m (setTile r n f s) = tileAt q m s := by
  by_cases hq : q = r
  · subst hq
    rw [tileAt, regionAt_setTile_self]
    exact sget_sset_ne _ _ _ fun e => h (by rw [e])
  · rw [tileAt, regionAt_setTile_ne n f s hq, tileAt]

/-- A change of a tile leaves the other fields of every region's record alone. -/
theorem regionAt_setTile (q r n : Nat) (f : Tile → Tile) (s : State) :
    ∃ ts, regionAt q (setTile r n f s) = { regionAt q s with tiles := ts } := by
  by_cases h : q = r
  · subst h; exact ⟨_, regionAt_setTile_self q n f s⟩
  · exact ⟨_, regionAt_setTile_ne n f s h⟩

@[simp] theorem setTile_bringUp (q r n : Nat) (f : Tile → Tile) (s : State) :
    (regionAt q (setTile r n f s)).bringUp = (regionAt q s).bringUp := by
  obtain ⟨ts, e⟩ := regionAt_setTile q r n f s; rw [e]

@[simp] theorem setTile_blockMap (q r n : Nat) (f : Tile → Tile) (s : State) :
    (regionAt q (setTile r n f s)).blockMap = (regionAt q s).blockMap := by
  obtain ⟨ts, e⟩ := regionAt_setTile q r n f s; rw [e]

@[simp] theorem setTile_stood (q r n : Nat) (f : Tile → Tile) (s : State) :
    (regionAt q (setTile r n f s)).stood = (regionAt q s).stood := by
  obtain ⟨ts, e⟩ := regionAt_setTile q r n f s; rw [e]

@[simp] theorem rd_setTile (g : Fld) (r n : Nat) (f : Tile → Tile) (s : State) : rd g (setTile r n f s) = rd g s := rfl

@[simp] theorem blockAt_setTile (q b r n : Nat) (f : Tile → Tile) (s : State) : blockAt q b (setTile r n f s) = blockAt q b s := rfl

@[simp] theorem physRegion_setTile (l r n : Nat) (f : Tile → Tile) (s : State) :
    physRegion l (setTile r n f s) = physRegion l s := by simp [physRegion]

@[simp] theorem physBlock_setTile (q b r n : Nat) (f : Tile → Tile) (s : State) :
    physBlock q b (setTile r n f s) = physBlock q b s := by simp [physBlock]

@[simp] theorem standsIn_setTile (m : Mvm) (r n : Nat) (f : Tile → Tile) (s : State) :
    standsIn m (setTile r n f s) = standsIn m s := by simp [standsIn]

/-! ## What starting a command comes to -/

/-- The state in which a tile's accumulate operation runs. -/
def tileBusy (r n : Nat) (s : State) : State := setTile r n (fun t => { t with busy := true }) s

theorem tileAt_tileBusy_self (r n : Nat) (s : State) : tileAt r n (tileBusy r n s) = { tileAt r n s with busy := true } :=
  tileAt_setTile_self _ _ _ _

theorem startMvm_unserved {c : MvmCmd} (h : blockServes c s = false ∨ tileOf c s = none) : startMvm c s = s := by
  rcases h with h | h <;> simp [startMvm, h]

/-- A command whose block serves it on a tile of weights makes its tile busy; then it is never issued, held, or issued (R34, R107). -/
theorem startMvm_served {c : MvmCmd} {x : Placed} (hb : blockServes c s = true) (hx : tileOf c s = some x) (hs : c.scale ≠ 0xFF) :
    startMvm c s =
      if (mvmOf c x s).inputs.all (· == 0) then tileBusy c.owner c.tile s
      else if mustHold (mvmOf c x s) x (tileBusy c.owner c.tile s) then
        setTile c.owner c.tile (fun t => { t with held := t.held ++ [c] }) (tileBusy c.owner c.tile s)
      else issueMvm (mvmOf c x s) (tileBusy c.owner c.tile s) := by
  have hn : ∀ u, noteScale (mvmOf c x s) u = u := by
    intro u
    have hs : ((mvmOf c x s).cmd.scale == 0xFF#8) = false := beq_false_of_ne hs
    simp [noteScale, hs]
  simp only [startMvm, hb, if_true, hx, hn]
  rfl

theorem mustHold_behind {m : Mvm} {x : Placed} (h : (tileAt m.cmd.owner m.cmd.tile s).held ≠ []) :
    mustHold m x s = true := by simp [mustHold, h]

/-- A command of a tile without held ones, not in sequenced mode, waits only for weights that the engines need. -/
theorem mustHold_none {m : Mvm} {x : Placed} (hh : (tileAt m.cmd.owner m.cmd.tile s).held = [])
    (hq : (tileAt m.cmd.owner m.cmd.tile s).seq = false) (hw : standsIn m s = false ∨ tileAwaits m.cmd x s = false) :
    mustHold m x s = false := by
  rcases hw with hw | hw <;> simp [mustHold, hh, hq, hw]

/-- An MVM command that the scoreboard lets proceed starts. -/
theorem exec_mvmCommand {c : MvmCmd} (h : decideOp (tileAt c.owner c.tile s) .accumulate c.ctx = .proceed) :
    exec (.mvmCommand c) s = .next (startMvm c s) := by
  have e : exec (.mvmCommand c) s = .next (mvmOp c s) := rfl
  rw [e, mvmOp, scoreboard, h]

/-! ## Issue to a block -/

/-- Once the generator has advanced and the work is noted, a command goes to the engines or to its block. -/
theorem issueMvm_eq (m : Mvm) (s : State) : ∃ g selected u,
    issueMvm m s =
      if standsIn m s then
        issueExact m (physRegion m.cmd.region s) (physBlock (physRegion m.cmd.region s) m.cmd.block s) selected
          (noteWork m.cmd.key u { s with shadowGens := g })
      else
        issueAnalogue m (physRegion m.cmd.region s) (physBlock (physRegion m.cmd.region s) m.cmd.block s) selected
          (noteWork m.cmd.key u { s with shadowGens := g }) := ⟨_, _, _, rfl⟩

theorem noteWork_alone (key : Nat) (u : Nat × Option Nat) (h : mirrored s = false) : noteWork key u s = s := by
  simp [noteWork, h]

/-- A block's record after a command's reads have joined those still to be issued. -/
def Block.join (b : Block) (m : Mvm) (selected : Bool) : Block :=
  { b with ahead := b.ahead ++ List.replicate m.reads ⟨m, b.next, false, selected, false, false⟩, next := b.next + 1 }

/-- The running step's counts after one more command. -/
def Step.count (selected : Bool) (u : Step) : Step :=
  { u with reads := u.reads + 1, shadows := u.shadows + if selected = true then 1 else 0 }

/-- A block that is not suspect takes a command whose results are usable. -/
theorem issueAnalogue_usable {m : Mvm} {region block : Nat} (selected : Bool) (hl : (blockAt region block s).lost = false)
    (hw : (blockAt region block s).window = none) (ht : (blockAt region block s).retired = false) :
    issueAnalogue m region block selected s =
      setRunning (Step.count selected) (feedBlock region block (setBlock region block (fun b => b.join m selected) s)) := by
  simp only [issueAnalogue, hl, hw, ht, Bool.false_eq_true, if_false, Bool.or_self, Bool.and_false]
  rfl

/-- A block's record after the queue has taken reads into its free places (R44). -/
def Block.feed (b : Block) : Block :=
  { b with queue := b.queue ++ b.ahead.take (2 - b.queue.length), ahead := b.ahead.drop (2 - b.queue.length) }

@[simp] theorem blockAt_setRunning (r k : Nat) (f : Step → Step) (s : State) : blockAt r k (setRunning f s) = blockAt r k s := rfl

@[simp] theorem setRunning_running (f : Step → Step) (s : State) : (setRunning f s).srv.running = s.srv.running.map f := rfl

@[simp] theorem setRunning_blocks (f : Step → Step) (s : State) : (setRunning f s).blocks = s.blocks := rfl

theorem Block.feed_join (b : Block) (m : Mvm) (selected : Bool) : (b.join m selected).feed = { b with
    queue := b.queue ++ (b.ahead ++ List.replicate m.reads (Read.mk m b.next false selected false false)).take (2 - b.queue.length)
    ahead := (b.ahead ++ List.replicate m.reads (Read.mk m b.next false selected false false)).drop (2 - b.queue.length)
    next := b.next + 1 } := rfl

theorem blockAt_feedBlock_self (r k : Nat) (s : State) : blockAt r k (feedBlock r k s) = (blockAt r k s).feed :=
  blockAt_setBlock_self _ _ _ _

/-- With nothing still to be issued a free place stays free. -/
theorem Block.feed_idle {b : Block} (h : b.ahead = []) : b.feed = b := by
  rw [Block.feed, h, List.take_nil, List.drop_nil, List.append_nil, ← h]

theorem feedBlock_otherBlocks (r k : Nat) (s : State) : otherBlocksSame r k s (feedBlock r k s) := setBlock_otherBlocks _ _ _ _

/-- `t` comes from `s` by a command's reads joining its block's: the queue takes what it has place for, and the running step counts it. -/
structure Queues (m : Mvm) (r k : Nat) (selected : Bool) (s t : State) : Prop where
  frame : t = { s with shadowGens := t.shadowGens, blocks := t.blocks, srv := { s.srv with running := t.srv.running } }
  block : blockAt r k t = ((blockAt r k s).join m selected).feed
  others : otherBlocksSame r k s t
  running : t.srv.running = s.srv.running.map (Step.count selected)

/-- The frame of a change of the running step after one of the blocks. -/
theorem setRunning_frame {f : Step → Step} (h : t = { s with blocks := t.blocks }) : setRunning f t =
    { s with shadowGens := (setRunning f t).shadowGens, blocks := (setRunning f t).blocks
             srv := { s.srv with running := (setRunning f t).srv.running } } := by
  rw [h]; rfl

theorem issueAnalogue_queues {m : Mvm} {r k : Nat} (selected : Bool) (hl : (blockAt r k s).lost = false)
    (hw : (blockAt r k s).window = none) (ht : (blockAt r k s).retired = false) :
    Queues m r k selected s (issueAnalogue m r k selected s) := by
  rw [issueAnalogue_usable selected hl hw ht]
  refine ⟨setRunning_frame rfl, ?_, ?_, ?_⟩
  · rw [blockAt_setRunning, blockAt_feedBlock_self, blockAt_setBlock_self]
  · exact ((setBlock_otherBlocks r k _ s).trans (feedBlock_otherBlocks r k _)).congr (setRunning_blocks ..)
  · simp only [setRunning, feedBlock, setBlock_srv]

/-- A command on its way to a block that is not suspect and whose results are usable. -/
theorem issueMvm_block {m : Mvm} {r k : Nat} (hr : r = physRegion m.cmd.region s) (hk : k = physBlock r m.cmd.block s)
    (hs : standsIn m s = false) (hp : mirrored s = false) (hl : (blockAt r k s).lost = false)
    (hw : (blockAt r k s).window = none) (ht : (blockAt r k s).retired = false) :
    ∃ selected, Queues m r k selected s (issueMvm m s) := by
  obtain ⟨g, selected, u, e⟩ := issueMvm_eq m s
  have hp : mirrored { s with shadowGens := g } = false := hp
  rw [if_neg (by simp [hs]), noteWork_alone _ _ hp, ← hr, ← hk] at e
  have q := issueAnalogue_queues (s := { s with shadowGens := g }) (m := m) selected hl hw ht
  rw [← e] at q
  exact ⟨selected, q.frame, q.block, q.others, q.running⟩

/-! ## Values delivered to a tile (R71, R76) -/

/-- No tile of an engine holds a command back. -/
def NoneHeld (r : Nat) (s : State) : Prop := ∀ p ∈ (regionAt r s).tiles, p.2.held = []

theorem mem_sset {α : Type} [DecidableEq α] {d : Nat → α} {l : List (Nat × α)} {k : Nat} {v : α} {p : Nat × α}
    (h : p ∈ sset d l k v) : p = (k, v) ∨ p ∈ l := by
  unfold sset at h
  split at h
  · exact .inr (mem_serase h)
  · exact (mem_sinsert h).imp id mem_serase

theorem tget_mem_or_default {α : Type} (d : α) (l : List (Nat × α)) (k : Nat) : tget d l k = d ∨ ∃ p ∈ l, p.2 = tget d l k := by
  induction l with
  | nil => exact .inl rfl
  | cons p l ih =>
    obtain ⟨j, v⟩ := p
    by_cases h : k = j
    · exact .inr ⟨(j, v), by simp, by simp [sget, h]⟩
    · simp only [sget, h, if_false]
      exact ih.imp id fun ⟨p, hp, e⟩ => ⟨p, List.mem_cons_of_mem _ hp, e⟩

theorem NoneHeld.tile {r : Nat} (h : NoneHeld r s) (n : Nat) : (tileAt r n s).held = [] := by
  rcases tget_mem_or_default Tile.init (regionAt r s).tiles n with e | ⟨p, hp, e⟩
  · rw [tileAt, e]; rfl
  · rw [tileAt, ← e]; exact h p hp

theorem NoneHeld.congr {r : Nat} (h : NoneHeld r s) (e : (regionAt r t).tiles = (regionAt r s).tiles) : NoneHeld r t := by
  unfold NoneHeld; rw [e]; exact h

theorem NoneHeld.of_regions {r : Nat} (h : NoneHeld r s) (e : t.regions = s.regions) : NoneHeld r t :=
  h.congr (by rw [regionAt_congr e])

/-- An engine without held commands has none to go on with. -/
theorem NoneHeld.release {r : Nat} (h : NoneHeld r s) : releaseEngine r s = s := by
  have : (regionAt r s).tiles.filter (fun p => !p.2.held.isEmpty) = [] :=
    List.filter_eq_nil_iff.2 fun p hp => by simp [h p hp]
  rw [releaseEngine, this, List.foldl_nil]

/-- `t` comes from `s` by values added to one tile: contributions, its flags and header, and the reports and registers that go with them. -/
structure AddsTo (r n : Nat) (s t : State) : Prop where
  frame : t = { s with regs := t.regs, regions := t.regions, reports := t.reports }
  others : ∀ q m, (q, m) ≠ (r, n) → tileAt q m t = tileAt q m s
  otherRegions : otherRegionsSame r s t
  busy : (tileAt r n t).busy = (tileAt r n s).busy
  noneHeld : NoneHeld r s → NoneHeld r t

theorem AddsTo.refl (r n : Nat) (s : State) : AddsTo r n s s := ⟨rfl, fun _ _ _ => rfl, fun _ _ => rfl, rfl, id⟩

theorem AddsTo.trans {r n : Nat} {u : State} (h : AddsTo r n s t) (g : AddsTo r n t u) : AddsTo r n s u where
  frame := g.frame.trans (by rw [h.frame])
  others q m e := (g.others q m e).trans (h.others q m e)
  otherRegions q e := (g.otherRegions q e).trans (h.otherRegions q e)
  busy := g.busy.trans h.busy
  noneHeld := g.noneHeld ∘ h.noneHeld

theorem setTile_addsTo (r n : Nat) {f : Tile → Tile} (s : State) (hb : ∀ u, (f u).busy = u.busy) (hh : ∀ u, (f u).held = u.held) :
    AddsTo r n s (setTile r n f s) where
  frame := rfl
  others _ _ h := tileAt_setTile_ne f s h
  otherRegions _ h := regionAt_setTile_ne n f s h
  busy := by rw [tileAt_setTile_self, hb]
  noneHeld h p hp := by
    rw [tiles_setTile_self] at hp
    rcases mem_sset hp with rfl | hp
    · exact (hh _).trans (h.tile n)
    · exact h p hp

theorem setReg_addsTo (r n off : Nat) (v : Word) (s : State) : AddsTo r n s (setReg off v s) :=
  ⟨rfl, fun _ _ _ => rfl, fun _ _ => rfl, rfl, id⟩

theorem log_addsTo (r n : Nat) (c : Fin 16) (v : Fin 5) (code unit : Nat) (d : List Byte) (s : State) :
    AddsTo r n s (log c v code unit d s) := ⟨rfl, fun _ _ _ => rfl, fun _ _ => rfl, rfl, id⟩

theorem satIf_addsTo (r n : Nat) (b : Bool) (s : State) : AddsTo r n s (satIf r n b s) := by
  cases b with
  | false => exact .refl r n s
  | true =>
    refine ((setTile_addsTo r n s ?_ ?_).trans (setReg_addsTo ..)).trans (log_addsTo ..) <;> exact fun _ => rfl

theorem convertInto_addsTo (r n e : Nat) (v : Fp) (s : State) : AddsTo r n s (convertInto r n e v s).2 := by
  simp only [convertInto]
  split
  · exact (satIf_addsTo r n _ s).trans (log_addsTo ..)
  · exact satIf_addsTo r n _ s

theorem contribute_addsTo (m : Mvm) (e : Nat × Int) (s : State) : AddsTo m.cmd.owner m.cmd.tile s (contribute m e s) := by
  simp only [contribute]
  split
  · refine (convertInto_addsTo ..).trans (setTile_addsTo _ _ _ ?_ ?_) <;> exact fun _ => rfl
  · exact .refl ..

theorem deliver_addsTo (m : Mvm) (header : Word) (ys : List (Nat × Int)) (s : State) :
    AddsTo m.cmd.owner m.cmd.tile s (deliver m header ys s) := by
  have values : ∀ (ys : List (Nat × Int)) (s : State), AddsTo m.cmd.owner m.cmd.tile s (ys.foldl (fun a e => contribute m e a) s) := by
    intro ys
    induction ys with
    | nil => exact .refl _ _
    | cons y ys ih => exact fun s => (contribute_addsTo m y s).trans (ih _)
  rw [deliver]
  refine (values ys s).trans (setTile_addsTo _ _ _ ?_ ?_) <;> exact fun _ => rfl

/-! ## Commands that the engines compute (R89, R90) -/

/-- `t` comes from `s` by a command computed without a read: values for one tile, a comparison made ready, the running step's counts, the
generator of a region. -/
structure Computes (r n : Nat) (s t : State) : Prop where
  frame : t = { s with shadowGens := t.shadowGens, regions := t.regions, regs := t.regs, reports := t.reports
                       srv := { s.srv with running := t.srv.running } }
  others : ∀ q m, (q, m) ≠ (r, n) → tileAt q m t = tileAt q m s
  busy : (tileAt r n t).busy = (tileAt r n s).busy

theorem Computes.refl (r n : Nat) (s : State) : Computes r n s s := ⟨rfl, fun _ _ _ => rfl, rfl⟩

theorem Computes.trans {r n : Nat} {u : State} (h : Computes r n s t) (g : Computes r n t u) : Computes r n s u where
  frame := g.frame.trans (by rw [h.frame])
  others q m e := (g.others q m e).trans (h.others q m e)
  busy := g.busy.trans h.busy

theorem AddsTo.computes {r n : Nat} (h : AddsTo r n s t) : Computes r n s t := ⟨by rw [h.frame], h.others, h.busy⟩

theorem setRunning_computes (r n : Nat) (f : Step → Step) (s : State) : Computes r n s (setRunning f s) :=
  ⟨rfl, fun _ _ _ => rfl, rfl⟩

theorem noteWork_computes (r n key : Nat) (u : Nat × Option Nat) (s : State) : Computes r n s (noteWork key u s) := by
  unfold noteWork
  split
  · exact setRunning_computes ..
  · exact .refl ..

theorem tileAt_readyShadow (q m r : Nat) (x : Shadow) (s : State) : tileAt q m (readyShadow r x s) = tileAt q m s := by
  by_cases h : q = r
  · subst h; rw [tileAt, readyShadow, regionAt_setRegion_self]; rfl
  · rw [tileAt, readyShadow, regionAt_setRegion_ne _ _ h]; rfl

theorem readyShadow_computes (r n q : Nat) (x : Shadow) (s : State) : Computes r n s (readyShadow q x s) :=
  ⟨rfl, fun _ _ _ => tileAt_readyShadow .., by rw [tileAt_readyShadow]⟩

theorem issueExact_computes (m : Mvm) (r k : Nat) (selected : Bool) (s : State) :
    Computes m.cmd.owner m.cmd.tile s (issueExact m r k selected s) := by
  have ready : ∀ (c : Bool) (x : Shadow), Computes m.cmd.owner m.cmd.tile s
      (if c then setRunning (fun t => { t with shadows := t.shadows + 1 }) (readyShadow r x s) else s) := by
    intro c x
    split
    · exact (readyShadow_computes ..).trans (setRunning_computes ..)
    · exact .refl ..
  have delivered : ∀ (w : Bool) (t : State), Computes m.cmd.owner m.cmd.tile s t →
      Computes m.cmd.owner m.cmd.tile s (if w then t else deliver m 0 (exactValues m s) t) := by
    intro w t h
    split
    · exact h
    · exact h.trans (deliver_addsTo ..).computes
  exact delivered _ _ (ready _ _)

theorem issueMvm_standing {m : Mvm} (h : standsIn m s = true) : Computes m.cmd.owner m.cmd.tile s (issueMvm m s) := by
  obtain ⟨g, selected, u, e⟩ := issueMvm_eq m s
  rw [e, if_pos h]
  have advanced : Computes m.cmd.owner m.cmd.tile s { s with shadowGens := g } := ⟨rfl, fun _ _ _ => rfl, rfl⟩
  exact (advanced.trans (noteWork_computes ..)).trans (issueExact_computes ..)

/-! ## What an MVM command does, case by case -/

section Command

variable {c : MvmCmd} {x : Placed} (hd : decideOp (tileAt c.owner c.tile s) .accumulate c.ctx = .proceed)
  (hb : blockServes c s = true) (hx : tileOf c s = some x) (hs : c.scale ≠ 0xFF)
include hd

theorem mvmCommand_unserved (h : blockServes c s = false ∨ tileOf c s = none) : exec (.mvmCommand c) s = .next s := by
  rw [exec_mvmCommand hd, startMvm_unserved h]

include hb hx hs

theorem mvmCommand_zero (h : (mvmOf c x s).inputs.all (· == 0) = true) :
    exec (.mvmCommand c) s = .next (tileBusy c.owner c.tile s) := by
  rw [exec_mvmCommand hd, startMvm_served hb hx hs, if_pos h]

variable (h : (mvmOf c x s).inputs.all (· == 0) = false)
include h

theorem mvmCommand_held (hh : (tileAt c.owner c.tile s).held ≠ []) : exec (.mvmCommand c) s =
    .next (setTile c.owner c.tile (fun t => { t with held := t.held ++ [c] }) (tileBusy c.owner c.tile s)) := by
  have hold : mustHold (mvmOf c x s) x (tileBusy c.owner c.tile s) = true :=
    mustHold_behind (by rw [show (mvmOf c x s).cmd = c from rfl, tileAt_tileBusy_self]; exact hh)
  rw [exec_mvmCommand hd, startMvm_served hb hx hs, if_neg (by simp [h]), if_pos hold]

theorem mvmCommand_issued (hh : (tileAt c.owner c.tile s).held = []) (hq : (tileAt c.owner c.tile s).seq = false)
    (hw : standsIn (mvmOf c x s) s = false ∨ tileAwaits c x s = false) :
    exec (.mvmCommand c) s = .next (issueMvm (mvmOf c x s) (tileBusy c.owner c.tile s)) := by
  have go : mustHold (mvmOf c x s) x (tileBusy c.owner c.tile s) = false := by
    apply mustHold_none
    · rw [show (mvmOf c x s).cmd = c from rfl, tileAt_tileBusy_self]; exact hh
    · rw [show (mvmOf c x s).cmd = c from rfl, tileAt_tileBusy_self]; exact hq
    · exact hw.imp (fun e => (standsIn_setTile ..).trans e) id
  rw [exec_mvmCommand hd, startMvm_served hb hx hs, if_neg (by simp [h]), if_neg (by simp [go])]

end Command

theorem tileBusy_others {r n q m : Nat} (h : (q, m) ≠ (r, n)) : tileAt q m (tileBusy r n s) = tileAt q m s :=
  tileAt_setTile_ne _ _ h

/-- A command that the engines compute, from the state in which its tile is busy. -/
theorem issueMvm_standing_busy {c : MvmCmd} {m : Mvm} (hm : m.cmd = c) (h : standsIn m s = true) :
    ∃ t, issueMvm m (tileBusy c.owner c.tile s) = t ∧ (tileAt c.owner c.tile t).busy = true ∧ t.blocks = s.blocks
      ∧ t.draws = s.draws ∧ t.cells = s.cells
      ∧ (∀ r n, (r, n) ≠ (c.owner.val, c.tile.val) → tileAt r n t = tileAt r n s)
      ∧ t = { s with shadowGens := t.shadowGens, regions := t.regions, regs := t.regs, reports := t.reports
                     srv := { s.srv with running := t.srv.running } } := by
  subst hm
  have g := issueMvm_standing (s := tileBusy m.cmd.owner m.cmd.tile s) ((standsIn_setTile ..).trans h)
  refine ⟨_, rfl, ?_, ?_, ?_, ?_, fun r n e => (g.others r n e).trans (tileBusy_others e), g.frame⟩
  · rw [g.busy, tileAt_tileBusy_self]
  all_goals rw [g.frame]; rfl

/-- A command that goes to its block, from the state in which its tile is busy. -/
theorem issueMvm_block_busy {c : MvmCmd} {m : Mvm} {region block : Nat} {b : Block} (hm : m.cmd = c)
    (hr : region = physRegion c.region s) (hk : block = physBlock region c.block s) (hb : b = blockAt region block s)
    (hs : standsIn m s = false) (hp : mirrored s = false) (hl : b.lost = false) (hw : b.window = none) (ht : b.retired = false) :
    ∃ t selected reads, issueMvm m (tileBusy c.owner c.tile s) = t
      ∧ reads = b.ahead ++ List.replicate m.reads ⟨m, b.next, false, selected, false, false⟩
      ∧ blockAt region block t = { b with
          queue := b.queue ++ reads.take (2 - b.queue.length), ahead := reads.drop (2 - b.queue.length), next := b.next + 1 }
      ∧ tileAt c.owner c.tile t = { tileAt c.owner c.tile s with busy := true }
      ∧ (∀ r n, (r, n) ≠ (c.owner.val, c.tile.val) → tileAt r n t = tileAt r n s)
      ∧ t.srv.running = s.srv.running.map (fun u => { u with
          reads := u.reads + 1, shadows := u.shadows + if selected = true then 1 else 0 })
      ∧ otherBlocksSame region block s t
      ∧ t = { s with shadowGens := t.shadowGens, regions := t.regions, blocks := t.blocks
                     srv := { s.srv with running := t.srv.running } } := by
  subst hm hr hk hb
  obtain ⟨selected, q⟩ := issueMvm_block (m := m) (s := tileBusy m.cmd.owner m.cmd.tile s) (physRegion_setTile ..).symm
    (physBlock_setTile ..).symm ((standsIn_setTile ..).trans hs) hp hl hw ht
  have regions : (issueMvm m (tileBusy m.cmd.owner m.cmd.tile s)).regions = (tileBusy m.cmd.owner m.cmd.tile s).regions := by
    rw [q.frame]
  refine ⟨_, selected, _, rfl, rfl, q.block.trans (Block.feed_join ..), (tileAt_congr regions).trans (tileAt_tileBusy_self _ _ _),
    fun r n h => (tileAt_congr regions).trans (tileBusy_others h), q.running, q.others, ?_⟩
  rw [regions]
  exact q.frame

/-! ## A message arrives (R76) -/

/-- The state once a message has been taken from its block's queue. -/
def taken (r k : Nat) (rest : List Read) (s : State) : State :=
  setBlock r k (fun b => { b with queue := rest, mvms := b.mvms + 1 }) { s with draws := s.draws + 128 }

theorem blockAt_taken (r k : Nat) (rest : List Read) (s : State) :
    blockAt r k (taken r k rest s) = { blockAt r k s with queue := rest, mvms := (blockAt r k s).mvms + 1 } :=
  blockAt_setBlock_self _ _ _ _

theorem taken_otherBlocks (r k : Nat) (rest : List Read) (s : State) : otherBlocksSame r k s (taken r k rest s) :=
  setBlock_otherBlocks r k _ _

/-- Whether a message is usable does not depend on what waits in its block's queue. -/
theorem unusable_taken (c : Mvm) (r k : Nat) (x : Reading) (p : Bool) (rest : List Read) (s : State) :
    unusable c r k x p (taken r k rest s) = unusable c r k x p s := by
  have h : abacusFails c r k x.msg (taken r k rest s) = abacusFails c r k x.msg s := by
    simp only [abacusFails, gainsOf, blockAt_taken]
    rfl
  simp only [unusable, h]

theorem captureRead_unarmed {r : Nat} (k : Nat) (c : Mvm) (x : Reading) (p : Bool) (h : rd (RGN_DEBUG_CTL.arm r) s = 0) :
    captureRead r k c x p s = s := by
  simp [captureRead, rdb, h]

/-- What becomes of a message that is not ignored: its values are accepted, it is read once more, or the block's results are lost. -/
def screen (r k : Nat) (p : Bool) (x : Read) (m : Reading) (s : State) : State :=
  match unusable x.cmd r k m p s with
  | none => acceptRead r k x m.msg (headerWord x.cmd m.msg.phases m.clip false) s
  | some cause =>
    if x.retry then loseBlock r k x (discardRead r k x cause s)
    else setBlock r k (fun b => { b with queue := b.queue ++ [{ x with retry := true }] }) (discardRead r k x cause s)

/-- A message, with no capture armed: dropped, or screened, and the place in the queue filled. -/
theorem takeMessage_eq {r : Nat} (k : Nat) (p : Bool) (x : Read) (rest : List Read) (ha : rd (RGN_DEBUG_CTL.arm r) s = 0) :
    takeMessage r k p x rest s =
      if x.ignore then taken r k rest s
      else releaseEngine x.cmd.cmd.owner
        (feedBlock r k (screen r k p x (analogueRead x.cmd r k s.draws s) (taken r k rest s))) := by
  have idle : captureRead r k x.cmd (analogueRead x.cmd r k s.draws s) p (taken r k rest s) = taken r k rest s :=
    captureRead_unarmed _ _ _ _ ha
  have e : takeMessage r k p x rest s =
      let u := captureRead r k x.cmd (analogueRead x.cmd r k s.draws s) p (taken r k rest s)
      if x.ignore then u
      else releaseEngine x.cmd.cmd.owner (feedBlock r k (screen r k p x (analogueRead x.cmd r k s.draws s) u)) := rfl
  rw [e, idle]

theorem screen_usable {r k : Nat} {p : Bool} {x : Read} {m : Reading} (rest : List Read) (h : unusable x.cmd r k m p s = none) :
    screen r k p x m (taken r k rest s) =
      acceptRead r k x m.msg (headerWord x.cmd m.msg.phases m.clip false) (taken r k rest s) := by
  rw [screen, unusable_taken, h]

theorem screen_parity {r k : Nat} (x : Read) (m : Reading) (s : State) : screen r k true x m s =
    if x.retry then loseBlock r k x (discardRead r k x 0 s)
    else setBlock r k (fun b => { b with queue := b.queue ++ [{ x with retry := true }] }) (discardRead r k x 0 s) := rfl

/-! ## A discarded read (R77) -/

/-- A read discarded outside a mirrored pair, with fewer than 15 others in the last second: logged and counted. -/
theorem discardRead_counted {r k : Nat} (x : Read) (cause : Nat) (hm : mirrored s = false)
    (hn : (recent second (blockAt r k s).discards s).length < 15) : ∃ d, discardRead r k x cause s =
      setBlock r k (fun b => { b with discards := recent second (blockAt r k s).discards s ++ [s.now] })
        (log (regionClass r) 2 0x0010 r d s) := by
  have hm' : ∀ f d, mirrored (setBlock r k f (log (regionClass r) 2 0x0010 r d s)) = false := fun _ _ => hm
  have few : ¬ 16 ≤ (recent second (blockAt r k s).discards s ++ [s.now]).length := by simp; omega
  have hl : ∀ d, recent second (blockAt r k (log (regionClass r) 2 0x0010 r d s)).discards (log (regionClass r) 2 0x0010 r d s)
      = recent second (blockAt r k s).discards s := fun _ => rfl
  simp only [discardRead, hm', hl, log_now, few, Bool.false_eq_true, if_false]
  exact ⟨_, rfl⟩

/-! ## A unit becomes suspect (R305, R307, R332) -/

theorem State.SameRegs.refl (l : List Nat) (s : State) : s.SameRegs l s := fun _ _ => rfl

theorem State.SameRegs.trans {l : List Nat} {u : State} (h : s.SameRegs l t) (g : t.SameRegs l u) : s.SameRegs l u :=
  fun off m => (g off m).trans (h off m)

theorem State.SameRegs.of_regs {l : List Nat} (h : t.regs = s.regs) : s.SameRegs l t := fun _ _ => by rw [State.reg, h, State.reg]

theorem State.SameRegs.wr {l : List Nat} (h : s.SameRegs l t) {f : Fld} (n : Nat) (hf : f.off ∈ l) : s.SameRegs l (wr f n t) :=
  fun off m => (reg_wr_ne n t (ne_of_mem_of_not_mem hf m).symm).trans (h off m)

/-- `t` comes from `s` by what a lost or a suspect unit is recorded with: CHK_SUSPECT, a block's record, what regions want. -/
structure Records (r k : Nat) (s t : State) : Prop where
  frame : t = { s with regs := t.regs, regions := t.regions, blocks := t.blocks
                       srv := { s.srv with running := t.srv.running, done := t.srv.done } }
  others : otherBlocksSame r k s t
  regs : s.SameRegs [CHK_SUSPECT] t
  noneHeld : ∀ q, NoneHeld q s → NoneHeld q t

theorem Records.refl (r k : Nat) (s : State) : Records r k s s := ⟨rfl, fun _ _ => rfl, .refl _ _, fun _ => id⟩

theorem Records.trans {r k : Nat} {u : State} (h : Records r k s t) (g : Records r k t u) : Records r k s u where
  frame := g.frame.trans (by rw [h.frame])
  others := h.others.trans g.others
  regs := h.regs.trans g.regs
  noneHeld q := g.noneHeld q ∘ h.noneHeld q

theorem setBlock_records (r k : Nat) (f : Block → Block) (s : State) : Records r k s (setBlock r k f s) :=
  ⟨rfl, setBlock_otherBlocks _ _ _ _, .of_regs rfl, fun _ => id⟩

theorem setRunning_records (r k : Nat) (f : Step → Step) (s : State) : Records r k s (setRunning f s) :=
  ⟨rfl, fun _ _ => rfl, .of_regs rfl, fun _ => id⟩

theorem voidRunning_records (r k : Nat) (s : State) : Records r k s (voidRunning s) := by
  unfold voidRunning
  split
  · exact ⟨rfl, fun _ _ => rfl, .of_regs rfl, fun _ => id⟩
  · exact .refl ..

theorem wr_records (r k : Nat) {f : Fld} (n : Nat) (s : State) (h : f.off = CHK_SUSPECT) : Records r k s (wr f n s) :=
  ⟨rfl, fun _ _ => rfl, (State.SameRegs.refl _ _).wr n (by simp [h]), fun _ => id⟩

theorem setRegion_records (r k q : Nat) {f : Region → Region} (s : State) (h : ∀ u, (f u).tiles = u.tiles) :
    Records r k s (setRegion q f s) := by
  refine ⟨rfl, fun _ _ => rfl, .of_regs rfl, fun o hn => hn.congr ?_⟩
  by_cases e : o = q
  · subst e; rw [regionAt_setRegion_self, h]
  · rw [regionAt_setRegion_ne _ _ e]

/-- The latest suspect unit and what CHK_SUSPECT says of it: writes of that register's fields. -/
theorem noteSuspect_eq (r k : Nat) (s : State) : ∃ left hits now total,
    noteSuspect r k s = wr CHK_SUSPECT.left left (wr CHK_SUSPECT.hits hits (wr CHK_SUSPECT.now now
      (wr CHK_SUSPECT.total total (wr CHK_SUSPECT.region r (wr CHK_SUSPECT.block k s))))) := ⟨_, _, _, _, rfl⟩

theorem noteSuspect_records (r k q b : Nat) (s : State) : Records r k s (noteSuspect q b s) := by
  obtain ⟨left, hits, now, total, e⟩ := noteSuspect_eq q b s
  rw [e]
  exact (((((wr_records r k _ s rfl).trans (wr_records r k _ _ rfl)).trans (wr_records r k _ _ rfl)).trans
    (wr_records r k _ _ rfl)).trans (wr_records r k _ _ rfl)).trans (wr_records r k _ _ rfl)

theorem noteSuspect_blocks (q b : Nat) (s : State) : (noteSuspect q b s).blocks = s.blocks := by
  obtain ⟨left, hits, now, total, e⟩ := noteSuspect_eq q b s
  rw [e]; rfl

theorem noteSuspect_srv (q b : Nat) (s : State) : (noteSuspect q b s).srv = s.srv := by
  obtain ⟨left, hits, now, total, e⟩ := noteSuspect_eq q b s
  rw [e]; rfl

theorem wantRegion_records (r k q : Nat) (c : Cover) (s : State) : Records r k s (wantRegion q c s) :=
  setRegion_records _ _ _ _ fun u => by split <;> rfl

/-- A block's suspect window, the instants at which blocks of its region became suspect, and CHK_SUSPECT. -/
def openWindow (r k : Nat) (o : Bool) (l : List Nat) (s : State) : State :=
  noteSuspect r k (setRegion r (fun u => { u with suspects := l }) (setBlock r k (fun b => { b with window := some ⟨64, 0, o⟩ }) s))

theorem openWindow_records (r k : Nat) (o : Bool) (l : List Nat) (s : State) : Records r k s (openWindow r k o l s) :=
  ((setBlock_records ..).trans (setRegion_records _ _ _ (f := fun u => { u with suspects := l }) _ fun _ => rfl)).trans
    (noteSuspect_records ..)

theorem blockAt_openWindow (r k : Nat) (o : Bool) (l : List Nat) (s : State) :
    blockAt r k (openWindow r k o l s) = { blockAt r k s with window := some ⟨64, 0, o⟩ } := by
  rw [openWindow, blockAt_congr (noteSuspect_blocks ..), blockAt_congr (setRegion_blocks ..), blockAt_setBlock_self]

theorem openWindow_srv (r k : Nat) (o : Bool) (l : List Nat) (s : State) : (openWindow r k o l s).srv = s.srv := by
  rw [openWindow, noteSuspect_srv, setRegion_srv, setBlock_srv]

/-- A block that is not suspect becomes so; with it the region's engine may come to be tested (R308). -/
theorem suspectBlock_eq (r k : Nat) (o : Bool) (s : State) (h : ((blockAt r k s).window.isSome || (blockAt r k s).retired) = false) :
    ∃ l, suspectBlock r k o s =
      if 4 ≤ l.length then wantRegion r .engineTest (openWindow r k o l s) else openWindow r k o l s := by
  rw [suspectBlock, if_neg (by simp [h])]
  exact ⟨_, rfl⟩

/-- A block that becomes suspect, or is already: what its record reads, and that nothing of the running step changes. -/
theorem suspectBlock_spec (r k : Nat) (o : Bool) (s : State) (hr : (blockAt r k s).retired = false) :
    Records r k s (suspectBlock r k o s) ∧ (suspectBlock r k o s).srv = s.srv
      ∧ ∃ w, blockAt r k (suspectBlock r k o s) = { blockAt r k s with window := some w } := by
  cases hw : (blockAt r k s).window with
  | some w =>
    rw [suspectBlock, if_pos (by simp [hw])]
    exact ⟨.refl _ _ _, rfl, w, by rw [← hw]⟩
  | none =>
    obtain ⟨l, e⟩ := suspectBlock_eq r k o s (by simp [hw, hr])
    rw [e]
    split
    · exact ⟨(openWindow_records ..).trans (wantRegion_records ..), (setRegion_srv ..).trans (openWindow_srv ..), _,
        (blockAt_congr (setRegion_blocks ..)).trans (blockAt_openWindow ..)⟩
    · exact ⟨openWindow_records .., openWindow_srv .., _, blockAt_openWindow ..⟩

/-! ## A block's results are lost (R77) -/

theorem voidRunning_running {z : Step} (h : s.srv.running = some z) : (voidRunning s).srv.running = some { z with void := true } := by
  simp [voidRunning, voidFrom, h]

theorem voidRunning_blocks (s : State) : (voidRunning s).blocks = s.blocks := by
  unfold voidRunning
  split <;> rfl

theorem blockAt_wantBlock (r k : Nat) (c : Cover) (s : State) :
    ∃ l, l.contains c = true ∧ blockAt r k (wantBlock r k c s) = { blockAt r k s with want := l } := by
  rw [wantBlock, blockAt_setBlock_self]
  split
  · next h => exact ⟨_, h, rfl⟩
  · exact ⟨_, by simp, rfl⟩

/-- A block's record once its results in the step are unusable. -/
def Block.lose (b : Block) : Block :=
  { b with lost := true, partials := [], ahead := [], queue := b.queue.map fun r => { r with ignore := true } }

/-- Lost results: what the block's record reads, and that the running step is void. -/
theorem loseBlock_spec (r k : Nat) (x : Read) (s : State) (hr : (blockAt r k s).retired = false) :
    Records r k s (loseBlock r k x s)
      ∧ (∃ l w, l.contains .replay = true ∧ blockAt r k (loseBlock r k x s) = { (blockAt r k s).lose with want := l, window := some w })
      ∧ ∀ z, s.srv.running = some z → ∃ z', (loseBlock r k x s).srv.running = some z' ∧ z'.num = z.num ∧ z'.void = true := by
  obtain ⟨f, e⟩ : ∃ f, loseBlock r k x s = suspectBlock r k false (wantBlock r k .replay (voidRunning
      (setRunning (fun t => { t with reads := t.reads - f }) (setBlock r k Block.lose s)))) := ⟨_, rfl⟩
  generalize hu : voidRunning (setRunning (fun t => { t with reads := t.reads - f }) (setBlock r k Block.lose s)) = u at e
  have lost : Records r k s u := by
    rw [← hu]
    exact ((setBlock_records ..).trans (setRunning_records ..)).trans (voidRunning_records ..)
  have record : blockAt r k u = (blockAt r k s).lose := by
    rw [← hu, blockAt_congr (voidRunning_blocks _), blockAt_setRunning, blockAt_setBlock_self]
  obtain ⟨l, hl, hb⟩ := blockAt_wantBlock r k .replay u
  rw [record] at hb
  obtain ⟨h, hs, w, hw⟩ := suspectBlock_spec r k false (wantBlock r k .replay u) (by rw [hb]; exact hr)
  rw [hb] at hw
  rw [e]
  refine ⟨(lost.trans (setBlock_records ..)).trans h, ⟨l, w, hl, hw⟩, fun z hz => ?_⟩
  have void : u.srv.running = some { z with reads := z.reads - f, void := true } := by
    rw [← hu]
    exact voidRunning_running (z := { z with reads := z.reads - f }) (by rw [setRunning_running, setBlock_srv, hz]; rfl)
  exact ⟨_, (congrArg Serving.running hs).trans void, rfl, rfl⟩

/-! ## A usable read (R84) -/

/-- The one read of a command completes it: its values go to the tile at once. -/
theorem acceptRead_single {r k : Nat} {x : Read} {b : Block} (m : Message) (header : Word) (hb : b = blockAt r k s)
    (hw : x.window = false) (hs : x.selected = false) (hr : x.cmd.reads ≤ 1)
    (hp : (b.partials.all fun p => p.id != x.id) = true) :
    ∃ ys, acceptRead r k x m header s = deliver x.cmd header ys
      (setRunning (fun u => { u with reads := u.reads - 1 }) (setBlock r k (fun b' => { b' with partials := b.partials }) s)) := by
  subst hb
  have none : (blockAt r k s).partials.find? (fun p => p.id == x.id) = none := by
    rw [List.find?_eq_none]
    simpa using hp
  have all : (blockAt r k s).partials.filter (fun p => p.id != x.id) = (blockAt r k s).partials := by
    rw [List.filter_eq_self]
    simpa using hp
  have last : ¬ ([m].length < x.cmd.reads) := by simpa using hr
  simp only [acceptRead, none, all, List.nil_append, last, if_false, completeCommand, hw, hs, Bool.false_eq_true]
  exact ⟨_, rfl⟩

/-! ## What a message does, case by case -/

theorem exec_blockMessage_idle {region : Fin 52} {block : Fin 1312} (p : Bool) (hq : (blockAt region block s).queue = []) :
    exec (.blockMessage region block p) s = .next s := by
  have e : exec (.blockMessage region block p) s = execBlockMessage region block p s := rfl
  rw [e, execBlockMessage, hq]

theorem exec_blockMessage {region : Fin 52} {block : Fin 1312} {x : Read} {rest : List Read} (p : Bool)
    (hq : (blockAt region block s).queue = x :: rest) :
    exec (.blockMessage region block p) s = .next (takeMessage region block p x rest s) := by
  have e : exec (.blockMessage region block p) s = execBlockMessage region block p s := rfl
  rw [e, execBlockMessage, hq]

/-- Without held commands nothing is released when a place in a queue becomes free. -/
theorem NoneHeld.release_feed {o : Nat} (r k : Nat) (h : NoneHeld o s) : releaseEngine o (feedBlock r k s) = feedBlock r k s :=
  NoneHeld.release (h.congr rfl)

/-- `t` comes from `s` by changes of one block's record and reports. -/
structure Screens (r k : Nat) (s t : State) : Prop where
  frame : t = { s with blocks := t.blocks, reports := t.reports }
  others : otherBlocksSame r k s t

theorem Screens.trans {r k : Nat} {u : State} (h : Screens r k s t) (g : Screens r k t u) : Screens r k s u where
  frame := g.frame.trans (by rw [h.frame])
  others := h.others.trans g.others

theorem Screens.noneHeld {r k o : Nat} (h : Screens r k s t) (g : NoneHeld o s) : NoneHeld o t :=
  g.of_regions (by rw [h.frame])

theorem setBlock_screens (r k : Nat) (f : Block → Block) (s : State) : Screens r k s (setBlock r k f s) :=
  ⟨rfl, setBlock_otherBlocks _ _ _ _⟩

theorem feedBlock_screens (r k : Nat) (s : State) : Screens r k s (feedBlock r k s) := setBlock_screens ..

theorem log_screens (r k : Nat) (c : Fin 16) (v : Fin 5) (code unit : Nat) (d : List Byte) (s : State) :
    Screens r k s (log c v code unit d s) := ⟨rfl, fun _ _ => rfl⟩

theorem taken_noneHeld {r k o : Nat} (rest : List Read) (h : NoneHeld o s) : NoneHeld o (taken r k rest s) := h.of_regions rfl

/-- The state once a discarded read has been logged and counted. -/
def discarded (r k : Nat) (l : List Nat) (d : List Byte) (s : State) : State :=
  setBlock r k (fun b => { b with discards := l }) (log (regionClass r) 2 0x0010 r d s)

theorem discarded_screens (r k : Nat) (l : List Nat) (d : List Byte) (s : State) : Screens r k s (discarded r k l d s) :=
  (log_screens ..).trans (setBlock_screens ..)

theorem blockAt_discarded (r k : Nat) (l : List Nat) (d : List Byte) (s : State) :
    blockAt r k (discarded r k l d s) = { blockAt r k s with discards := l } := blockAt_setBlock_self _ _ _ _

theorem discarded_codes (r k : Nat) (l : List Nat) (d : List Byte) (s : State) : codesJoin s (discarded r k l d s) [0x0010] := by
  simp [codesJoin, discarded, log]

theorem codesJoin.congr {u v : State} {l : List (BitVec 16)} (h : codesJoin s t l) (hu : u.reports = s.reports)
    (hv : v.reports = t.reports) : codesJoin u v l := by rw [codesJoin, hu, hv]; exact h

/-- A parity error, outside a mirrored pair and with fewer than 15 discarded reads of the block in the last second. -/
theorem discardRead_taken {r k : Nat} {l : List Nat} (x : Read) (rest : List Read) (hm : mirrored s = false)
    (hl : l = recent second (blockAt r k s).discards s) (hn : l.length < 15) :
    Screens r k (taken r k rest s) (discardRead r k x 0 (taken r k rest s))
      ∧ blockAt r k (discardRead r k x 0 (taken r k rest s)) =
        { blockAt r k s with queue := rest, mvms := (blockAt r k s).mvms + 1, discards := l ++ [s.now] }
      ∧ codesJoin s (discardRead r k x 0 (taken r k rest s)) [0x0010] := by
  have same : recent second (blockAt r k (taken r k rest s)).discards (taken r k rest s) = l := by rw [hl, blockAt_taken]; rfl
  obtain ⟨d, e⟩ := discardRead_counted (s := taken r k rest s) (r := r) (k := k) x 0 hm (by rw [same]; exact hn)
  rw [same] at e
  have e : discardRead r k x 0 (taken r k rest s) = discarded r k (l ++ [s.now]) d (taken r k rest s) := e
  rw [e, blockAt_discarded, blockAt_taken]
  exact ⟨discarded_screens .., rfl, (discarded_codes r k _ d (taken r k rest s)).congr rfl rfl⟩

/-- The state once a read waits again, behind the one that waits already, and the queue has been fed. -/
def requeued (r k : Nat) (x : Read) (s : State) : State :=
  feedBlock r k (setBlock r k (fun b => { b with queue := b.queue ++ [{ x with retry := true }] }) s)

theorem requeued_screens (r k : Nat) (x : Read) (s : State) : Screens r k s (requeued r k x s) :=
  (setBlock_screens ..).trans (feedBlock_screens ..)

theorem requeued_reports (r k : Nat) (x : Read) (s : State) : (requeued r k x s).reports = s.reports := by
  rw [requeued, feedBlock, setBlock_reports, setBlock_reports]

theorem blockAt_requeued (r k : Nat) (x : Read) (h : (blockAt r k s).ahead = []) : blockAt r k (requeued r k x s) =
    { blockAt r k s with queue := (blockAt r k s).queue ++ [{ x with retry := true }] } := by
  rw [requeued, blockAt_feedBlock_self, blockAt_setBlock_self]
  exact Block.feed_idle h

/-- The state once a message has completed its command, before the values are delivered. -/
def completed (r k : Nat) (rest : List Read) (ps : List Partial) (s : State) : State :=
  setRunning (fun u => { u with reads := u.reads - 1 }) (setBlock r k (fun b => { b with partials := ps }) (taken r k rest s))

theorem completed_frame (r k : Nat) (rest : List Read) (ps : List Partial) (s : State) : completed r k rest ps s =
    { s with draws := s.draws + 128, blocks := (completed r k rest ps s).blocks
             srv := { s.srv with running := s.srv.running.map fun u => { u with reads := u.reads - 1 } } } := by
  have counted : ∀ (f : Step → Step) (u : State), u = { s with draws := s.draws + 128, blocks := u.blocks } → setRunning f u =
      { s with draws := s.draws + 128, blocks := (setRunning f u).blocks, srv := { s.srv with running := s.srv.running.map f } } := by
    intro f u h; rw [h]; rfl
  exact counted _ _ rfl

theorem completed_otherBlocks (r k : Nat) (rest : List Read) (ps : List Partial) (s : State) :
    otherBlocksSame r k s (completed r k rest ps s) :=
  ((taken_otherBlocks r k rest s).trans (setBlock_otherBlocks r k _ _)).congr (setRunning_blocks _ _)

section Screened

variable {r k : Nat} {x : Read} {rest : List Read} (ha : rd (RGN_DEBUG_CTL.arm r) s = 0)
  (hb : (blockAt r k s).ahead = []) (hh : NoneHeld x.cmd.cmd.owner s) (hi : x.ignore = false)
include ha hb hh hi

section Parity

variable {l : List Nat} (hm : mirrored s = false) (hl : l = recent second (blockAt r k s).discards s) (hn : l.length < 15)
include hm hl hn

/-- The first parity error of a read. -/
theorem takeMessage_retried (hr : x.retry = false) :
    ∃ t, takeMessage r k true x rest s = t
      ∧ blockAt r k t = { blockAt r k s with
          queue := rest ++ [{ x with retry := true }], mvms := (blockAt r k s).mvms + 1, discards := l ++ [s.now] }
      ∧ codesJoin s t [0x0010] ∧ otherBlocksSame r k s t
      ∧ t = { s with draws := s.draws + 128, blocks := t.blocks, reports := t.reports } := by
  obtain ⟨counted, record, codes⟩ := discardRead_taken x rest hm hl hn
  have all := counted.trans (requeued_screens r k x _)
  have released : takeMessage r k true x rest s = requeued r k x (discardRead r k x 0 (taken r k rest s)) := by
    rw [takeMessage_eq k true x rest ha, if_neg (by simp [hi]), screen_parity, if_neg (by simp [hr])]
    exact (all.noneHeld (taken_noneHeld rest hh)).release
  refine ⟨_, released, ?_, codes.congr rfl (requeued_reports ..), (taken_otherBlocks r k rest s).trans all.others, all.frame⟩
  rw [blockAt_requeued _ _ _ (by rw [record]; exact hb), record]

omit hb in
/-- The second parity error of a read. -/
theorem takeMessage_lost (hr : x.retry = true) (ht : (blockAt r k s).retired = false) :
    ∃ t, takeMessage r k true x rest s = t ∧ (blockAt r k t).lost = true
      ∧ (blockAt r k t).queue = rest.map (fun q => { q with ignore := true })
      ∧ (blockAt r k t).want.contains .replay = true ∧ (blockAt r k t).window.isSome = true
      ∧ (∀ z, s.srv.running = some z → ∃ z', t.srv.running = some z' ∧ z'.num = z.num ∧ z'.void = true)
      ∧ codesJoin s t [0x0010] ∧ otherBlocksSame r k s t ∧ s.SameRegs [CHK_SUSPECT] t ∧ s.SameMemory t := by
  obtain ⟨counted, record, codes⟩ := discardRead_taken x rest hm hl hn
  have loss := loseBlock_spec r k x (discardRead r k x 0 (taken r k rest s)) (by rw [record]; exact ht)
  have e := takeMessage_eq k true x rest ha
  rw [if_neg (by simp [hi]), screen_parity, if_pos hr] at e
  generalize discardRead r k x 0 (taken r k rest s) = u at *
  obtain ⟨recorded, ⟨w, o, hw, lost⟩, void⟩ := loss
  have held := recorded.noneHeld _ (counted.noneHeld (taken_noneHeld rest hh))
  rw [held.release_feed] at e
  have fed := feedBlock_screens r k (loseBlock r k x u)
  have final : blockAt r k (feedBlock r k (loseBlock r k x u)) = { (blockAt r k u).lose with want := w, window := some o } := by
    rw [blockAt_feedBlock_self, lost]
    exact Block.feed_idle rfl
  rw [record] at final
  refine ⟨_, e, ?_, ?_, ?_, ?_, ?_, ?_, ?_, ?_, ?_⟩
  · rw [final]; rfl
  · rw [final]; rfl
  · rw [final]; exact hw
  · rw [final]; rfl
  · intro z hz
    rw [fed.frame]
    exact void z (by rw [counted.frame]; exact hz)
  · refine codes.congr rfl ?_
    rw [feedBlock, setBlock_reports, recorded.frame]
  · exact ((taken_otherBlocks r k rest s).trans counted.others).trans (recorded.others.trans fed.others)
  · refine .trans (.trans (t := u) (.of_regs ?_) recorded.regs) (.of_regs ?_)
    · rw [counted.frame]; rfl
    · rw [fed.frame]
  · rw [fed.frame, recorded.frame, counted.frame]
    exact ⟨rfl, rfl, rfl, rfl, rfl⟩

end Parity

/-- A usable message of a command with one read. -/
theorem takeMessage_completed (p : Bool) (hw : x.window = false) (hs : x.selected = false) (hr : x.cmd.reads ≤ 1)
    (hp : ((blockAt r k s).partials.all fun q => q.id != x.id) = true)
    (hu : unusable x.cmd r k (analogueRead x.cmd r k s.draws s) p s = none) :
    blockAt r k (takeMessage r k p x rest s) = { blockAt r k s with queue := rest, mvms := (blockAt r k s).mvms + 1 }
      ∧ otherBlocksSame r k s (takeMessage r k p x rest s)
      ∧ (takeMessage r k p x rest s).srv.running = s.srv.running.map (fun u => { u with reads := u.reads - 1 })
      ∧ otherRegionsSame x.cmd.cmd.owner s (takeMessage r k p x rest s) ∧ s.SameMemory (takeMessage r k p x rest s)
      ∧ (takeMessage r k p x rest s).nv = s.nv ∧ (takeMessage r k p x rest s).draws = s.draws + 128 := by
  have e := takeMessage_eq k p x rest ha
  rw [if_neg (by simp [hi]), screen_usable rest hu] at e
  generalize (analogueRead x.cmd r k s.draws s).msg = m at e
  generalize headerWord x.cmd m.phases _ false = header at e
  obtain ⟨ys, a⟩ := acceptRead_single (s := taken r k rest s) m header rfl hw hs hr (by rw [blockAt_taken]; exact hp)
  have v := completed_frame r k rest (blockAt r k (taken r k rest s)).partials s
  have block : blockAt r k (completed r k rest (blockAt r k (taken r k rest s)).partials s)
      = { blockAt r k s with queue := rest, mvms := (blockAt r k s).mvms + 1 } := by
    rw [completed, blockAt_setRunning, blockAt_setBlock_self, blockAt_taken]
  have blocks := completed_otherBlocks r k rest (blockAt r k (taken r k rest s)).partials s
  rw [a, ← completed] at e
  generalize completed r k rest (blockAt r k (taken r k rest s)).partials s = u at *
  have regions : u.regions = s.regions := by rw [v]
  have adds := deliver_addsTo x.cmd header ys u
  have held := adds.noneHeld (hh.of_regions regions)
  have fed := feedBlock_screens r k (deliver x.cmd header ys u)
  rw [held.release_feed] at e
  have delivered : (deliver x.cmd header ys u).blocks = u.blocks := by rw [adds.frame]
  rw [e]
  refine ⟨?_, ?_, ?_, fun q hq => ?_, ?_, ?_, ?_⟩
  · rw [blockAt_feedBlock_self, blockAt_congr delivered, block]
    exact Block.feed_idle hb
  · exact (blocks.congr delivered).trans fed.others
  · rw [fed.frame, adds.frame, v]
  · rw [feedBlock, regionAt_congr (setBlock_regions ..), adds.otherRegions q hq, regionAt_congr regions]
  · rw [fed.frame, adds.frame, v]
    exact ⟨rfl, rfl, rfl, rfl, rfl⟩
  all_goals rw [fed.frame, adds.frame, v]

end Screened

/-! ## Debug capture (R48 to R50) -/

/-- A write of RGN_DEBUG_CTL outside debug mode is ignored and logged. -/
theorem debugCtlWrite_outside {r : Nat} {w : Write} (hw : reaches w.who s) (hd : debugMode s = false) :
    debugCtlWrite r w s = logIgnored w.who (RGN_DEBUG_CTL r) w.data.toNat s := by
  obtain ⟨may, bar⟩ := hw
  simp [debugCtlWrite, guarded, byWriter, viaBar, may, bar, hd]

/-- The selection and the read pointer as a write of RGN_DEBUG_CTL takes them. -/
def selectCapture (r : Nat) (w : Write) (s : State) : State :=
  wtake (RGN_DEBUG_CTL.sel r) w <| wtake (RGN_DEBUG_CTL.block r) w <| wtake (RGN_DEBUG_CTL.array r) w <|
    wtake (RGN_DEBUG_CTL.tile r) w <| wtake (RGN_DEBUG_CTL.rdptr r) w s

theorem debugCtlWrite_inside {r : Nat} {w : Write} (hw : reaches w.who s) (hd : debugMode s = true) (hh : w.half ≠ .upper) :
    debugCtlWrite r w s =
      if wbits (RGN_DEBUG_CTL.arm r) w s != 0 then
        if rd (RGN_DEBUG_CTL.sel r) (selectCapture r w s) = 3 then selectCapture r w s
        else if rd (RGN_DEBUG_CTL.sel r) (selectCapture r w s) != 2
            && decide (1312 ≤ rd (RGN_DEBUG_CTL.block r) (selectCapture r w s)) then selectCapture r w s
        else wr (RGN_DEBUG_CTL.arm r) 1 (clearCapture r (selectCapture r w s))
      else if rdb (RGN_DEBUG_CTL.arm r) s then wr (RGN_DEBUG_CTL.arm r) 0 (clearCapture r (selectCapture r w s))
      else selectCapture r w s := by
  obtain ⟨may, bar⟩ := hw
  simp only [debugCtlWrite, guarded, byWriter, viaBar, may, bar, hd, bne_iff_ne.2 hh, Bool.not_true, Bool.false_eq_true, if_false,
    if_true]
  rfl

/-- The written bits of a field do not depend on another field of the register. -/
theorem wbits_wr_ne {f g : Fld} (w : Write) (n : Nat) (s : State) (h : g.lo + g.w ≤ f.lo ∨ f.lo + f.w ≤ g.lo) :
    wbits g w (wr f n s) = wbits g w s := by
  by_cases ho : g.off = f.off
  · apply Nat.eq_of_testBit_eq
    intro i
    rw [wbits, wbits, testBit_fget, testBit_fget, ho, reg_wr_self]
    by_cases hi : i < g.w
    · by_cases h64 : g.lo + i < 64
      · simp only [BitVec.getLsbD_or, BitVec.getLsbD_and, getLsbD_fput _ _ _ _ h64]
        rw [if_neg (by omega)]
      · rw [BitVec.getLsbD_of_ge _ _ (by omega), BitVec.getLsbD_of_ge _ _ (by omega)]
    · simp [hi]
  · rw [wbits, wbits, reg_wr_ne n s ho]

theorem wbits_lt (f : Fld) (w : Write) (s : State) : wbits f w s < 2 ^ f.w := fget_lt _ _

theorem rd_wtake_self {f : Fld} (w : Write) (s : State) (h : f.lo + f.w ≤ 64) : rd f (wtake f w s) = wbits f w s := by
  rw [wtake, rd_wr_self _ _ _ h, Nat.mod_eq_of_lt (wbits_lt ..)]

theorem rd_selectCapture_sel (r : Nat) (w : Write) (s : State) :
    rd (RGN_DEBUG_CTL.sel r) (selectCapture r w s) = wbits (RGN_DEBUG_CTL.sel r) w s := by
  rw [selectCapture, rd_wtake_self _ _ (by simp)]
  iterate 4 rw [wtake, wbits_wr_ne _ _ _ (by simp)]

theorem rd_selectCapture_block (r : Nat) (w : Write) (s : State) :
    rd (RGN_DEBUG_CTL.block r) (selectCapture r w s) = wbits (RGN_DEBUG_CTL.block r) w s := by
  rw [selectCapture, wtake, rd_wr_ne _ _ (by simp), rd_wtake_self _ _ (by simp)]
  iterate 3 rw [wtake, wbits_wr_ne _ _ _ (by simp)]

/-- `t` comes from `s` by a change of a region's capture and its control register. -/
structure Captures (r : Nat) (s t : State) : Prop where
  frame : t = { s with regs := t.regs, regions := t.regions }
  regs : s.SameRegs [RGN_DEBUG_CTL r] t

theorem Captures.trans {r : Nat} {u : State} (h : Captures r s t) (g : Captures r t u) : Captures r s u where
  frame := g.frame.trans (by rw [h.frame])
  regs := h.regs.trans g.regs

theorem wr_captures {r : Nat} {f : Fld} (n : Nat) (s : State) (h : f.off = RGN_DEBUG_CTL r) : Captures r s (wr f n s) :=
  ⟨rfl, (State.SameRegs.refl _ _).wr n (by simp [h])⟩

theorem setRegion_captures (r q : Nat) (f : Region → Region) (s : State) : Captures r s (setRegion q f s) :=
  ⟨rfl, .of_regs rfl⟩

theorem selectCapture_captures (r : Nat) (w : Write) (s : State) : Captures r s (selectCapture r w s) :=
  ((((wr_captures _ _ rfl).trans (wr_captures _ _ rfl)).trans (wr_captures _ _ rfl)).trans (wr_captures _ _ rfl)).trans
    (wr_captures _ _ rfl)

theorem selectCapture_regions (r : Nat) (w : Write) (s : State) : (selectCapture r w s).regions = s.regions := by
  simp only [selectCapture, wtake, wr_regions]

/-- A capture armed or cancelled: the last one is erased (R49). -/
def restartCapture (r : Nat) (w : Write) (arm : Nat) (s : State) : State :=
  wr (RGN_DEBUG_CTL.arm r) arm (clearCapture r (selectCapture r w s))

theorem restartCapture_captures (r : Nat) (w : Write) (arm : Nat) (s : State) : Captures r s (restartCapture r w arm s) :=
  ((((selectCapture_captures r w s).trans (setRegion_captures ..)).trans (wr_captures _ _ rfl)).trans (wr_captures _ _ rfl)).trans
    (wr_captures _ _ rfl)

theorem restartCapture_regions (r : Nat) (w : Write) (arm : Nat) (s : State) : (restartCapture r w arm s).regions =
    (setRegion r (fun u => { u with capture := [] }) (selectCapture r w s)).regions := by
  simp only [restartCapture, clearCapture, wr_regions]

theorem regionAt_restartCapture_self (r : Nat) (w : Write) (arm : Nat) (s : State) :
    regionAt r (restartCapture r w arm s) = { regionAt r s with capture := [] } := by
  rw [regionAt_congr (restartCapture_regions ..), regionAt_setRegion_self, regionAt_congr (selectCapture_regions ..)]

theorem restartCapture_otherRegions (r : Nat) (w : Write) (arm : Nat) (s : State) :
    otherRegionsSame r s (restartCapture r w arm s) := fun q hq => by
  rw [regionAt_congr (restartCapture_regions ..), regionAt_setRegion_ne _ _ hq, regionAt_congr (selectCapture_regions ..)]

theorem rd_restartCapture_arm (r : Nat) (w : Write) {arm : Nat} (h : arm < 2) (s : State) :
    rd (RGN_DEBUG_CTL.arm r) (restartCapture r w arm s) = arm := by
  rw [restartCapture, rd_wr_self _ _ _ (by simp), Nat.mod_eq_of_lt (by simpa using h)]

theorem rd_restartCapture_done (r : Nat) (w : Write) (arm : Nat) (s : State) :
    rd (RGN_DEBUG_CTL.done r) (restartCapture r w arm s) = 0 := by
  rw [restartCapture, rd_wr_ne _ _ (by simp), clearCapture, rd_wr_self _ _ _ (by simp), Nat.zero_mod]

theorem rd_setRegion (g : Fld) (r : Nat) (f : Region → Region) (s : State) : rd g (setRegion r f s) = rd g s := rfl

/-- A field apart from arm, done and count reads as the selection left it. -/
theorem rd_restartCapture {r : Nat} {f : Fld} (w : Write) (arm : Nat) (s : State) (hl : 2 ≤ f.lo) (hh : f.lo + f.w ≤ 32) :
    rd f (restartCapture r w arm s) = rd f (selectCapture r w s) := by
  rw [restartCapture, rd_wr_ne _ _ (.inr (.inr (by simp; omega))), clearCapture, rd_wr_ne _ _ (.inr (.inr (by simp; omega))),
    rd_wr_ne _ _ (.inr (.inl (by simp; omega))), rd_setRegion]

section Control

variable {region : Fin 52} {w : Write} {c : Instr} (hw : reaches w.who s) (hc : c ∈ [Instr.debugArm region w, .debugCancel region w])
include hc

theorem exec_debugControl : exec c s = .next (debugCtlWrite region w s) := by
  rcases List.mem_pair.1 hc with rfl | rfl <;> rfl

include hw

theorem debugControl_ignored (hd : debugMode s = false) :
    ∃ t, exec c s = .next t ∧ codesJoin s t [0x0002] ∧ t = { s with reports := t.reports } := by
  rw [exec_debugControl hc, debugCtlWrite_outside hw hd]
  exact ⟨_, rfl, by simp [codesJoin, logIgnored, log], rfl⟩

variable (hd : debugMode s = true) (hh : w.half ≠ .upper)
include hd hh

theorem debugControl_arm (ha : wbits (RGN_DEBUG_CTL.arm region) w s = 1)
    (hv : wbits (RGN_DEBUG_CTL.sel region) w s = 2
      ∨ wbits (RGN_DEBUG_CTL.sel region) w s < 2 ∧ wbits (RGN_DEBUG_CTL.block region) w s < 1312) :
    exec c s = .next (restartCapture region w 1 s) := by
  rw [exec_debugControl hc, debugCtlWrite_inside hw hd hh, if_pos (by simp [ha]), rd_selectCapture_sel, rd_selectCapture_block,
    if_neg (by omega), if_neg (by simp; omega)]
  rfl

theorem debugControl_cancel (ha : wbits (RGN_DEBUG_CTL.arm region) w s = 0) (hr : rd (RGN_DEBUG_CTL.arm region) s = 1) :
    exec c s = .next (restartCapture region w 0 s) := by
  rw [exec_debugControl hc, debugCtlWrite_inside hw hd hh, if_neg (by simp [ha]), if_pos (by simp [rdb, hr])]
  rfl

end Control

/-! ## The captured words are read (R50) -/

section Data

variable {who : Master} {region : Fin 52} {half : Half} (hb : barClosed who s = false)
include hb

theorem debugDataRead_empty (h : debugMode s = false ∨ rd (RGN_DEBUG_CTL.done region) s = 0
      ∨ rd (RGN_DEBUG_CTL.count region) s ≤ rd (RGN_DEBUG_CTL.rdptr region) s) :
    exec (.debugDataRead who region half) s = .next { s with out := .word 0 } := by
  have none : (debugMode s && rdb (RGN_DEBUG_CTL.done region) s
      && decide (rd (RGN_DEBUG_CTL.rdptr region) s < rd (RGN_DEBUG_CTL.count region) s)) = false := by
    rcases h with h | h | h
    · simp [h]
    · simp [rdb, h]
    · simp [Nat.not_lt.2 h]
  have e : exec (.debugDataRead who region half) s = .next (debugDataRead who region half s) := rfl
  rw [e, debugDataRead, viaBar, if_neg (by simp [hb])]
  simp only [none, Bool.false_eq_true, if_false]
  rfl

theorem debugDataRead_word (hd : debugMode s = true) (hf : rd (RGN_DEBUG_CTL.done region) s = 1)
    (hp : rd (RGN_DEBUG_CTL.rdptr region) s < rd (RGN_DEBUG_CTL.count region) s) :
    exec (.debugDataRead who region half) s =
      .next (answer (.word (halfOf half ((regionAt region s).capture.getD (rd (RGN_DEBUG_CTL.rdptr region) s) 0)))
        (wr (RGN_DEBUG_CTL.rdptr region) (rd (RGN_DEBUG_CTL.rdptr region) s + 1) s)) := by
  have e : exec (.debugDataRead who region half) s = .next (debugDataRead who region half s) := rfl
  rw [e, debugDataRead, viaBar, if_neg (by simp [hb])]
  simp only [hd, rdb, hf, hp, decide_true, Bool.and_true, Bool.true_and]
  rfl

end Data

/-- The read pointer moves on by one: it stays within its field, for it was below the count. -/
theorem rdptr_moves_on {r : Nat} (hp : rd (RGN_DEBUG_CTL.rdptr r) s < rd (RGN_DEBUG_CTL.count r) s) :
    rd (RGN_DEBUG_CTL.rdptr r) (wr (RGN_DEBUG_CTL.rdptr r) (rd (RGN_DEBUG_CTL.rdptr r) s + 1) s)
      = rd (RGN_DEBUG_CTL.rdptr r) s + 1 := by
  have bound : rd (RGN_DEBUG_CTL.count r) s < 2 ^ 16 := rd_lt _ s
  rw [rd_wr_self _ _ _ (by simp)]
  exact Nat.mod_eq_of_lt (by simp; omega)

/-! ## The obligation -/

/-- Settles O58. It holds: an MVM command is taken apart by `startMvm_served` and `issueMvm_eq`, a message by the lemmas about
`takeMessage`, a debug register by `debugCtlWrite_inside` and `debugDataRead_word`. -/
theorem mvmCommandsMessagesAndCaptures : Obligations.MvmCommandsMessagesAndCaptures := by
  unfold Obligations.MvmCommandsMessagesAndCaptures
  refine ⟨⟨?_, ?_⟩, fun region s => ⟨fun c w hw hc => ?_, ?_, ?_⟩⟩
  · intro c region block b s hd hr hk hb
    refine ⟨mvmCommand_unserved hd, ?_⟩
    rintro x m hs hx rfl hf
    refine ⟨fun hz => ?_, fun hz hh => ?_, fun hz hh hq => ⟨fun hi hw => ?_, fun hi hp hl hw ht => ?_⟩⟩
    · exact ⟨_, mvmCommand_zero hd hs hx hf hz, tileAt_tileBusy_self .., fun r n h => tileBusy_others h, rfl⟩
    · refine ⟨_, mvmCommand_held hd hs hx hf hz hh, ?_, fun r n h => (tileAt_setTile_ne _ _ h).trans (tileBusy_others h), rfl⟩
      rw [tileAt_setTile_self, tileAt_tileBusy_self]
    · obtain ⟨t, e, facts⟩ := issueMvm_standing_busy (c := c) rfl hi
      exact ⟨t, (mvmCommand_issued hd hs hx hf hz hh hq (.inr hw)).trans (congrArg _ e), facts⟩
    · obtain ⟨t, selected, reads, e, facts⟩ := issueMvm_block_busy (c := c) rfl hr hk hb hi hp hl hw ht
      exact ⟨t, selected, reads, (mvmCommand_issued hd hs hx hf hz hh hq (.inl hi)).trans (congrArg _ e), facts⟩
  · rintro region block parity b s rfl
    refine ⟨exec_blockMessage_idle parity, fun r rest hq ha hm hb _ hh => ?_⟩
    rw [exec_blockMessage parity hq]
    refine ⟨fun hi => ?_, ?_, ?_, ?_⟩
    · rw [takeMessage_eq _ parity r rest ha, if_pos hi]
      exact ⟨_, rfl, blockAt_taken .., taken_otherBlocks _ _ _ _, rfl⟩
    · rintro hi hr rfl hn
      obtain ⟨t, e, facts⟩ := takeMessage_retried (rest := rest) ha hb hh hi hm rfl hn hr
      exact ⟨t, congrArg _ e, facts⟩
    · rintro hi hr rfl hn ht
      obtain ⟨t, e, facts⟩ := takeMessage_lost (rest := rest) ha hh hi hm rfl hn hr ht
      exact ⟨t, congrArg _ e, facts⟩
    · exact fun hi hw hs hr hp => ⟨_, rfl, takeMessage_completed ha hb hh hi parity hw hs hr hp⟩
  · refine ⟨debugControl_ignored hw hc, fun hd hh => ⟨fun ha hv => ?_, fun ha hr => ?_⟩⟩
    · have g := restartCapture_captures region w 1 s
      refine ⟨_, debugControl_arm hw hc hd hh ha hv, rd_restartCapture_arm _ _ (by decide) _, rd_restartCapture_done .., ?_, ?_,
        regionAt_restartCapture_self .., g.regs, restartCapture_otherRegions _ _ _ _, g.frame⟩
      · rw [rd_restartCapture _ _ _ (by simp) (by simp), rd_selectCapture_sel]
      · rw [rd_restartCapture _ _ _ (by simp) (by simp), rd_selectCapture_block]
    · have g := restartCapture_captures region w 0 s
      exact ⟨_, debugControl_cancel hw hc hd hh ha hr, rd_restartCapture_arm _ _ (by decide) _, rd_restartCapture_done ..,
        regionAt_restartCapture_self .., g.regs, restartCapture_otherRegions _ _ _ _, g.frame⟩
  · exact fun who half hb => debugDataRead_empty hb
  · intro who half hb hd hf hp
    exact ⟨_, debugDataRead_word hb hd hf hp, rfl, rdptr_moves_on hp, (State.SameRegs.refl _ _).wr _ (by simp), rfl⟩

end Sys2Proof.Machine
end

section
/-! PROOFS. Mailbox commands (16_cxl.md R421 to R427): what the buffer reads after a completion, what a command on a free mailbox comes
to, that what GET_INFO and RECIPE_SET read is outside the registers a start writes, and O26 assembled from that. -/

namespace Sys2Proof.Machine

variable {s t u : State}

/-! ## Bytes of a little-endian number -/

/-- A byte of a little-endian number is that byte of the list, zero past its end. -/
theorem byte_leNat (l : List Byte) (i : Nat) : BitVec.ofNat 8 (leNat l >>> (8 * i)) = l.getD i 0 := by
  induction l generalizing i with
  | nil => simp [leNat]
  | cons b l ih =>
    cases i with
    | zero => exact BitVec.eq_of_toNat_eq (by simp [leNat, b.isLt])
    | succ i =>
      have rest : leNat (b :: l) >>> 8 = leNat l := by simp only [leNat, Nat.shiftRight_eq_div_pow]; omega
      rw [show 8 * (i + 1) = 8 + 8 * i by omega, Nat.shiftRight_add, rest, ih, List.getD_cons_succ]

/-- A 64-bit word holds its eight bytes. -/
theorem byte_wordOf (l : List Byte) {i : Nat} (hi : i < 8) :
    BitVec.ofNat 8 ((BitVec.ofNat 64 (leNat l)).toNat >>> (8 * i)) = l.getD i 0 := by
  rw [← byte_leNat]
  apply BitVec.eq_of_getLsbD_eq
  intro j hj
  rw [BitVec.getLsbD_ofNat, BitVec.getLsbD_ofNat, Nat.testBit_shiftRight, Nat.testBit_shiftRight, BitVec.toNat_ofNat,
    Nat.testBit_mod_two_pow, decide_eq_true (show 8 * i + j < 64 by omega), Bool.true_and]

/-! ## The buffer after a completion -/

theorem sget_filter {α : Type} (d : Nat → α) (p : Nat → Bool) (m : List (Nat × α)) (k : Nat) :
    sget d (m.filter fun e => p e.1) k = if p k then sget d m k else d k := by
  induction m with
  | nil => simp
  | cons e m ih =>
    obtain ⟨j, v⟩ := e
    by_cases hj : k = j
    · subst hj
      cases h : p k <;> simp [h, ih, sget]
    · cases h : p j <;> simp [h, ih, sget, hj]

/-- No row of the index gives a word of the buffer a value after POR (R424, R554). -/
theorem regTable_buffer : ∀ r ∈ regTable, r.por = 0 ∨ r.base + r.stride * r.count ≤ MBX_DATA 0 ∨ MBX_DATA 511 < r.base := by
  decide +kernel

theorem regPor_buffer {off : Nat} (h0 : MBX_DATA 0 ≤ off) (h1 : off ≤ MBX_DATA 511) : regPor off = 0 := by
  unfold regPor
  split
  next r hr =>
    have inside := List.find?_some hr
    simp only [Bool.and_eq_true, decide_eq_true_eq] at inside
    obtain ⟨⟨lower, upper⟩, -⟩ := inside
    rcases regTable_buffer r (List.mem_of_find?_eq_some hr) with h | h | h
    · exact h
    · omega
    · omega
  next => rfl

theorem reg_clearMbx (off : Nat) (s : State) :
    (clearMbx s).reg off = if off < MBX_DATA 0 ∨ MBX_DATA 511 < off then s.reg off else 0 := by
  have cleared := sget_filter regPor (fun k => decide (k < MBX_DATA 0) || decide (MBX_DATA 511 < k)) s.regs off
  rw [State.reg, clearMbx, cleared]
  by_cases h : off < MBX_DATA 0 ∨ MBX_DATA 511 < off
  · rw [if_pos (by simpa using h), if_pos h, State.reg]
  · rw [if_neg (by simpa using h), if_neg h, regPor_buffer (by omega) (by omega)]

theorem putMbx_frame (w : Nat) (l : List Byte) (n : Nat) (s : State) : putMbx w l n s = { s with regs := (putMbx w l n s).regs } := by
  induction n generalizing w l s with
  | zero => rfl
  | succ n ih => rw [putMbx, ih]; rfl

/-- A register that no written word lies in reads as before. -/
theorem reg_putMbx_ne {w off n : Nat} (l : List Byte) (s : State) (h : ∀ j, w ≤ j → j < w + n → off ≠ MBX_DATA j) :
    (putMbx w l n s).reg off = s.reg off := by
  induction n generalizing w l s with
  | zero => rfl
  | succ n ih =>
    rw [putMbx, ih _ _ fun j h1 h2 => h j (by omega) (by omega), reg_setReg_ne _ _ (h w (by omega) (by omega))]

theorem reg_putMbx {w j n : Nat} (l : List Byte) (s : State) (h : j < n) :
    (putMbx w l n s).reg (MBX_DATA (w + j)) = BitVec.ofNat 64 (leNat ((l.drop (8 * j)).take 8)) := by
  induction n generalizing w j l s with
  | zero => omega
  | succ n ih =>
    cases j with
    | zero =>
      rw [putMbx, reg_putMbx_ne _ _ fun i h1 _ => by simp only [MBX_DATA]; omega, Nat.add_zero, reg_setReg_self]
      rfl
    | succ j =>
      rw [putMbx, show w + (j + 1) = w + 1 + j by omega, ih _ _ (by omega), List.drop_drop, Nat.mul_succ, Nat.add_comm]

/-- The fields of MBX_STAT that a completion sets. -/
def mbxStatDone (status n : Nat) (s : State) : State :=
  incWrap MBX_STAT.count 1 (wr MBX_STAT.busy 0 (wr MBX_STAT.done 1 (wr MBX_STAT.status status (wr MBX_STAT.out_len n s))))

theorem mbxComplete_eq (status : Nat) (out : List Byte) (s : State) :
    mbxComplete status out s = mbxStatDone status out.length (putMbx 0 out ((out.length + 7) / 8) (clearMbx s)) := rfl

theorem reg_mbxStatDone {off : Nat} (status n : Nat) (s : State) (h : off ≠ MBX_STAT) :
    (mbxStatDone status n s).reg off = s.reg off := by
  rw [mbxStatDone, incWrap]
  iterate 5 rw [reg_wr_ne _ _ h]

theorem mbxComplete_frame (status : Nat) (out : List Byte) (s : State) :
    mbxComplete status out s = { s with regs := (mbxComplete status out s).regs } := by
  rw [mbxComplete_eq, putMbx_frame]
  rfl

/-- A completion writes the buffer and MBX_STAT alone. -/
theorem reg_mbxComplete {status off : Nat} {out : List Byte} (s : State) (hl : out.length ≤ 4096)
    (h : off < MBX_DATA 0 ∨ MBX_DATA 511 < off) (hs : off ≠ MBX_STAT) : (mbxComplete status out s).reg off = s.reg off := by
  rw [mbxComplete_eq, reg_mbxStatDone _ _ _ hs, reg_putMbx_ne _ _ fun j _ hj => by simp only [MBX_DATA] at h ⊢; omega, reg_clearMbx,
    if_pos h]

/-- The buffer holds the output, and zero past its end. -/
theorem mbxByte_mbxComplete {status i : Nat} (out : List Byte) (s : State) (hi : i < 4096) :
    mbxByte i (mbxComplete status out s) = out.getD i 0 := by
  rw [mbxByte, mbxComplete_eq, reg_mbxStatDone _ _ _ (by simp only [MBX_DATA, MBX_STAT]; omega)]
  by_cases h : i / 8 < (out.length + 7) / 8
  · have word := reg_putMbx (w := 0) out (clearMbx s) h
    rw [Nat.zero_add] at word
    rw [word, byte_wordOf _ (by omega)]
    simp [List.getD_eq_getElem?_getD, Nat.mod_lt, show 8 * (i / 8) + i % 8 = i by omega]
  · rw [reg_putMbx_ne _ _ fun j _ hj => by simp only [MBX_DATA]; omega, reg_clearMbx, if_neg (by simp only [MBX_DATA]; omega)]
    simp [List.getD_eq_getElem?_getD, List.getElem?_eq_none (show out.length ≤ i by omega)]

/-- MBX_STAT after a completion (R423). -/
theorem rd_mbxStatDone {status n : Nat} (s : State) (hs : status < 256) (hn : n ≤ 4096) :
    let d := mbxStatDone status n s
    rd MBX_STAT.busy d = 0 ∧ rd MBX_STAT.done d = 1 ∧ rd MBX_STAT.status d = status ∧ rd MBX_STAT.out_len d = n
      ∧ rd MBX_STAT.count d = (rd MBX_STAT.count s + 1) % 65536 := by
  simp only [mbxStatDone, incWrap]
  refine ⟨?_, ?_, ?_, ?_, ?_⟩
  · rw [rd_wr_ne _ _ (by simp), rd_wr_self _ _ _ (by simp), Nat.zero_mod]
  · rw [rd_wr_ne _ _ (by simp), rd_wr_ne _ _ (by simp), rd_wr_self _ _ _ (by simp)]
    rfl
  · iterate 3 rw [rd_wr_ne _ _ (by simp)]
    rw [rd_wr_self _ _ _ (by simp), Nat.mod_eq_of_lt (by simpa using hs)]
  · iterate 4 rw [rd_wr_ne _ _ (by simp)]
    rw [rd_wr_self _ _ _ (by simp), Nat.mod_eq_of_lt (by simp; omega)]
  · rw [rd_wr_self _ _ _ (by simp)]
    iterate 4 rw [rd_wr_ne _ _ (by simp)]
    rfl

/-- No register but MBX_CMD, MBX_STAT and those of `but` has changed, nor has MBX_STAT.count. -/
structure MbxStarts (but : List Nat) (s u : State) : Prop where
  regs : s.SameRegs (MBX_CMD :: MBX_STAT :: but) u
  count : rd MBX_STAT.count u = rd MBX_STAT.count s

/-- What the host finds when a command has completed (R421) whose run left `u`: its status, its output, no register changed outside the
mailbox and `but`, the rest of the state as in `u`. -/
structure MbxAnswers (but : List Nat) (s u t : State) (status : Nat) (out : List Byte) : Prop where
  done : mbxDone s t status out.length
  bytes : ∀ i, i < 4096 → mbxByte i t = out.getD i 0
  outside : sameOutsideMbx but s t
  frame : t = { u with regs := t.regs }

theorem MbxStarts.answers {but : List Nat} (h : MbxStarts but s u) {status : Nat} {out : List Byte} (hs : status < 256)
    (hl : out.length ≤ 4096) : MbxAnswers but s u (mbxComplete status out u) status out where
  done := by
    obtain ⟨busy, done, code, len, count⟩ := rd_mbxStatDone (putMbx 0 out ((out.length + 7) / 8) (clearMbx u)) hs hl
    have kept : rd MBX_STAT.count (putMbx 0 out ((out.length + 7) / 8) (clearMbx u)) = rd MBX_STAT.count s := by
      rw [rd, reg_putMbx_ne _ _ fun j _ _ => by simp only [MBX_DATA, MBX_STAT]; omega, reg_clearMbx, if_pos (.inl (by decide)),
        ← h.count, rd]
    refine ⟨busy, done, code, len, by rw [← kept]; exact count, fun i hn hi => ?_⟩
    rw [mbxByte_mbxComplete _ _ hi, List.getD_eq_default _ _ hn]
  bytes i hi := mbxByte_mbxComplete _ _ hi
  outside off ho hm := (reg_mbxComplete u hl ho fun e => hm (by simp [e])).trans (h.regs off hm)
  frame := mbxComplete_frame ..

/-- An answer that is a number reads back as that number. -/
theorem MbxAnswers.nat {but : List Nat} {status n v : Nat} (h : MbxAnswers but s u t status (leBytes n v)) (hn : n ≤ 4096) :
    mbxNat 0 n t = v % 256 ^ n := by
  have same : (List.range n).map (fun i => mbxByte (0 + i) t) = leBytes n v := by
    refine List.ext_getElem (by simp) fun i hi hv => ?_
    have lt : i < n := by simpa using hi
    rw [List.getElem_map, List.getElem_range, Nat.zero_add, h.bytes i (by omega), List.getD_eq_getElem _ _ hv]
  rw [mbxNat, same, leNat_leBytes]

/-! ## The start of a command (R421, R422) -/

section Start

variable {op len : Nat} (hop : op ≠ 0x0011)
include hop

theorem mbxStart_eq (s : State) : mbxStart op len s = wr MBX_STAT.busy 1 (wr MBX_CMD.opcode op (wr MBX_CMD.in_len len s)) := by
  simp [mbxStart, hop]

theorem mbxStart_starts (s : State) : MbxStarts [] s (mbxStart op len s) := by
  rw [mbxStart_eq hop]
  refine ⟨(((State.SameRegs.refl _ _).wr _ (by simp)).wr _ (by simp)).wr _ (by simp), ?_⟩
  iterate 3 rw [rd_wr_ne _ _ (by simp)]

theorem mbxStart_frame (s : State) : mbxStart op len s = { s with regs := (mbxStart op len s).regs } := by
  rw [mbxStart_eq hop]
  rfl

theorem reg_mbxStart {off : Nat} (s : State) (h : off ∉ [MBX_CMD, MBX_STAT]) : (mbxStart op len s).reg off = s.reg off :=
  (mbxStart_starts hop s).regs off h

theorem rd_mbxStart {f : Fld} (s : State) (h : f.off ∉ [MBX_CMD, MBX_STAT]) : rd f (mbxStart op len s) = rd f s := by
  rw [rd, rd, reg_mbxStart hop s h]

theorem mbxByte_mbxStart (i : Nat) (s : State) : mbxByte i (mbxStart op len s) = mbxByte i s := by
  rw [mbxByte, mbxByte, reg_mbxStart hop s (by simp only [MBX_DATA, MBX_CMD, MBX_STAT, List.mem_pair]; omega)]

theorem mbxNat_mbxStart (off n : Nat) (s : State) : mbxNat off n (mbxStart op len s) = mbxNat off n s := by
  simp only [mbxNat, mbxByte_mbxStart hop]

theorem srv_mbxStart (s : State) : (mbxStart op len s).srv = s.srv := by rw [mbxStart_frame hop]

theorem hostManages_mbxStart (s : State) : hostManages (mbxStart op len s) = hostManages s := by
  rw [mbxStart_frame hop]
  rfl

/-- GET_INFO reads nothing that the start of a command writes. -/
theorem infoBytes_mbxStart (s : State) : infoBytes (mbxStart op len s) = infoBytes s := by
  have boot : (mbxStart op len s).boot = s.boot := by rw [mbxStart_frame hop]
  simp only [infoBytes, rd_mbxStart hop s (f := BOOT_IMG_INFO.fw_version) (by simp), rd_mbxStart hop s (f := GLB_STEP.step) (by simp),
    hostManages_mbxStart hop, boot]

theorem recipeEntry_mbxStart (i : Nat) (s : State) : recipeEntry i (mbxStart op len s) = recipeEntry i s := by
  simp only [recipeEntry, mbxNat_mbxStart hop]

theorem recipeEntryOk_mbxStart (e : Nat × Nat × Nat) (s : State) : recipeEntryOk e (mbxStart op len s) = recipeEntryOk e s := by
  by_cases slot : e.1 < 4
  · have state : rd (WLD_GEN.state e.1) (mbxStart op len s) = rd (WLD_GEN.state e.1) s :=
      rd_mbxStart hop s (by simp only [WLD_GEN, MBX_CMD, MBX_STAT, List.mem_pair]; omega)
    rw [recipeEntryOk, recipeEntryOk, state, mbxStart_frame hop]
    rfl
  · simp [recipeEntryOk, slot]

theorem mbxStatus_mbxStart (who : Master) (code n : Nat) (s : State) :
    mbxStatus who code n (mbxStart op len s) = mbxStatus who code n s := by
  rw [mbxStatus, rd_mbxStart hop s (by simp)]
  rfl

end Start

/-! ## A command on a free mailbox -/

/-- A free mailbox takes the command and completes it: with the status of its writer, its length and the part's state, or as it runs. -/
theorem mbxCommand_free {who : Master} {op len : Nat} (k : State → Nat × List Byte × State) (hop : op ≠ 0x0011) (hf : mbxFree s)
    (hw : mayWrite who = true) :
    mbxCommand who op len k s =
      if mbxStatus who op len s ≠ 0 then mbxComplete (mbxStatus who op len s) [] (mbxStart op len s)
      else mbxComplete (k (mbxStart op len s)).1 (k (mbxStart op len s)).2.1 (k (mbxStart op len s)).2.2 := by
  obtain ⟨ready, busy, awake, d3⟩ := hf
  have wake : wakeWriter who s = s := by simp [wakeWriter, wakePart, awake]
  rw [mbxCommand, wake]
  simp [mbxGuard, byWriter, viaBar, barClosed, rdb, ready, busy, d3, hw, mbxRun, hop, mbxStatus_mbxStart]

theorem mbxStatus_long {len : Nat} (who : Master) (op : Nat) (h : 4096 < len) : mbxStatus who op len s = 2 := by rw [mbxStatus, if_pos h]

section Known

variable {op len : Nat} {states : List Nat} (hop : mbxOpcodes.find? (fun e => e.1 == op) = some (op, states)) (hl : len ≤ 4096)
include hop hl

/-- The host is served in the states that are listed for the opcode (R425). -/
theorem mbxStatus_served (hs : rd GLB_STATE.state s ∈ states) : mbxStatus .host op len s = 0 := by
  simp [mbxStatus, Nat.not_lt.2 hl, hop, hs]

/-- No other writer is served. -/
theorem mbxStatus_core (n : Fin 4) : mbxStatus (.core n) op len s = 3 := by
  have other : (Master.core n == Master.host) = false := rfl
  simp [mbxStatus, Nat.not_lt.2 hl, hop, other]

end Known

/-- A command that its length, its writer or the part's state does not allow completes with its status and no output (R422, R425). -/
theorem mbxCommand_refused {who : Master} {op len status : Nat} (k : State → Nat × List Byte × State) (hop : op ≠ 0x0011)
    (hf : mbxFree s) (hw : mayWrite who = true) (he : mbxStatus who op len s = status) (h0 : status ≠ 0) (hs : status < 256) :
    MbxAnswers [] s s (mbxCommand who op len k s) status [] := by
  rw [mbxCommand_free k hop hf hw, he, if_pos h0]
  have a := (mbxStart_starts (len := len) hop s).answers hs (out := []) (by simp)
  exact { a with frame := a.frame.trans (by rw [mbxStart_frame hop]) }

/-- The run of a command neither sees nor undoes its own start. -/
def RunsApart (op : Nat) (k : State → Nat × List Byte × State) : Prop :=
  ∀ len s, k (mbxStart op len s) = ((k s).1, (k s).2.1, mbxStart op len (k s).2.2)

/-- A command that runs, and writes no register itself, completes with what it gives. -/
theorem mbxCommand_runs {who : Master} {op len status : Nat} {out : List Byte} {k : State → Nat × List Byte × State}
    (hk : RunsApart op k) (hop : op ≠ 0x0011) (hf : mbxFree s) (hw : mayWrite who = true) (he : mbxStatus who op len s = 0)
    (hr : k s = (status, out, u)) (hu : u.regs = s.regs) (hs : status < 256) (hl : out.length ≤ 4096) :
    MbxAnswers [] s u (mbxCommand who op len k s) status out := by
  rw [mbxCommand_free k hop hf hw, he, if_neg (by simp), hk, hr]
  have starts : MbxStarts [] s (mbxStart op len u) := by
    obtain ⟨regs, count⟩ := mbxStart_starts (len := len) hop u
    exact ⟨(State.SameRegs.of_regs hu).trans regs, count.trans (by rw [rd, rd, State.reg, hu, State.reg])⟩
  have a := starts.answers hs hl
  exact { a with frame := a.frame.trans (by rw [mbxStart_frame hop]) }

/-! ## GET_INFO (R427) -/

theorem getInfo_apart (len : Nat) : RunsApart 0x0001 (getInfo len) := fun l s => by
  rw [getInfo, getInfo, infoBytes_mbxStart (by decide)]
  split <;> rfl

theorem infoBytes_length (s : State) : (infoBytes s).length = 32 := by simp [infoBytes]

section Info

variable (free : mbxFree s)
include free

section Host

variable (hg : rd GLB_STATE.state s ≤ 5)
include hg

/-- GET_INFO is served in every state: a command of the host runs. -/
theorem getInfo_runs {len status : Nat} {out : List Byte} (hl : len ≤ 4096) (hr : getInfo len s = (status, out, s)) (hs : status < 256)
    (ho : out.length ≤ 4096) : MbxAnswers [] s s (mbxCommand .host 0x0001 len (getInfo len) s) status out :=
  mbxCommand_runs (getInfo_apart len) (by decide) free rfl (mbxStatus_served rfl hl (by simp; omega)) hr rfl hs ho

theorem getInfo_informs : MbxAnswers [] s s (mbxCommand .host 0x0001 0 (getInfo 0) s) 0 (infoBytes s) :=
  getInfo_runs free hg (by decide) rfl (by decide) (by simp [infoBytes_length])

/-- Any input is too long: past the buffer for the mailbox, within it for the command. -/
theorem getInfo_wrongLength {len : Nat} (h : 0 < len) : MbxAnswers [] s s (mbxCommand .host 0x0001 len (getInfo len) s) 2 [] := by
  by_cases long : 4096 < len
  · exact mbxCommand_refused _ (by decide) free rfl (mbxStatus_long _ _ long) (by decide) (by decide)
  · exact getInfo_runs free hg (by omega) (if_pos (by omega)) (by decide) (by simp)

end Host

theorem getInfo_core (n : Fin 4) : MbxAnswers [] s s (mbxCommand (.core n) 0x0001 0 (getInfo 0) s) 3 [] :=
  mbxCommand_refused _ (by decide) free rfl (mbxStatus_core rfl (by decide) n) (by decide) (by decide)

end Info

/-! ## RECIPE_SET (R426) -/

/-- The entries of a RECIPE_SET are staged in their order. -/
theorem foldl_stageRecipe (step : Nat) (entries : List (Nat × Nat × Nat)) (s : State) :
    entries.foldl (fun a e => stageRecipe step e.1 e.2.1 (e.2.2 == 1) a) s =
      { s with srv := { s.srv with stagedRecipes :=
          s.srv.stagedRecipes ++ entries.map fun e => (step, e.1, e.2.1, e.2.2 == 1) } } := by
  induction entries generalizing s with
  | nil => simp
  | cons e entries ih => rw [List.foldl_cons, ih]; simp [stageRecipe]

theorem recipeSet_apart (len : Nat) : RunsApart 0x0002 (recipeSet len) := fun l s => by
  have hop : 0x0002 ≠ 0x0011 := by decide
  simp only [recipeSet, mbxNat_mbxStart hop, recipeEntry_mbxStart hop, recipeEntryOk_mbxStart hop, hostManages_mbxStart hop,
    srv_mbxStart hop, foldl_stageRecipe]
  split_ifs
  iterate 4 rfl
  all_goals rw [mbxStart_eq hop, mbxStart_eq hop]; rfl

/-- The step from which on the entries are in force: the one that the command names, or the next one to start. -/
def recipeStep (s : State) : Nat := if mbxNat 2 1 s = 1 then mbxNat 8 8 s else s.srv.highest + 1

/-- What `n` entries stage. -/
def recipeChanges (n : Nat) (s : State) : List (Nat × Nat × Nat × Bool) :=
  (List.range n).map fun i => (recipeStep s, (recipeEntry i s).1, (recipeEntry i s).2.1, (recipeEntry i s).2.2 == 1)

section Recipes

variable {n : Nat} (hm : hostManages s = true) (hn : n = mbxNat 0 2 s) (h0 : 0 < n) (hf : mbxNat 2 1 s ≤ 1) (hr : mbxNat 3 5 s = 0)

include hm hn

theorem recipeSet_invalid (h : ∃ i, i < n ∧ recipeEntryOk (recipeEntry i s) s = false) : recipeSet (16 + 4 * n) s = (4, [], s) := by
  obtain ⟨i, hi, bad⟩ := h
  have some_bad : ((List.range n).map fun i => recipeEntry i s).all (fun e => recipeEntryOk e s) = false :=
    List.all_eq_false.2 ⟨recipeEntry i s, List.mem_map.2 ⟨i, List.mem_range.2 hi, rfl⟩, by simp [bad]⟩
  simp only [recipeSet, ← hn, hm, some_bad]
  simp

include h0 hf hr

/-- Entries that are all valid: what is left to decide is whether the target step has begun. -/
theorem recipeSet_valid (h : ∀ i, i < n → recipeEntryOk (recipeEntry i s) s = true) :
    recipeSet (16 + 4 * n) s = if mbxNat 2 1 s = 1 ∧ mbxNat 8 8 s ≤ s.srv.highest then (6, [], s)
      else (0, leBytes 8 (recipeStep s), { s with srv := { s.srv with stagedRecipes := s.srv.stagedRecipes ++ recipeChanges n s } }) := by
  have all_ok : ((List.range n).map fun i => recipeEntry i s).all (fun e => recipeEntryOk e s) = true := by simpa using h
  have flags : ¬ 1 < mbxNat 2 1 s := by omega
  simp only [recipeSet, ← hn, hm, all_ok, foldl_stageRecipe, List.map_map]
  simp [flags, hr, Nat.ne_of_gt h0, recipeStep, recipeChanges, Function.comp_def]

end Recipes

/-- RECIPE_SET is served in SERVICE and TIN: a command of the host that fits the buffer runs. -/
theorem recipeSet_runs {n status : Nat} {out : List Byte} (free : mbxFree s) (hg : rd GLB_STATE.state s = 2 ∨ rd GLB_STATE.state s = 3)
    (hl : n ≤ 1020) (hr : recipeSet (16 + 4 * n) s = (status, out, u)) (hu : u.regs = s.regs) (hs : status < 256)
    (ho : out.length ≤ 4096) : MbxAnswers [] s u (mbxCommand .host 0x0002 (16 + 4 * n) (recipeSet (16 + 4 * n)) s) status out :=
  mbxCommand_runs (recipeSet_apart _) (by decide) free rfl (mbxStatus_served rfl (by omega) (by simpa using hg)) hr hu hs ho

/-! ## The obligation -/

/-- Settles O26. It holds: GET_INFO and RECIPE_SET do not read what their start writes, so each completes with what it gives on the
state before it (`mbxCommand_runs`), or with the status that keeps it from running (`mbxCommand_refused`). -/
theorem infoAndRecipeCommandsAnswer : Obligations.InfoAndRecipeCommandsAnswer := by
  unfold Obligations.InfoAndRecipeCommandsAnswer
  refine ⟨fun len s free hg => ⟨?_, fun h0 _ => ?_, fun core => ?_⟩,
    fun n s free hg hm hn h0 hl hf hr => ⟨fun bad => ?_, fun ok => ⟨?_, ?_⟩⟩⟩
  · rintro rfl
    have a := getInfo_informs free hg
    exact ⟨_, rfl, infoBytes_length s ▸ a.done, fun i hi => a.bytes i (by omega), a.outside, a.frame⟩
  · have a := getInfo_wrongLength free hg h0
    exact ⟨_, rfl, a.done, a.outside, a.frame⟩
  · have a := getInfo_core free core
    exact ⟨_, rfl, a.done, a.outside, a.frame⟩
  · have a := recipeSet_runs free hg hl (recipeSet_invalid hm hn bad) rfl (by decide) (by simp)
    exact ⟨_, rfl, a.done, a.outside, a.frame⟩
  · intro named begun
    have refused := (recipeSet_valid hm hn h0 hf hr ok).trans (if_pos ⟨named, begun⟩)
    have a := recipeSet_runs free hg hl refused rfl (by decide) (by simp)
    exact ⟨_, rfl, a.done, a.outside, a.frame⟩
  · intro ahead
    have staged := (recipeSet_valid hm hn h0 hf hr ok).trans (if_neg fun ⟨named, begun⟩ => Nat.not_lt.2 begun (ahead named))
    have a := recipeSet_runs free hg hl staged rfl (by decide) (by simp)
    have srv := congrArg State.srv a.frame
    exact ⟨_, recipeStep s, rfl, leBytes_length 8 _ ▸ a.done, rfl, a.nat (by decide), congrArg Serving.stagedRecipes srv, a.outside,
      a.frame.trans (by rw [srv])⟩

end Sys2Proof.Machine
end

section
/-! PROOFS. Claim and complete of the interrupt controller (17_interrupts_events.md R433 to R436): the bits of sources after a change,
the winner of the arbitration, what a claim takes and what a completion gives back. -/

namespace Sys2Proof.Machine

variable {s : State}

/-! ## Latches and active bits -/

theorem getLsbD_vset {n : Nat} (hn : n < 256) (v : BitVec 256) (b : Bool) (m : Nat) :
    (vset v n b).getLsbD m = if m = n then b else v.getLsbD m := by
  have bit : (1#256 <<< n).getLsbD m = decide (m = n) := (BitVec.getLsbD_twoPow n m).trans (by simp [hn, eq_comm])
  cases b with
  | true => by_cases e : m = n <;> simp only [vset, if_true, BitVec.getLsbD_or, bit] <;> simp [e]
  | false =>
    simp only [vset, Bool.false_eq_true, if_false, BitVec.getLsbD_and, BitVec.getLsbD_not, bit]
    by_cases e : m = n
    · simp [e]
    · simpa [e] using BitVec.lt_of_getLsbD

theorem getLsbD_vset_self {n : Nat} (hn : n < 256) (v : BitVec 256) (b : Bool) : (vset v n b).getLsbD n = b := by
  rw [getLsbD_vset hn, if_pos rfl]

theorem getLsbD_vset_ne {n m : Nat} (hn : n < 256) (v : BitVec 256) (b : Bool) (h : m ≠ n) :
    (vset v n b).getLsbD m = v.getLsbD m := by
  rw [getLsbD_vset hn, if_neg h]

/-- Nothing that decides on pending reads the active bits (R433). -/
theorem srcPending_setActive (n m : Nat) (b : Bool) (s : State) : srcPending n (setActive m b s) = srcPending n s := rfl

theorem srcRouted_setActive (n t m : Nat) (b : Bool) (s : State) : srcRouted n t (setActive m b s) = srcRouted n t s := rfl

/-! ## Eligible sources (R433, R434) -/

theorem srcEligible_iff {k n : Nat} : srcEligible k n s = true ↔
    rd (ICU_SRC_CFG.en n) s ≠ 0 ∧ srcRouted n k s = true ∧ srcPending n s = true ∧ s.icu.active.getLsbD n = false
      ∧ rd (ICU_TGT_CFG.thr k) s < rd (ICU_SRC_CFG.prio n) s ∧ rd (ICU_TGT_CFG.mask_all k) s = 0 := by
  simp [srcEligible, rdb, and_assoc]

/-- A level source is pending while its input asks. -/
theorem srcPending_level {n : Nat} (hr : reservedSource n = false) (hs : softSource n = false)
    (h : rd (ICU_SRC_CFG.sense n) s = 0 ∧ sourceInput n s = true ∨ rd (ICU_SRC_CFG.sense n) s = 1 ∧ sourceInput n s = false) :
    srcPending n s = true := by
  obtain ⟨sense, asks⟩ | ⟨sense, asks⟩ := h <;> simp [srcPending, hr, hs, sense, asks]

/-! ## The winner of the arbitration (R434) -/

/-- Source `n` comes before source `m`: the higher priority, the lower number among equals. -/
def Outranks (s : State) (n m : Nat) : Prop :=
  rd (ICU_SRC_CFG.prio m) s < rd (ICU_SRC_CFG.prio n) s ∨ rd (ICU_SRC_CFG.prio m) s = rd (ICU_SRC_CFG.prio n) s ∧ n ≤ m

theorem Outranks.refl (s : State) (n : Nat) : Outranks s n n := .inr ⟨rfl, Nat.le_refl n⟩

theorem Outranks.trans {n m k : Nat} (h : Outranks s n m) (g : Outranks s m k) : Outranks s n k := by
  unfold Outranks at *; omega

theorem Outranks.antisymm {n m : Nat} (h : Outranks s n m) (g : Outranks s m n) : n = m := by
  unfold Outranks at *; omega

/-- What the arbitration for target `k` among the sources below `b` may answer: none when none is eligible, else the eligible source
that outranks every other. -/
def WonBelow (k b : Nat) (s : State) : Option Nat → Prop
  | none => ∀ m, m < b → srcEligible k m s = false
  | some n => n < b ∧ srcEligible k n s = true ∧ ∀ m, m < b → srcEligible k m s = true → Outranks s n m

/-- A source that is not eligible leaves the answer as it is. -/
theorem WonBelow.skip {k b : Nat} {o : Option Nat} (h : WonBelow k b s o) (hb : srcEligible k b s = false) : WonBelow k (b + 1) s o := by
  cases o with
  | none => exact Nat.forall_lt_succ_right.2 ⟨h, hb⟩
  | some n =>
    obtain ⟨below, eligible, top⟩ := h
    exact ⟨by omega, eligible, Nat.forall_lt_succ_right.2 ⟨top, fun he => absurd he (by simp [hb])⟩⟩

/-- An eligible source takes the place of one of a lower priority, and of no other. -/
theorem WonBelow.join {k b : Nat} {o : Option Nat} (h : WonBelow k b s o) (hb : srcEligible k b s = true) :
    WonBelow k (b + 1) s (better s o b) := by
  cases o with
  | none => exact ⟨by omega, hb, Nat.forall_lt_succ_right.2 ⟨fun m hm he => absurd he (by simp [h m hm]), fun _ => .refl s b⟩⟩
  | some n =>
    obtain ⟨below, eligible, top⟩ := h
    by_cases higher : rd (ICU_SRC_CFG.prio n) s < rd (ICU_SRC_CFG.prio b) s
    · rw [better, if_pos higher]
      exact ⟨by omega, hb, Nat.forall_lt_succ_right.2 ⟨fun m hm he => .trans (.inl higher) (top m hm he), fun _ => .refl s b⟩⟩
    · rw [better, if_neg higher]
      exact ⟨by omega, eligible, Nat.forall_lt_succ_right.2 ⟨top, fun _ => by unfold Outranks; omega⟩⟩

theorem foldl_wonBelow (k b : Nat) (s : State) : WonBelow k b s
    ((List.range b).foldl (fun best n => if srcEligible k n s then better s best n else best) none) := by
  induction b with
  | zero => exact fun m hm => absurd hm (Nat.not_lt_zero m)
  | succ b ih =>
    rw [List.range_succ, List.foldl_append, List.foldl_cons, List.foldl_nil]
    split
    next hb => exact ih.join hb
    next hb => exact ih.skip (by simpa using hb)

theorem icuWinner_won (k : Nat) (s : State) : WonBelow k 256 s (icuWinner k s) := foldl_wonBelow k 256 s

theorem icuWinner_eq_none {k : Nat} (h : ∀ m, m < 256 → srcEligible k m s = false) : icuWinner k s = none := by
  have won := icuWinner_won k s
  cases e : icuWinner k s with
  | none => rfl
  | some n =>
    rw [e] at won
    obtain ⟨below, eligible, -⟩ := won
    exact absurd eligible (by simp [h n below])

theorem icuWinner_eq_some {k n : Nat} (hn : n < 256) (he : srcEligible k n s = true)
    (top : ∀ m, m < 256 → srcEligible k m s = true → Outranks s n m) : icuWinner k s = some n := by
  have won := icuWinner_won k s
  cases e : icuWinner k s with
  | none =>
    rw [e] at won
    exact absurd he (by simp [won n hn])
  | some m =>
    rw [e] at won
    obtain ⟨below, eligible, first⟩ := won
    exact congrArg some ((first n hn he).antisymm (top m below eligible))

/-! ## A claim (R435) -/

theorem viaBar_open {who : Master} (k : State → State) (h : barClosed who s = false) : viaBar who s k = k s := by
  simp [viaBar, h]

section Claim

variable {who : Master} {target : Fin 5} (hb : barClosed who s = false)
include hb

theorem icuClaim_takes {n : Nat} (ht : isTarget who target.val = true) (hw : icuWinner target.val s = some n) :
    exec (.icuClaim who target) s = .next (claimSource target.val n s) := by
  rw [show exec (.icuClaim who target) s = execIcuClaim who target s from rfl, execIcuClaim, viaBar_open _ hb]
  simp only [ht, hw, if_true]

theorem icuClaim_empty (h : isTarget who target.val = false ∨ icuWinner target.val s = none) :
    exec (.icuClaim who target) s = .next (answer (.word 0) s) := by
  rw [show exec (.icuClaim who target) s = execIcuClaim who target s from rfl, execIcuClaim, viaBar_open _ hb]
  obtain other | none := h
  · simp only [other, Bool.false_eq_true, if_false]
  · simp only [none, ite_self]

end Claim

theorem claimSource_owner {k : Nat} (hk : k < 5) (n : Nat) (s : State) : rd (ICU_SRC_CFG.owner n) (claimSource k n s) = k :=
  (rd_wr_self (ICU_SRC_CFG.owner n) k (setActive n true s) (by simp)).trans (Nat.mod_eq_of_lt (show k < 2 ^ 3 by omega))

theorem claimSource_regs (k n : Nat) (s : State) : s.SameRegs [ICU_SRC_CFG n] (claimSource k n s) :=
  (State.SameRegs.refl _ s).wr (f := ICU_SRC_CFG.owner n) k (by simp)

/-! ## A completion (R436) -/

section Complete

variable {who : Master} {target : Fin 5} {half : Half} {data : Word} {n : Nat} (ht : isTarget who target.val = true)
  (hb : barClosed who s = false) (hn : n = fget (ICU_COMPLETE.source target.val) (wdata ⟨who, half, data⟩))
include ht hb hn

theorem icuComplete_eq : exec (.icuComplete who target half data) s = .next (completeSource who target.val n data s) := by
  rw [show exec (.icuComplete who target half data) s = .next (completeWrite target.val ⟨who, half, data⟩ s) from rfl, completeWrite,
    viaBar_open _ hb, if_pos ht, ← hn]

theorem icuComplete_frees (ha : s.icu.active.getLsbD n = true) (ho : rd (ICU_SRC_CFG.owner n) s = target.val) :
    exec (.icuComplete who target half data) s = .next (setActive n false s) := by
  rw [icuComplete_eq ht hb hn, completeSource, if_pos (by simp [ha, ho])]

theorem icuComplete_ignored (h : s.icu.active.getLsbD n = false ∨ rd (ICU_SRC_CFG.owner n) s ≠ target.val) :
    exec (.icuComplete who target half data) s = .next (logIgnored who (ICU_COMPLETE target.val) data.toNat s) := by
  rw [icuComplete_eq ht hb hn, completeSource, if_neg (by simpa [Classical.or_iff_not_imp_left] using h)]

end Complete

/-- A completed source that still is pending is eligible again (R436). -/
theorem srcEligible_setActive {k n : Nat} (hn : n < 256) (en : rd (ICU_SRC_CFG.en n) s = 1) (routed : srcRouted n k s = true)
    (pending : srcPending n s = true) (thr : rd (ICU_TGT_CFG.thr k) s < rd (ICU_SRC_CFG.prio n) s)
    (mask : rd (ICU_TGT_CFG.mask_all k) s = 0) : srcEligible k n (setActive n false s) = true :=
  srcEligible_iff.2 ⟨ne_of_eq_of_ne (b := 1) en (by decide), (srcRouted_setActive ..).trans routed,
    (srcPending_setActive ..).trans pending, getLsbD_vset_self hn .., thr, mask⟩

/-! ## The obligation -/

/-- Settles O7. It holds: the scan of the sources ends with the one that outranks every other eligible one (`icuWinner_won`), which the
claim takes; a completion clears the active bit alone, on which nothing but eligibility depends. -/
theorem claimAndComplete : Obligations.ClaimAndComplete := by
  unfold Obligations.ClaimAndComplete
  refine ⟨⟨fun who target n s ht hb hn he top => ?_, fun who target s hb h => ?_⟩,
    fun who target half data n s ht hb hn => ⟨fun ha ho => ?_, icuComplete_ignored ht hb hn⟩⟩
  · exact ⟨_, icuClaim_takes hb ht (icuWinner_eq_some hn he top), rfl, getLsbD_vset_self hn .., getLsbD_vset_self hn ..,
      claimSource_owner target.isLt n s, fun m hm => ⟨getLsbD_vset_ne hn _ _ hm, getLsbD_vset_ne hn _ _ hm⟩, rfl,
      claimSource_regs _ n s, rfl⟩
  · exact icuClaim_empty hb (h.imp_right icuWinner_eq_none)
  · have below : n < 256 := hn ▸ fget_lt ..
    exact ⟨_, icuComplete_frees ht hb hn ha ho, getLsbD_vset_self below .., fun m hm => getLsbD_vset_ne below _ _ hm,
      fun reserved soft asks en routed thr mask =>
        srcEligible_setActive below en routed (srcPending_level reserved soft asks) thr mask, rfl⟩

end Sys2Proof.Machine
end

section
/-! PROOFS. Attestation reports (19_boot_security.md R528, R529; 15_memory.md R392): what a write of SEC_ATTEST_CMD comes to, the codes of
a request that fails, a wipe over the buffer, the length of the report, and O17 assembled from that. -/

namespace Sys2Proof.Machine

variable {s t u : State}

/-! ## A change of SEC_ATTEST_CMD alone -/

/-- `t` comes from `s` by a change of the register SEC_ATTEST_CMD. -/
structure AttestCmdOnly (s t : State) : Prop where
  frame : t = { s with regs := t.regs }
  regs : s.SameRegs [SEC_ATTEST_CMD] t

theorem AttestCmdOnly.refl (s : State) : AttestCmdOnly s s := ⟨rfl, .refl _ s⟩

theorem AttestCmdOnly.cleared (h : AttestCmdOnly s t) {f : Fld} (w : Write) (hf : f.off = SEC_ATTEST_CMD) :
    AttestCmdOnly s (wclear f w t) := by
  unfold wclear
  split
  · refine ⟨?_, h.regs.wr 0 (by simp [hf])⟩
    rw [wr, setReg, h.frame]
  · exact h

section Reads

variable (h : AttestCmdOnly s t)
include h

theorem AttestCmdOnly.nv : t.nv = s.nv := by rw [h.frame]

theorem AttestCmdOnly.sec : t.sec = s.sec := by rw [h.frame]

theorem AttestCmdOnly.scr : t.scr = s.scr := by rw [h.frame]

theorem AttestCmdOnly.rd_other {f : Fld} (hf : f.off ≠ SEC_ATTEST_CMD) : rd f t = rd f s :=
  congrArg (fget f) (h.regs f.off (by simpa using hf))

theorem AttestCmdOnly.sameAddr : attestAddr t = attestAddr s := congrArg (64 * ·) (h.rd_other (by decide))

theorem AttestCmdOnly.sameRange (a : Nat) : attestRange a t = attestRange a s := by
  rw [attestRange, attestRange, hostPortion, hostPortion, h.rd_other (by decide)]

end Reads

/-! ## A write of SEC_ATTEST_CMD (R529, R538) -/

/-- A field apart from the one a write clears reads as before. -/
theorem rd_wclear_ne {f g : Fld} (w : Write) (s : State) (h : g.off ≠ f.off ∨ g.lo + g.w ≤ f.lo ∨ f.lo + f.w ≤ g.lo) :
    rd g (wclear f w s) = rd g s := by
  unfold wclear
  split
  · exact rd_wr_ne 0 s h
  · rfl

section Request

variable {w : Write} (hw : reaches w.who s) (hg : wone SEC_ATTEST_CMD.go w = true)
include hw hg

/-- A go clears the bits that the write clears; then it is logged while a report is busy, and else starts one. -/
theorem exec_attestationRequest : ∃ u, AttestCmdOnly s u ∧ rd SEC_ATTEST_CMD.busy u = rd SEC_ATTEST_CMD.busy s
    ∧ exec (.attestationRequest w) s = .next
        (if rdb SEC_ATTEST_CMD.busy u then logIgnored w.who SEC_ATTEST_CMD w.data.toNat u else startReport u) := by
  obtain ⟨may, bar⟩ := hw
  refine ⟨wclear SEC_ATTEST_CMD.done w (wclear SEC_ATTEST_CMD.err w s), ((AttestCmdOnly.refl s).cleared w rfl).cleared w rfl, ?_, ?_⟩
  · rw [rd_wclear_ne _ _ (by decide), rd_wclear_ne _ _ (by decide)]
  · rw [show exec (.attestationRequest w) s = .next (attestCmdWrite w s) from rfl, attestCmdWrite, guarded, byWriter,
      viaBar_open _ bar, if_pos may]
    simp only [hg, Bool.not_true, Bool.false_eq_true, if_false]

theorem attestationRequest_busy (hb : rd SEC_ATTEST_CMD.busy s = 1) : ∃ t, exec (.attestationRequest w) s = .next t
    ∧ rd SEC_ATTEST_CMD.busy t = 1 ∧ codesJoin s t [0x0002] ∧ s.SameRegs [SEC_ATTEST_CMD] t
    ∧ t = { s with regs := t.regs, reports := t.reports } := by
  obtain ⟨u, only, same, e⟩ := exec_attestationRequest hw hg
  have busy : rd SEC_ATTEST_CMD.busy u = 1 := same.trans hb
  rw [e, rdb, busy, if_pos (by decide)]
  refine ⟨_, rfl, busy, ?_, only.regs, ?_⟩
  · rw [only.frame]
    simp [codesJoin, logIgnored, log]
  · rw [logIgnored, log, only.frame]

theorem attestationRequest_idle (hb : rd SEC_ATTEST_CMD.busy s = 0) :
    ∃ u, AttestCmdOnly s u ∧ exec (.attestationRequest w) s = .next (startReport u) := by
  obtain ⟨u, only, same, e⟩ := exec_attestationRequest hw hg
  rw [rdb, same.trans hb, if_neg (by decide)] at e
  exact ⟨u, only, e⟩

end Request

/-! ## How a request is decided (R528, R529) -/

theorem failReport_regs (code : Nat) (s : State) : s.SameRegs [SEC_ATTEST_CMD] (failReport code s) :=
  (((State.SameRegs.of_regs rfl).wr (f := SEC_ATTEST_CMD.code) _ (by simp)).wr _ (by simp)).wr _ (by simp)

theorem failReport_frame (code : Nat) (s : State) :
    failReport code s = { s with regs := (failReport code s).regs, sec := { s.sec with attest := none } } := rfl

/-- A report that fails shows its code and err, and is no longer busy. -/
theorem failReport_shows {code : Nat} (hc : code < 16) (s : State) : rd SEC_ATTEST_CMD.code (failReport code s) = code
    ∧ rd SEC_ATTEST_CMD.err (failReport code s) = 1 ∧ rd SEC_ATTEST_CMD.busy (failReport code s) = 0 := by
  refine ⟨?_, ?_, rd_wr_self _ _ _ (by decide)⟩
  · rw [failReport, rd_wr_ne _ _ (by decide), rd_wr_ne _ _ (by decide), rd_wr_self _ _ _ (by decide)]
    exact Nat.mod_eq_of_lt hc
  · exact (rd_wr_ne _ _ (by decide)).trans (rd_wr_self _ _ _ (by decide))

/-- A report begins: busy, the buffer's address and its nonce are kept. -/
def beginReport (s : State) : State :=
  wr SEC_ATTEST_CMD.busy 1 (wr SEC_ATTEST_CMD.code 0
    { s with sec := { s.sec with attest := some (attestAddr s, bytesAt s.scr (attestAddr s) 64) } })

theorem beginReport_frame (s : State) :
    beginReport s = { s with regs := (beginReport s).regs, sec := (beginReport s).sec } := rfl

theorem beginReport_regs (s : State) : s.SameRegs [SEC_ATTEST_CMD] (beginReport s) :=
  ((State.SameRegs.of_regs rfl).wr (f := SEC_ATTEST_CMD.code) _ (by simp)).wr _ (by simp)

theorem beginReport_shows (s : State) :
    rd SEC_ATTEST_CMD.busy (beginReport s) = 1 ∧ rd SEC_ATTEST_CMD.code (beginReport s) = 0 :=
  ⟨rd_wr_self _ _ _ (by decide), (rd_wr_ne _ _ (by decide)).trans (rd_wr_self _ _ _ (by decide))⟩

section Judged

/-! What a request is judged by reads in `u`, which the write has left, as it does in `s` before it. -/

variable (only : AttestCmdOnly s u)
include only

theorem AttestCmdOnly.startReport_unidentified (hi : s.nv.identity = none) : startReport u = failReport 1 u := by
  simp [startReport, only.nv, hi]

theorem AttestCmdOnly.fails {code : Nat} (hc : code < 16) : rd SEC_ATTEST_CMD.code (failReport code u) = code
    ∧ rd SEC_ATTEST_CMD.err (failReport code u) = 1 ∧ rd SEC_ATTEST_CMD.busy (failReport code u) = 0
    ∧ s.SameRegs [SEC_ATTEST_CMD] (failReport code u)
    ∧ failReport code u = { s with regs := (failReport code u).regs, sec := { s.sec with attest := none } } := by
  obtain ⟨shown, err, idle⟩ := failReport_shows hc u
  refine ⟨shown, err, idle, only.regs.trans (failReport_regs code u), ?_⟩
  rw [failReport_frame, only.frame]

variable (hi : s.nv.identity ≠ none)
include hi

theorem AttestCmdOnly.startReport_misplaced (hr : attestRange (attestAddr s) s = false) : startReport u = failReport 2 u := by
  simp [startReport, only.nv, only.sameAddr, only.sameRange, hi, hr]

variable (hr : attestRange (attestAddr s) s = true)
include hr

theorem AttestCmdOnly.startReport_wiped (ha : 0x7800000 ≤ attestAddr s) (hw : s.sec.wiping = true) :
    startReport u = failReport 4 u := by
  simp [startReport, only.nv, only.sec, only.sameAddr, only.sameRange, hi, hr, ha, hw]

theorem AttestCmdOnly.startReport_begins (hw : s.sec.wiping = false) : startReport u = beginReport u := by
  simp [startReport, beginReport, only.nv, only.sec, only.sameAddr, only.sameRange, hi, hr, hw]

end Judged

theorem AttestCmdOnly.beginReport_sec (only : AttestCmdOnly s u) :
    (beginReport u).sec = { s.sec with attest := some (attestAddr s, bytesAt s.scr (attestAddr s) 64) } := by
  rw [beginReport, wr_sec, wr_sec, only.sec, only.scr, only.sameAddr]

/-! ## A wipe over the buffer (R392, R529) -/

theorem startWipe_overtakes {a : Nat} {nonce : List Byte} (cause : Nat) (hs : s.sec.attest = some (a, nonce)) (ha : 0x7800000 ≤ a) :
    startWipe cause s = wr SEC_WIPE_STAT.cause cause (failReport 4 (zeroSecure { s with sec := { s.sec with wiping := true } })) := by
  have kept : (zeroSecure { s with sec := { s.sec with wiping := true } }).sec.attest = some (a, nonce) := hs
  rw [startWipe, overtakeReport, kept]
  simp only [ha, if_true]

theorem byteAt_zeroSecure {x : Nat} (s : State) (hx : 0x7800000 ≤ x) : byteAt (zeroSecure s).scr x = 0 := by
  rw [byteAt, tget, zeroSecure, sget_filter _ (fun k => decide (k < 0x7800000)), if_neg (by simpa using hx)]

/-! ## The report in its buffer (R197, R528) -/

@[simp] theorem fitBytes_length (n : Nat) (l : List Byte) : (fitBytes n l).length = n := by simp [fitBytes]

@[simp] theorem digestBytes_length (d : BitVec 512) : (digestBytes d).length = 64 := leBytes_length ..

@[simp] theorem identityBytes_length (k : Nat) : (identityBytes k).length = 516 := fitBytes_length ..

@[simp] theorem slotReport_length (s : State) (g : Nat) : (slotReport s g).length = 80 := by simp [slotReport]

@[simp] theorem signatureBlock_length (key : Nat) (signature : List Byte) : (signatureBlock key signature).length = 1088 := by
  simp [signatureBlock]

theorem reportBody_length {nonce : List Byte} (s : State) (hn : nonce.length = 64) : (reportBody nonce s).length = 640 := by
  simp [reportBody, hn]

/-- The report written: its bytes stand in the buffer without poison, and no report is out. -/
def putReport (a : Nat) (report : List Byte) (s : State) : State :=
  wr SEC_ATTEST_CMD.busy 0 (wr SEC_ATTEST_CMD.done 1
    { s with
      scr := putBytes a report s.scr
      scrPoison := s.scrPoison.filter fun p => decide (8 * p.1 < a) || decide (a + report.length ≤ 8 * p.1)
      sec := { s.sec with attest := none } })

theorem exec_attestReportWritten {a key : Nat} {nonce : List Byte} (signature : List Byte) (hs : s.sec.attest = some (a, nonce))
    (hk : s.nv.identity = some key) : exec (.attestReportWritten signature) s =
      .next (putReport a (reportBody nonce s ++ signatureBlock key signature) s) := by
  rw [show exec (.attestReportWritten signature) s = execAttestReportWritten signature s from rfl, execAttestReportWritten]
  simp only [hs, hk, putReport]

theorem putReport_shows (a : Nat) (report : List Byte) (s : State) :
    rd SEC_ATTEST_CMD.done (putReport a report s) = 1 ∧ rd SEC_ATTEST_CMD.busy (putReport a report s) = 0 :=
  ⟨(rd_wr_ne _ _ (by decide)).trans (rd_wr_self _ _ _ (by decide)), rd_wr_self _ _ _ (by decide)⟩

theorem putReport_scr (a : Nat) (report : List Byte) (s : State) : (putReport a report s).scr = putBytes a report s.scr := rfl

theorem putReport_frame (a : Nat) (report : List Byte) (s : State) : putReport a report s =
    { s with regs := (putReport a report s).regs, scr := (putReport a report s).scr
             scrPoison := (putReport a report s).scrPoison, sec := { s.sec with attest := none } } := rfl

theorem putReport_regs (a : Nat) (report : List Byte) (s : State) : s.SameRegs [SEC_ATTEST_CMD] (putReport a report s) :=
  ((State.SameRegs.of_regs rfl).wr (f := SEC_ATTEST_CMD.done) _ (by simp)).wr _ (by simp)

/-! ## The obligation -/

/-- Settles O17. It holds: a write of SEC_ATTEST_CMD changes nothing that the request's range, key and wipe are judged by
(`AttestCmdOnly`), so each case of `startReport` is read in the state before it; a wipe filters out the secure part's bytes; the report
written is 640 bytes of body and a signature block of 1088. -/
theorem attestationReports : Obligations.AttestationReports := by
  unfold Obligations.AttestationReports
  refine ⟨fun w s hw hg hb => ?_, fun w s hw hg hb => attestationRequest_busy hw hg hb, fun cause a nonce s hs ha => ?_,
    fun signature a key nonce s hs hk hn => ?_⟩
  · obtain ⟨u, only, e⟩ := attestationRequest_idle hw hg hb
    rw [e]
    refine ⟨fun hi => ?_, fun hi hr hw => ?_, fun hi h => ?_⟩
    · rw [only.startReport_unidentified hi]
      exact ⟨_, rfl, only.fails (code := 1) (by decide)⟩
    · rw [only.startReport_begins hi hr hw]
      obtain ⟨busy, code⟩ := beginReport_shows u
      refine ⟨_, rfl, busy, code, only.beginReport_sec, only.regs.trans (beginReport_regs u), ?_⟩
      rw [beginReport_frame, only.frame]
    · obtain hr | ⟨hr, ha, hw⟩ := h
      · rw [only.startReport_misplaced hi hr, if_neg (by simp [hr])]
        exact ⟨_, rfl, only.fails (code := 2) (by decide)⟩
      · rw [only.startReport_wiped hi hr ha hw, if_pos hr]
        exact ⟨_, rfl, only.fails (code := 4) (by decide)⟩
  · obtain ⟨code, err, idle⟩ := failReport_shows (code := 4) (by decide) (zeroSecure { s with sec := { s.sec with wiping := true } })
    rw [startWipe_overtakes cause hs ha]
    refine ⟨rfl, ?_, ?_, ?_, fun x hx => byteAt_zeroSecure _ hx⟩
    all_goals rwa [rd_wr_off _ _ (by decide)]
  · have len : (reportBody nonce s ++ signatureBlock key signature).length = 1728 := by simp [reportBody_length s hn]
    obtain ⟨done, idle⟩ := putReport_shows a (reportBody nonce s ++ signatureBlock key signature) s
    refine ⟨_, exec_attestReportWritten signature hs hk, done, idle, fun x => ?_, rfl, putReport_regs _ _ s, putReport_frame _ _ s⟩
    rw [putReport_scr, byteAt_putBytes, len]

end Sys2Proof.Machine
end
